-- ==== Sys2Proof/Word.lean ====
section
/-! DEFINITION. The word types of the OX7400 (R26, R43) and their plainest arithmetic. -/

namespace Sys2Proof

/-- One byte of memory. -/
abbrev Byte := BitVec 8
/-- A scalar register, an address in transit, a GTC value (R26, R37). -/
abbrev Word := BitVec 64
/-- A predicate register: bit i governs byte i of a vector (R26). -/
abbrev Pred := BitVec 256
/-- A core, by physical id (R13) unless a name says logical. -/
abbrev CoreId := BitVec 6
/-- A bank unit, by device unit number 64·stack + chain position (R242). -/
abbrev UnitId := BitVec 9

/-- Sign extension of the 20-bit immediate: SE of R114. -/
def se20 (imm : BitVec 20) : Word := imm.signExtend 64
/-- Zero extension of the 20-bit immediate: ZE of R114. -/
def ze20 (imm : BitVec 20) : Word := imm.zeroExtend 64
/-- A predicate of all ones or all zeros. -/
def predOf (b : Bool) : Pred := if b then BitVec.allOnes 256 else 0#256

end Sys2Proof
end

