-- ==== Sys2Proof/Syntax.lean ====
section
/-! DEFINITION. The rows of the opcode table, one constructor each (R70, R94, R102, R109, and the device's own
steps), and the plain data they carry. -/

namespace Sys2Proof

/-- The engines of a core: S, V, M, C, G and X (R8). -/
inductive Eng where
  | v | m | c | g | x | s
  deriving DecidableEq, Repr

/-- The fields of a 64-bit instruction (R93), less the marker and the opcode. -/
structure Fields where
  en : Bool
  gp : BitVec 4
  gs : Bool
  pop : BitVec 3
  push : BitVec 3
  d : BitVec 6
  a : BitVec 6
  b : BitVec 6
  f : BitVec 6
  imm : BitVec 20
  deriving DecidableEq, Repr

/-- The fields of a patch word (R100). -/
structure PatchWord where
  eng : BitVec 3
  tix : BitVec 6
  fsel : BitVec 5
  go : Bool
  val : BitVec 16
  deriving DecidableEq, Repr

/-- The fields of a Lanem-B word (R108), less the opcode. -/
structure BankWord where
  d : BitVec 5
  a : BitVec 5
  b : BitVec 5
  imm : BitVec 12
  deriving DecidableEq, Repr

/-- A bridge message as its flits carry it (R364, R365); port false is port 0. -/
structure Flit where
  msg : BitVec 8
  port : Bool
  tag : BitVec 12
  ia : Nat
  grain : BitVec 2
  cc : Bool
  conv : Bool
  wbpend : Bool
  dirty : Bool
  full : Bool
  wd : Bool
  stamp : Word
  mask : BitVec 64
  opf : BitVec 16
  val : Word
  repl : Word
  data : List Byte
  /-- The write stamp W that goes with a grain or an old value; the flit format gives it no bytes (log 72). -/
  w : Word
  deriving DecidableEq, Repr

/-- The MetaValue of a CXL.mem request (R333). -/
inductive MetaValue where
  | inv | shared | any
  deriving DecidableEq, Repr

/-- A message of the host port: CXL.mem requests and responses, CXL.cache snoops and completions (R333, R334). -/
structure HostMsg where
  ia : Nat
  mv : MetaValue
  tag : Nat
  data : List Byte
  deriving DecidableEq, Repr

/-- A command record as the device takes it from the ring (R359); reserved says that a bit the record leaves
reserved is set. -/
structure Cmd where
  ctx : BitVec 4
  fence : Bool
  reserved : Bool
  tag : BitVec 32
  a0 : Word
  a1 : Word
  a2 : Word
  a3 : Word
  a4 : Word
  a5 : Word
  a6 : Word
  deriving DecidableEq, Repr

/-- What a router sees of one neighbour in one period (R385). -/
inductive Beat where
  | clean
  | missing
  | faulty
  deriving DecidableEq, Repr

/-- What a scrub read finds in one word (R381). -/
inductive ScrubResult where
  | clean
  | corrected
  | uncorrectable
  deriving DecidableEq, Repr

/-- The tamper sensors (R374). -/
inductive Sensor where
  | voltage | clock | temperature | mesh
  deriving DecidableEq, Repr

/-- The rows of the opcode table. A 64-bit instruction carries its fields (R93), a patch word its own (R100), a
Lanem-B word its own (R108); a step of the device carries the core, the entry or the message it concerns. -/
inductive Instr where
  /-- ISSUE (R70). The sequencer issues the next instruction in program order; scalar register effects happen now. -/
  | issue (c : CoreId)
  /-- PERFORM_A_LOAD (R70). An issued load that the reorder rules allow takes its value from a live copy or the home, and the carried write stamp folds into O. -/
  | performALoad (c : CoreId) (n : Nat) (copy : Bool)
  /-- SEND_A_STORE (R70). An issued store joins its home's queue, updates the core's own live L1 copy, opens a stamp-buffer entry and makes the horizons it feeds pending. -/
  | sendAStore (c : CoreId) (i : Nat)
  /-- SERVE_AT_A_HOME (R70). The access at the head of a home queue is served: a store is performed and stamped, a load answered with data and W, a fill granted a lease, or an atomic run. -/
  | serveAtAHome (i : Nat)
  /-- RETURN_A_STAMP (R70). Returned stamps close the stamp-buffer entry and raise each horizon the store fed. -/
  | returnAStamp (c : CoreId) (i : Nat)
  /-- EXPIRE_A_LEASE (R70). When the GTC reaches a copy's lease expiry the copy is dead and serves nothing more. -/
  | expireALease (c : CoreId) (i : Nat)
  /-- LEASE_TABLE_CLEAR (R72). When the home's GTC reaches E, the home clears the cluster mask M of the grain. -/
  | leaseTableClear (g : Nat)
  /-- RETIRE_A_FENCE (R77). A fence retires once earlier loads are performed, the waited horizons are not pending and the GTC has reached them, then releases later accesses. -/
  | retireAFence (c : CoreId)
  /-- TICK (R37). The GTC advances by one tick. -/
  | tick
  /-- ENGINE_OPERATION_START (R182). An M, C, G or X operation reaches the head of its queue, pops its token, waits for its ordering conditions and makes its start checks. -/
  | engineOperationStart (c : CoreId) (e : Eng)
  /-- ENGINE_OPERATION_COMPLETE (R88). An engine operation's last write is performed; it pushes its token and its stamp stops being pending. -/
  | engineOperationComplete (c : CoreId) (e : Eng)
  /-- DEFERRED_TRAP (R185). After a faulted engine operation's completion reaches S, the core takes a deferred trap at its first task-mode instruction boundary. -/
  | deferredTrap (c : CoreId)
  /-- TOKEN_TIMEOUT (R15). A token wait that lasts 2^20 ticks ends in TOKEN_TIMEOUT, a precise trap for S or V and ENGINE_FAULT status for an engine. -/
  | tokenTimeout (c : CoreId) (e : Eng)
  /-- TOKEN_WAIT_END (R15). A pop waiting on an empty queue, or a push waiting on a full one, proceeds once a token or room appears. -/
  | tokenWaitEnd (c : CoreId) (e : Eng)
  /-- FE_TIMEOUT (R31). A full/empty wait that lasts 2^20 ticks traps FE_TIMEOUT on the waiting core. -/
  | feTimeout (c : CoreId)
  /-- FE_WAIT_END (R31). A waiting STE, LDF, VLDF or VSTE is performed once its word or words reach the state it needs. -/
  | feWaitEnd (i : Nat)
  /-- LANDING (R25). A landing-buffer entry is written into its 256-byte register-region granule in one cycle. -/
  | landing (c : CoreId) (i : Nat)
  /-- SIDE_LOG_REPLAY (R85). After its page is mapped the memory unit replays a side-log entry, which is served at its home, stamped and closed. -/
  | sideLogReplay (c : CoreId)
  /-- SC_SLOT (R86). A sequentially consistent operation issues at the start of its core's next slot on the wheel after its fence retires. -/
  | scSlot (c : CoreId)
  /-- MATRIX_LEASE_GRANT (R28). The cluster array grants its lease round-robin to the next requesting cluster position. -/
  | matrixLeaseGrant (cl : BitVec 4)
  /-- MATRIX_LEASE_EXPIRY (R28). A lease ends after 64 commands, 4,096 cycles or 64 idle cycles with another requester; the array finishes the command and re-arbitrates. -/
  | matrixLeaseExpiry (cl : BitVec 4)
  /-- PATCH_WORD (R103). A 32-bit patch word amends the staging slot of an engine and, with GO, checks the header, waits for fences and room, and enqueues the operation's snapshot. -/
  | patchWord (p : PatchWord)
  /-- ADD (R113). sD := sA + sB, wrapping or saturating by F. -/
  | add (w : Fields)
  /-- SUB (R113). sD := sA - sB, wrapping or saturating by F. -/
  | sub (w : Fields)
  /-- MUL (R113). sD := the low 64 bits of sA × sB. -/
  | mul (w : Fields)
  /-- MULH (R113). sD := the high 64 bits of the signed, unsigned or mixed 128-bit product. -/
  | mulh (w : Fields)
  /-- DIV (R113). sD := the quotient truncated toward zero, with defined results for division by zero and overflow. -/
  | div (w : Fields)
  /-- REM (R113). sD := the remainder with the dividend's sign, with defined special cases. -/
  | rem (w : Fields)
  /-- AND (R113). sD := sA & sB. -/
  | and (w : Fields)
  /-- OR (R113). sD := sA | sB. -/
  | or (w : Fields)
  /-- XOR (R113). sD := sA ^ sB. -/
  | xor (w : Fields)
  /-- ANDN (R113). sD := sA & ~sB. -/
  | andn (w : Fields)
  /-- SHL (R113). sD := sA shifted left by sB[5:0]. -/
  | shl (w : Fields)
  /-- SHR (R113). sD := sA shifted logically right by sB[5:0]. -/
  | shr (w : Fields)
  /-- SRA (R113). sD := sA shifted arithmetically right by sB[5:0]. -/
  | sra (w : Fields)
  /-- MIN (R113). sD := the lesser operand, signed or unsigned. -/
  | min (w : Fields)
  /-- MAX (R113). sD := the greater operand, signed or unsigned. -/
  | max (w : Fields)
  /-- CLZ (R113). sD := the count of leading zero bits of sA. -/
  | clz (w : Fields)
  /-- POPC (R113). sD := the count of one bits of sA. -/
  | popc (w : Fields)
  /-- BFX (R113). sD := a bit field of sA, zero- or sign-extended. -/
  | bfx (w : Fields)
  /-- BFI (R113). Inserts sA's low bits into a bit field of sD. -/
  | bfi (w : Fields)
  /-- SEL (R113). sD := sA if bit 0 of the named predicate is 1, else sB. -/
  | sel (w : Fields)
  /-- ADDI (R114). sD := sA + the sign-extended immediate. -/
  | addi (w : Fields)
  /-- ANDI (R114). sD := sA & the sign-extended immediate. -/
  | andi (w : Fields)
  /-- ORI (R114). sD := sA | the zero-extended immediate. -/
  | ori (w : Fields)
  /-- XORI (R114). sD := sA ^ the zero-extended immediate. -/
  | xori (w : Fields)
  /-- SHLI (R114). sD := sA shifted left by an immediate count. -/
  | shli (w : Fields)
  /-- SHRI (R114). sD := sA shifted logically right by an immediate count. -/
  | shri (w : Fields)
  /-- SRAI (R114). sD := sA shifted arithmetically right by an immediate count. -/
  | srai (w : Fields)
  /-- MOVI (R114). sD := the sign-extended 20-bit immediate. -/
  | movi (w : Fields)
  /-- LUI (R114). sD := SE(imm) << 20, or with .hi sA[39:0] | SE(imm) << 40. -/
  | lui (w : Fields)
  /-- CMP (R115). Compares sA with sB and writes or combines the condition into predicate pD. -/
  | cmp (w : Fields)
  /-- CMPI (R115). Compares sA with the sign-extended immediate and writes or combines the condition into pD. -/
  | cmpi (w : Fields)
  /-- PMOV (R116). Moves, combines or converts predicates and scalar registers by F. -/
  | pmov (w : Fields)
  /-- LEA (R117). sD := sA + (sB << n) + SE(imm) without accessing memory. -/
  | lea (w : Fields)
  /-- LEA2 (R117). Computes a two-dimensional address from row, column and pitch without accessing memory. -/
  | lea2 (w : Fields)
  /-- B (R118). Branches to PC + 4·SE(imm). -/
  | b (w : Fields)
  /-- BI (R118). Branches to sA, optionally linking s63. -/
  | bi (w : Fields)
  /-- CALL (R118). Writes s63 := PC + 8 and branches to the relative target. -/
  | call (w : Fields)
  /-- RET (R118). Branches to sA, s63 by default. -/
  | ret (w : Fields)
  /-- LOOPN (R118). Decrements sD and branches to the target while it is nonzero. -/
  | loopn (w : Fields)
  /-- LD (R120). Weak load of 1 to 8 bytes from the named space into sD. -/
  | ld (w : Fields)
  /-- ST (R120). Weak store of the low 1 to 8 bytes of sD to the named space. -/
  | st (w : Fields)
  /-- LDS (R120). Strong load, optionally acquire or sequentially consistent. -/
  | lds (w : Fields)
  /-- STS (R120). Strong store, optionally release or sequentially consistent. -/
  | sts (w : Fields)
  /-- LDF (R124). Waits until the word is full, reads it, and with .c sets it empty in the same step. -/
  | ldf (w : Fields)
  /-- STE (R124). Waits until the word is empty, writes it and sets it full. -/
  | ste (w : Fields)
  /-- STF (R124). Writes the word and sets it full whatever its state. -/
  | stf (w : Fields)
  /-- FECLR (R124). Sets a range of full/empty words empty in ascending order, leaving values unchanged. -/
  | feclr (w : Fields)
  /-- FEQ (R124). Writes pD all ones if the word is full, else all zeros. -/
  | feq (w : Fields)
  /-- PREF (R123). Requests bytes into the L1 or prefetch buffer, never trapping on its address. -/
  | pref (w : Fields)
  /-- LDP (R122). Loads from a parameter window through the window cache, reading zero beyond LEN. -/
  | ldp (w : Fields)
  /-- AMO (R126). Performs an indivisible read-modify-write at the home and returns the old value. -/
  | amo (w : Fields)
  /-- AMOSC (R126). Performs a sequentially consistent atomic in the core's wheel slot and returns the old value. -/
  | amosc (w : Fields)
  /-- RED (R126). Performs a reduction at the home with no returned value. -/
  | red (w : Fields)
  /-- FENCE (R128). Holds later accesses and GOs until the fence of the named scope retires. -/
  | fence (w : Fields)
  /-- FLAGADD (R129). Fences, adds to the arrival count of a counting flag and sets it full when the count reaches the target. -/
  | flagadd (w : Fields)
  /-- FLAGSET (R130). Fences, then sets one or multicast scratchpad words full with a value and returns the failure mask. -/
  | flagset (w : Fields)
  /-- SEAL (R131). Fences and registers a sealed buffer in the staging space. -/
  | seal (w : Fields)
  /-- UNSEAL (R132). Marks a sealed buffer closing, waits for its read count to reach zero and frees its descriptor. -/
  | unseal (w : Fields)
  /-- BALLOT (R133). Fences and posts a hash to the task's sibling ballot, returning OPEN, WON, CLOSED, NOTAG or REPEAT. -/
  | ballot (w : Fields)
  /-- CANCHK (R134). Observes cancellation, abandoning the task or writing a predicate with .test. -/
  | canchk (w : Fields)
  /-- PHBEGIN (R136). Drains the engines and opens a rollback phase over a scratchpad double buffer. -/
  | phbegin (w : Fields)
  /-- PHCOMMIT (R137). Waits for the phase's operations, then commits or retries the phase, or traps PHASE_EXHAUSTED. -/
  | phcommit (w : Fields)
  /-- TKPOP (R138). Pops the named token queue with S as consumer. -/
  | tkpop (w : Fields)
  /-- TKPUSH (R138). Pushes the named token queue with S as producer. -/
  | tkpush (w : Fields)
  /-- TKQ (R138). Writes the token count of a queue into sD. -/
  | tkq (w : Fields)
  /-- RDTIME (R139). Writes the GTC, or the promised completion tick of the latest C operation, into sD. -/
  | rdtime (w : Fields)
  /-- SLEEPT (R139). Waits until the GTC reaches sA or the promise. -/
  | sleept (w : Fields)
  /-- SLEEPT_WAKE (R139). The sleeping core wakes when the GTC reaches its target; the promise form traps MISSED_PROMISE if the operation is not complete. -/
  | sleeptWake (c : CoreId)
  /-- HZN (R140). Writes a horizon value with its pending bit, or O, into sD. -/
  | hzn (w : Fields)
  /-- RTE (R151). Returns from handler mode to TEPC in task mode. -/
  | rte (w : Fields)
  /-- KILL (R150). Kills a node or cancels a sibling group and returns a result. -/
  | kill (w : Fields)
  /-- CFGR (R141). Reads a configuration register word into sD. -/
  | cfgr (w : Fields)
  /-- CFGW (R141). Writes a configuration register word under the access and reserved-bit checks of R40. -/
  | cfgw (w : Fields)
  /-- CFGW_TQCFG (R17). A CFGW to TQCFG traps if a queue holds a token or a code is illegal, else waits for empty engine queues and writes the routing. -/
  | cfgwTqcfg (w : Fields)
  /-- CFGW_POOL_BOUNDARY (R19). A handler CFGW to PBREG, PBSP or PBCACHE drains the core and re-cuts the pool at once. -/
  | cfgwPoolBoundary (w : Fields)
  /-- CFGW_LSEED (R195). A CFGW to LSEED sets the policies and reloads the lantern state L. -/
  | cfgwLseed (w : Fields)
  /-- CFGW_STATUS (R141). A CFGW to STATUS clears each sticky flag written with 1. -/
  | cfgwStatus (w : Fields)
  /-- CFGW_VIEW (R141). A CFGW to a view register or FMODE waits until every earlier V instruction has started, then writes. -/
  | cfgwView (w : Fields)
  /-- VIEW (R142). Writes a tile view register from sA with the checks of R23. -/
  | view (w : Fields)
  /-- TSET (R143). Writes one field of a template in the core's template store. -/
  | tset (w : Fields)
  /-- TLOAD (R143). Loads a 32-byte template image from memory into the template store. -/
  | tload (w : Fields)
  /-- TSAVE (R143). Stores a template's 32 bytes to memory. -/
  | tsave (w : Fields)
  /-- MLEASE (R144). Requests the cluster array's lease and waits for the grant, or tests once in the non-blocking form. -/
  | mlease (w : Fields)
  /-- MREL (R144). Ends the core's matrix lease after the command in progress. -/
  | mrel (w : Fields)
  /-- ASWAP (R29). Waits for quiescence of the accumulator part, then exchanges it with its visible bytes. -/
  | aswap (w : Fields)
  /-- MSTAT (R145). Writes the core's lease and M-queue status into sD. -/
  | mstat (w : Fields)
  /-- REFLD (R222). Loads a reference from an object through the barrier, following and optionally healing a forwarder. -/
  | refld (w : Fields)
  /-- REFST (R222). Stores a reference into an object through the barrier. -/
  | refst (w : Fields)
  /-- HLD (R223). Loads data bytes from an object through the barrier. -/
  | hld (w : Fields)
  /-- HST (R223). Stores data bytes into an object through the barrier. -/
  | hst (w : Fields)
  /-- REFPIN (R224). Pins an object, waiting out relocation, and returns its IA. -/
  | refpin (w : Fields)
  /-- REFUNPIN (R224). Releases a pin, freeing the object if its counts reach zero. -/
  | refunpin (w : Fields)
  /-- KVAG (R233). Sets a key-value generator from a slot descriptor read at the scheduler. -/
  | kvag (w : Fields)
  /-- KVADDR (R234). Forms the reference of a position through a generator without touching memory. -/
  | kvaddr (w : Fields)
  /-- END (R147). Waits for every engine operation, fences fully, releases the core's state and retires the iteration. -/
  | endIter (w : Fields)
  /-- YIELD (R148). Drains the core and takes a pending cancellation, pre-emption or migration. -/
  | yield (w : Fields)
  /-- SPAWN (R149). Observes cancellation, fences and decrements a resident node's predecessor counter. -/
  | spawn (w : Fields)
  /-- TRAP (R151). Raises SW_TRAP with TVAL := imm. -/
  | trap (w : Fields)
  /-- VADD (R159). Adds lanes, wrapping, saturating or rounding once. -/
  | vadd (w : Fields)
  /-- VSUB (R159). Subtracts lanes, wrapping, saturating or rounding once. -/
  | vsub (w : Fields)
  /-- VMUL (R159). Multiplies lanes, low, high or saturating for integers, rounded once for floats. -/
  | vmul (w : Fields)
  /-- VFMA (R159). Fused multiply-add of lanes into vD with one rounding. -/
  | vfma (w : Fields)
  /-- VMIN (R159). Lane minimum with defined NaN and zero handling. -/
  | vmin (w : Fields)
  /-- VMAX (R159). Lane maximum with defined NaN and zero handling. -/
  | vmax (w : Fields)
  /-- VUN (R160). Applies a unary function (abs, neg, rcp, rsqrt, exp2, log2, sigmoid) to lanes. -/
  | vun (w : Fields)
  /-- VCMP (R162). Compares lanes and writes the result into a predicate. -/
  | vcmp (w : Fields)
  /-- VSEL (R162). Selects lanes of vA or vB by a predicate. -/
  | vsel (w : Fields)
  /-- VLOG (R164). Bitwise operations, population count or leading-zero count on lanes. -/
  | vlog (w : Fields)
  /-- VSH (R165). Shifts or rotates integer lanes by a vector or immediate count. -/
  | vsh (w : Fields)
  /-- VCVT (R166). Converts lanes between integer and float types with part selection. -/
  | vcvt (w : Fields)
  /-- VRED (R167). Reduces lanes in a fixed tree into lane 0. -/
  | vred (w : Fields)
  /-- VSCAN (R167). Computes an inclusive or exclusive prefix scan of lanes. -/
  | vscan (w : Fields)
  /-- VPERM (R169). Permutes lanes by index, reversal, rotation, zip or unzip. -/
  | vperm (w : Fields)
  /-- VBCAST (R170). Broadcasts a scalar or one lane to every lane. -/
  | vbcast (w : Fields)
  /-- VEXT (R171). Extracts one lane into a scalar register. -/
  | vext (w : Fields)
  /-- VINS (R171). Inserts a scalar into one lane. -/
  | vins (w : Fields)
  /-- VLD (R172). Weak load of 256 bytes into a vector register. -/
  | vld (w : Fields)
  /-- VST (R172). Weak store of 256 bytes from a vector register. -/
  | vst (w : Fields)
  /-- VLDG (R173). Gathers elements at indexed addresses into lanes. -/
  | vldg (w : Fields)
  /-- VSTS (R173). Scatters lanes to indexed addresses. -/
  | vsts (w : Fields)
  /-- VLDF (R174). Waits until 32 selected words are full and reads them in one step, optionally consuming. -/
  | vldf (w : Fields)
  /-- VSTE (R174). Waits until 32 selected words are empty and writes and fills them in one step. -/
  | vste (w : Fields)
  /-- VQNT (R176). Quantises groups of 32 lanes into records inside a register. -/
  | vqnt (w : Fields)
  /-- VDQNT (R176). Checks and dequantises records into lanes. -/
  | vdqnt (w : Fields)
  /-- VLOGC (R177). Converts lanes between a float type and L16 under a scale. -/
  | vlogc (w : Fields)
  /-- VDOT (R179). Accumulates short dot products of lanes into vD. -/
  | vdot (w : Fields)
  /-- VPM (R163). Moves values between predicates and vectors, compresses, expands or counts. -/
  | vpm (w : Fields)
  /-- VIOTA (R168). Writes base + j × sA into each lane. -/
  | viota (w : Fields)
  /-- VTOPK (R180). Keeps the k greatest candidates with their indices, optionally merging. -/
  | vtopk (w : Fields)
  /-- VRAND (R181). Draws counter-based random bits or uniform values into lanes. -/
  | vrand (w : Fields)
  /-- MMAC (R190). Matrix multiply-accumulate of tile views into the working bank, checked by the lantern. -/
  | mmac (c : CoreId) (n : Nat)
  /-- MZERO (R192). Writes zero into an accumulator part of the working bank. -/
  | mzero (c : CoreId) (n : Nat)
  /-- MKAT (R194). Runs a known-answer tile through the array and compares its hash. -/
  | mkat (c : CoreId) (n : Nat)
  /-- MHASH (R193). Hashes an accumulator part into the working bank and optionally compares it. -/
  | mhash (c : CoreId) (n : Nat)
  /-- CPY (R199). Copies bytes between spaces with memmove order or a conversion. -/
  | cpy (c : CoreId) (n : Nat)
  /-- CPYND (R203). Copies a four-dimensional strided array in a chosen walk order. -/
  | cpynd (c : CoreId) (n : Nat)
  /-- GATHER (R204). Gathers indexed elements into a packed destination. -/
  | gather (c : CoreId) (n : Nat)
  /-- SCATTER (R204). Scatters packed elements to indexed places. -/
  | scatter (c : CoreId) (n : Nat)
  /-- FILL (R205). Fills bytes with an 8-byte pattern. -/
  | fill (c : CoreId) (n : Nat)
  /-- RELAYOUT (R206). Blocks, unblocks or converts a matrix to bank-plane form. -/
  | relayout (c : CoreId) (n : Nat)
  /-- MCAST (R207). Copies bytes into the scratchpads of every core in a mask, checking each destination. -/
  | mcast (c : CoreId) (n : Nat)
  /-- PHFETCH (R208). Copies into a half of the phase double buffer and records the snapshot for retry. -/
  | phfetch (c : CoreId) (n : Nat)
  /-- STAGE (R209). Copies into the staging space and seals the range at completion. -/
  | stage (c : CoreId) (n : Nat)
  /-- DESC (R210). Runs a chain of copy descriptor entries in order. -/
  | desc (c : CoreId) (n : Nat)
  /-- BLOAD (R258). Checks a Lanem-B program and loads it into the units of a page set. -/
  | bload (c : CoreId)
  /-- BACT (R259). Checks activation records and loads them into the units of a page set. -/
  | bact (c : CoreId)
  /-- BEXEC (R260). Checks its page set and starts the loaded program on every unit after the write-through drain. -/
  | bexec (c : CoreId)
  /-- WRITE_THROUGH_DRAIN (R266). The home's write-through queue for the operand drains, letting the BEXEC's units start. -/
  | writeThroughDrain (c : CoreId)
  /-- BEXEC_COMPLETE (R261). After every unit exits and its STRs are performed, G sums delivery rows over stacks and completes the BEXEC. -/
  | bexecComplete (c : CoreId)
  /-- BREAD (R262). Lands 32 W64 lanes of a delivery row into a vector register with a poison mask. -/
  | bread (c : CoreId)
  /-- BSAFE (R263). Marks the core's queued and running BEXECs to stop at the next collective SAFE. -/
  | bsafe (c : CoreId)
  /-- BSTAT (R264). Writes the status and counts of the last bank operations to the scratchpad. -/
  | bstat (c : CoreId)
  /-- KVAPPEND (R235). Encodes, quantises and writes one position of a head group's K or V into the slot arena. -/
  | kvappend (c : CoreId) (n : Nat)
  /-- KVHAND (R237). On arrival at the slot table moves a PROMPT slot to HANDING and records HLEN. -/
  | kvhand (c : CoreId)
  /-- KVHAND_GEN (R237). Once earlier appends complete and are visible, the slot becomes GEN and KVHAND completes. -/
  | kvhandGen (slot : BitVec 10)
  /-- XCPY (R214). Copies bytes across the bridge. -/
  | xcpy (c : CoreId) (n : Nat)
  /-- XRED (R215). Combines elements into a destination across the bridge by read-modify-write. -/
  | xred (c : CoreId) (n : Nat)
  /-- XGATH (R216). Gathers indexed elements from either device. -/
  | xgath (c : CoreId) (n : Nat)
  /-- XSIG (R217). After earlier X operations are visible, writes or adds to a signal word. -/
  | xsig (c : CoreId) (n : Nat)
  /-- BANK_NOP (R109). Does nothing. -/
  | bankNop (w : BankWord)
  /-- BANK_LDR (R248). Loads one 64-byte word of the unit's share into a y register, poisoning on an uncorrectable error. -/
  | bankLdr (w : BankWord)
  /-- BANK_STR (R248). Stores a y register into one word of the unit's share. -/
  | bankStr (w : BankWord)
  /-- BANK_LDI (R247). Loads a sign-extended immediate into every lane. -/
  | bankLdi (w : BankWord)
  /-- BANK_MOV (R247). Copies a y register with its poison bits. -/
  | bankMov (w : BankWord)
  /-- BANK_ADD (R247). Lane add, wrapping or saturating. -/
  | bankAdd (w : BankWord)
  /-- BANK_SUB (R247). Lane subtract, wrapping or saturating. -/
  | bankSub (w : BankWord)
  /-- BANK_MUL (R247). Lane multiply, low bits or saturating. -/
  | bankMul (w : BankWord)
  /-- BANK_MIN (R247). Lane minimum, signed or unsigned. -/
  | bankMin (w : BankWord)
  /-- BANK_MAX (R247). Lane maximum, signed or unsigned. -/
  | bankMax (w : BankWord)
  /-- BANK_CMP (R247). Compares lanes into a mask register. -/
  | bankCmp (w : BankWord)
  /-- BANK_SEL (R247). Selects lanes under a mask. -/
  | bankSel (w : BankWord)
  /-- BANK_SHL (R247). Lane shift left. -/
  | bankShl (w : BankWord)
  /-- BANK_SHR (R247). Lane shift right, logical or arithmetic. -/
  | bankShr (w : BankWord)
  /-- BANK_LOGB (R247). Bitwise operation on 64 bytes. -/
  | bankLogb (w : BankWord)
  /-- BANK_QMAC (R249). Q8 × Q16 multiply-accumulate of 64 lanes into an accumulator, advancing AC. -/
  | bankQmac (w : BankWord)
  /-- BANK_LMAC (R249). L6 or L4 × L16 log-dot accumulate of 64 lanes over four steps, advancing AC. -/
  | bankLmac (w : BankWord)
  /-- BANK_KCLR (R250). Clears an accumulator and its poison and dirty bits. -/
  | bankKclr (w : BankWord)
  /-- BANK_KMOV (R250). Copies accumulator lanes, optionally under a mask. -/
  | bankKmov (w : BankWord)
  /-- BANK_RIDGE (R251). Adds the incoming partial sum and passes it to the next unit or delivers it at the tail. -/
  | bankRidge (w : BankWord)
  /-- RIDGE_RECEIVE (R251). A unit waiting in RIDGE receives its predecessor's row and goes on. -/
  | ridgeReceive (u : UnitId)
  /-- BANK_LOOP (R252). Opens a zero-overhead loop level over the next len words. -/
  | bankLoop (w : BankWord)
  /-- BANK_SAFE (R253). Marks a point where the unit may stop and where held writes are released. -/
  | bankSafe (w : BankWord)
  /-- BANK_EXIT (R253). Ends the program on this unit. -/
  | bankExit (w : BankWord)
  /-- UNIT_WORD_ISSUE (R244). A bank unit issues one word, or an LDR/STR pair, in a unit cycle. -/
  | unitWordIssue (u : UnitId)
  /-- ROW_OPEN (R244). The MCS finishes opening a row a cursor needs after 24 unit cycles and the program goes on. -/
  | rowOpen (u : UnitId)
  /-- MCS_SERVE (R265). The MCS serves an ordinary access between program column slots, at a row change, at SAFE or in arrival order. -/
  | mcsServe (ch : BitVec 7) (i : Nat)
  /-- BANK_STOP (R269). On a stop request each unit stops at its N-th SAFE and its resume record is kept. -/
  | bankStop (c : CoreId)
  /-- BANK_WATCHDOG (R270). On watchdog expiry each MCS with an unstopped unit is reset and the BEXEC completes PREEMPT_RESET. -/
  | bankWatchdog (c : CoreId)
  /-- VIEW_READ (R274). The layout engine turns a row-major view access into ordered plane-word accesses. -/
  | viewRead (i : Nat)
  /-- DISPATCH (R287). The scheduler dispatches the next iteration of a ready node to the first free eligible core and re-cuts its pool. -/
  | dispatch
  /-- AGING_STEP (R288). A waiting node's EP rises by one when its wait clock reaches 65,536 ticks. -/
  | agingStep (node : BitVec 12)
  /-- PREEMPTION (R152). A core is pre-empted at an instruction boundary, abandoning waits and saving its context into a save frame. -/
  | preemption (c : CoreId)
  /-- RESUME (R294). A saved iteration is restored from its frame and continues on the core it left. -/
  | resume (c : CoreId)
  /-- MIGRATION_RELEASE (R377). When the state has moved, the ids are swapped, held pieces are performed at the target and the task resumes. -/
  | migrationRelease (c : CoreId)
  /-- SIBLING_RELEASE (R302). After a cancelled sibling's last retirement and BEXEC completion, its slot and objects are released and cleared. -/
  | siblingRelease (grp : BitVec 6) (idx : BitVec 4)
  /-- RELOC_CHUNK (R225). The compaction engine marks a chunk busy, waits for acknowledgements, copies it and advances PROG. -/
  | relocChunk
  /-- RELOC_END (R277). After the last chunk the object becomes PRESENT at its new base and the old copy returns to the pool. -/
  | relocEnd
  /-- PAGE_FAULT_LOAD (R354). A load held for 1 ms is abandoned and ends in PAGE_FAULT_LOAD, ENGINE_FAULT or poison. -/
  | pageFaultLoad (i : Nat)
  /-- MIGRATION_EPOCH (R356). Each epoch the migration engine examines HOST-tier leaves and decides to migrate or replicate pages. -/
  | migrationEpoch
  /-- MIGRATE_COMMIT (R357). After the copy, a migrated or replicated page is committed, held accesses released and a record written. -/
  | migrateCommit (page : Nat)
  /-- REQS (R325). A read-shared request from the peer RDC is served or refused at the home. -/
  | reqs (f : Flit)
  /-- REQX (R325). A read-exclusive request from the peer RDC is served or refused at the home. -/
  | reqx (f : Flit)
  /-- REQU (R325). An upgrade request from the peer RDC is granted, converted or refused at the home. -/
  | requ (f : Flit)
  /-- REQWT (R332). A write-through store to a CC line is performed at the home. -/
  | reqwt (f : Flit)
  /-- REQSTRONG (R365). A strong access, atomic, reduction, full/empty operation or withdrawal is performed at the target. -/
  | reqstrong (f : Flit)
  /-- WB (R331). A write-back from the peer is taken at the home, answering any crossing forwarded snoop. -/
  | wb (f : Flit)
  /-- DATAS (R326). A shared grant is installed in the RDC. -/
  | datas (f : Flit)
  /-- DATAE (R326). A clean exclusive grant is installed in the RDC. -/
  | datae (f : Flit)
  /-- DATAM (R326). An exclusive grant for a store is installed in the RDC and the waiting store applied. -/
  | datam (f : Flit)
  /-- GNTU (R326). An upgrade grant lets the RDC apply its waiting store. -/
  | gntu (f : Flit)
  /-- CMPWT (R324). Completion of a write-through store returns its stamps. -/
  | cmpwt (f : Flit)
  /-- CMPSTRONG (R365). Completion of a strong access returns stamps, value and flags to the issuer. -/
  | cmpstrong (f : Flit)
  /-- REFUSE (R327). A refusal makes the requester wait its back-off before retrying. -/
  | refuse (f : Flit)
  /-- REFUSE_RETRY (R327). After its back-off delay a refused request is retried. -/
  | refuseRetry (i : Nat)
  /-- RESERVATION_END (R328). A grain reservation lapses 8,192 ticks after its last refusal and passes to the next waiter. -/
  | reservationEnd (g : Nat)
  /-- WBACK (R326). A write-back acknowledgement frees the RDC's XI grain and write-back buffer entry. -/
  | wback (f : Flit)
  /-- FWDS (R326). A downgrade snoop makes the RDC return data and move to S or O. -/
  | fwds (f : Flit)
  /-- FWDX (R326). An invalidating snoop makes the RDC return data and move to I. -/
  | fwdx (f : Flit)
  /-- INV (R326). An invalidation makes the RDC drop its copy and acknowledge. -/
  | inv (f : Flit)
  /-- SNPRSPDATA (R325). A snoop answer with data completes the home's transient state. -/
  | snprspdata (f : Flit)
  /-- SNPRSPS (R325). A snoop answer without data reports a shared copy. -/
  | snprsps (f : Flit)
  /-- SNPRSPI (R331). A snoop answer without data completes or, with WBPEND, awaits a crossing write-back. -/
  | snprspi (f : Flit)
  /-- INVACK (R325). An invalidation acknowledgement lets the home resolve Vsystem and leave T-INV. -/
  | invack (f : Flit)
  /-- AK_RECALL_ACK (R335). A recall acknowledgement for an AK store arrives and may resolve the store's stamps. -/
  | akRecallAck (c : CoreId) (i : Nat)
  /-- HOST_SNOOP (R334). The RDC answers a host snoop of a line homed in host memory. -/
  | hostSnoop (h : HostMsg)
  /-- MEMRD (R333). A host CXL.mem read is served at the home with the requested MetaValue. -/
  | memrd (h : HostMsg)
  /-- MEMRDDATA (R333). A host CXL.mem read-data request is served at the home. -/
  | memrddata (h : HostMsg)
  /-- MEMINV (R333). A host CXL.mem invalidation request is served at the home. -/
  | meminv (h : HostMsg)
  /-- MEMWR (R333). A host CXL.mem write is performed at the home or taken as snoop data. -/
  | memwr (h : HostMsg)
  /-- BIRSPI (R333). A host back-invalidate response with state I acknowledges a snoop. -/
  | birspi (h : HostMsg)
  /-- BIRSPS (R333). A host back-invalidate response with state S acknowledges a snoop. -/
  | birsps (h : HostMsg)
  /-- BIRSPE (R333). A host back-invalidate response with state E acknowledges a snoop. -/
  | birspe (h : HostMsg)
  /-- BICONFLICT (R333). A host request meeting an outstanding snoop runs the BIConflict handshake and is queued. -/
  | biconflict (h : HostMsg)
  /-- LINK_FLIT (R364). A received flit with an unknown message or nonzero reserved field is dropped, recorded and its port retrains. -/
  | linkFlit (port : Bool) (raw : List Byte)
  /-- BRIDGE_UP (R367). The bridge comes up between devices of different DEVNUM and device 1 takes device 0's GTC. -/
  | bridgeUp (peer : Bool) (peerGtc : Word)
  /-- WHEEL_RESIZE (R367). At the first suitable GTC multiple the slot wheel changes between 64 and 128 positions. -/
  | wheelResize
  /-- PORT_DOWN (R368). A bridge port goes down and its unacknowledged flits are resent on the other port. -/
  | portDown (port : Bool)
  /-- TAIL_REREAD (R359). When the host's tail write invalidates the device's copy, the device re-reads the tail word and takes new command records. -/
  | tailReread
  /-- HELLO (R361). Completes the driver handshake and sets READY. -/
  | hello (q : Cmd)
  /-- CTXOPEN (R361). Opens a context and draws its memory key. -/
  | ctxopen (q : Cmd)
  /-- CTXCLOSE (R361). Closes an idle context and erases its key. -/
  | ctxclose (q : Cmd)
  /-- TPOOL (R361). Names the page-table pool once. -/
  | tpool (q : Cmd)
  /-- MIGPOOL (R361). Adds frames to the migration pool. -/
  | migpool (q : Cmd)
  /-- MAP (R352). Maps consecutive pages and releases accesses held on their faults. -/
  | map (q : Cmd)
  /-- UNMAP (R352). Unmaps pages after writing back lines, recalling copies and dropping TLB entries. -/
  | unmap (q : Cmd)
  /-- PIN (R352). Pins a mapped page, aborting or waiting for a migration. -/
  | pin (q : Cmd)
  /-- UNPIN (R352). Unpins a mapped page that is not compute-capable. -/
  | unpin (q : Cmd)
  /-- PTREAD (R361). Writes both words of a leaf, or zeros, to a host address. -/
  | ptread (q : Cmd)
  /-- FAULTABORT (R355). Ends accesses held on a faulted page and discards its side-log entries. -/
  | faultabort (q : Cmd)
  /-- HEAPCFG (R361). Sets the context's object table base and limit. -/
  | heapcfg (q : Cmd)
  /-- HEAPPOOL (R361). Adds mapped compute-capable pages to the heap frame pool. -/
  | heappool (q : Cmd)
  /-- OBJSET (R361). Writes the RW fields of an ABSENT object-table entry. -/
  | objset (q : Cmd)
  /-- RELOC (R225). Starts relocating an unpinned PRESENT object to a new IA. -/
  | reloc (q : Cmd)
  /-- SHARE (R239). Shares a source slot's first positions with a destination slot by forwarding and copying segments. -/
  | share (q : Cmd)
  /-- SLOTOPEN (R229). Opens a FREE slot in PROMPT and creates its arena entries. -/
  | slotopen (q : Cmd)
  /-- SLOTCLOSE (R240). Closes a slot and releases its arena. -/
  | slotclose (q : Cmd)
  /-- GRPREG (R296). Registers a sibling group in the ballot table. -/
  | grpreg (q : Cmd)
  /-- GRPFREE (R361). Frees a closed or idle sibling group. -/
  | grpfree (q : Cmd)
  /-- TTCFG (R303). Sets the context's tensor table base. -/
  | ttcfg (q : Cmd)
  /-- TCREATE (R306). Checks a tensor descriptor image and writes it whole, returning a check result. -/
  | tcreate (q : Cmd)
  /-- TDESTROY (R307). Clears a tensor table entry. -/
  | tdestroy (q : Cmd)
  /-- FWSTAGE (R390). Writes a chunk of a firmware image into the slot not running. -/
  | fwstage (q : Cmd)
  /-- FWCOMMIT (R390). Verifies the staged firmware slot for the next reset. -/
  | fwcommit (q : Cmd)
  /-- SVNLOCK (R390). Raises the fused rollback counter to the running SVN. -/
  | svnlock (q : Cmd)
  /-- TELEM (R391). Writes a 4 KiB telemetry snapshot to the host. -/
  | telem (q : Cmd)
  /-- THERMCFG (R390). Sets the migration and throttle thresholds. -/
  | thermcfg (q : Cmd)
  /-- FENCEPOL (R390). Sets the readmission policy and its daily limit. -/
  | fencepol (q : Cmd)
  /-- READMIT (R388). Concurs with a fenced core's passed appeal. -/
  | readmit (q : Cmd)
  /-- POWERCFG (R390). Sets the package power limit from the next window. -/
  | powercfg (q : Cmd)
  /-- GRPREAD (R390). Writes a group's ballot entry to the host. -/
  | grpread (q : Cmd)
  /-- LAUNCH (R362). A write to a context's LAUNCH register makes a node resident with its predecessor count. -/
  | launch (ctx : BitVec 4) (val : Word)
  /-- STGB (R317). A write to a slice's staging boundary register moves granules between staging and cache. -/
  | stgb (slice : BitVec 5) (val : Word)
  /-- BWDOG (R376). A write sets the bank watchdog period, dropping values out of range. -/
  | bwdog (val : Word)
  /-- MIGCFG (R376). A write configures the migration engine from the next epoch, dropping invalid values. -/
  | migcfg (val : Word)
  /-- MMIO_WRITE (R375). A write to any other MMIO register, including the ring registers, under their write checks. -/
  | mmioWrite (off : Nat) (val : Word)
  /-- GET_VERSION (R372). The SPDM responder answers a GET_VERSION request. -/
  | getVersion (req : List Byte)
  /-- GET_CAPABILITIES (R372). The SPDM responder answers a GET_CAPABILITIES request. -/
  | getCapabilities (req : List Byte)
  /-- NEGOTIATE_ALGORITHMS (R372). The SPDM responder answers a NEGOTIATE_ALGORITHMS request. -/
  | negotiateAlgorithms (req : List Byte)
  /-- GET_DIGESTS (R372). The SPDM responder returns certificate digests. -/
  | getDigests (req : List Byte)
  /-- GET_CERTIFICATE (R372). The SPDM responder returns the DeviceID and alias certificate chain. -/
  | getCertificate (req : List Byte)
  /-- CHALLENGE (R372). The SPDM responder answers a challenge with a signature. -/
  | challenge (req : List Byte)
  /-- GET_MEASUREMENTS (R372). The SPDM responder returns the device measurements. -/
  | getMeasurements (req : List Byte)
  /-- RESET_RELEASE (R369). On reset release the GTC and pool are zeroed and the ROM starts stage 0. -/
  | resetRelease (strap : Bool)
  /-- START_STAGE (R369). A start-up stage ends and the next begins, or start stops with an error code. -/
  | startStage (chanok0 chanok1 : Word)
  /-- HEARTBEAT (R385). In each period every router sends a heartbeat to each neighbour and judges its neighbours. -/
  | heartbeat (c n : CoreId) (b : Beat)
  /-- VOTE (R386). A suspect vote reaches Basecamp, which orders a fence when live votes reach the threshold. -/
  | vote (voter suspect : CoreId) (readmit : Bool)
  /-- VOTE_LAPSE (R386). A vote lapses four periods after the period it was sent in. -/
  | voteLapse
  /-- CORE_FENCED (R387). The fence takes effect at the neighbours' routers, isolating the core and faulting its work. -/
  | coreFenced (c : CoreId)
  /-- FENCED (R387). A response owed by a fenced core times out after 65,536 ticks and ends with a FENCED record. -/
  | fenced (i : Nat)
  /-- SELF_TEST_END (R388). A fenced core's self-test ends and it begins or is refused its appeal. -/
  | selfTestEnd (c : CoreId) (pass : Bool)
  /-- CORE_READMITTED (R388). With a readmit majority and Basecamp's concurrence the core is readmitted with a zeroed pool. -/
  | coreReadmitted (c : CoreId)
  /-- THERMAL_MIGRATE (R389). A core's higher reading reaches MIG, posting a migration request. -/
  | thermalMigrate (c : CoreId) (hi lo : Nat)
  /-- THROTTLE (R389). A core's higher reading reaches THR and its issue rate halves. -/
  | throttle (c : CoreId) (hi lo : Nat)
  /-- THROTTLE_END (R389). The reading falls below THR - 5 °C and throttling ends. -/
  | throttleEnd (c : CoreId) (hi lo : Nat)
  /-- THERMAL_SHUTDOWN (R389). A core's lower reading reaches 115 °C and it is fenced without a vote. -/
  | thermalShutdown (c : CoreId) (hi lo : Nat)
  /-- POWER_WINDOW (R390). Each 10 ms window Basecamp limits issue and column slots to hold average power at the limit. -/
  | powerWindow (mw : Nat)
  /-- SCRUB (R381). Basecamp reads a backed word, writing back corrected errors and recording uncorrectable ones. -/
  | scrub (word : Nat) (r : ScrubResult)
  /-- TAMPER_TRIP (R393). A tamper sensor trips and a record is written. -/
  | tamperTrip (t : Sensor)
  /-- READING_BELOW_MIG (R389). A core's sensor reading falls strictly below MIG, ending its migration threshold state, making it dispatchable again and, for a shut-down core, starting its self-test. -/
  | readingBelowMig (c : CoreId) (hi lo : Nat)
  /-- CXL_CACHE_COMPLETION (R334). The host, as home of a line in host memory, answers an RDC request under CXL.cache with data or completion, installing the line and giving a store its Vsystem. -/
  | cxlCacheCompletion (h : HostMsg)
  /-- PORT_UP (R366). A bridge port that had gone down or retrained comes back up, so coherence traffic is again split over both ports by IA[12]. -/
  | portUp (port : Bool)
  deriving DecidableEq, Repr

end Sys2Proof
end

