-- ==== Sys2Proof/Machine/Legal.lean ====
section
/-! DEFINITION. Which encodings are instructions (R95 to R99, R106, R111 and every entry's own field rules), checked
at decode. -/

namespace Sys2Proof.Machine

open Sys2Proof

/-! Fields of a function code and of IMM20. -/

/-- F[5:3]: the space code of class M and VM, the rounding override of class V (R95, R96). -/
def fHi (w : Fields) : Nat := (w.f >>> 3).toNat
/-- F[2:0]: the function, size or kind (R95). -/
def fLo (w : Fields) : Nat := (w.f &&& 7#6).toNat
/-- IMM20[19:16]: the element type (R96). -/
def immEt (w : Fields) : Nat := (w.imm >>> 16).toNat
/-- IMM20[15:0]. -/
def immLo (w : Fields) : Nat := w.imm.toNat % 65536
/-- Bits [hi:lo] of IMM20. -/
def immBits (w : Fields) (hi lo : Nat) : Nat := w.imm.toNat / 2 ^ lo % 2 ^ (hi + 1 - lo)

/-- The integer element types 0x0 to 0x7 (R153). -/
def isI (et : Nat) : Bool := et < 8
/-- The float element types FP16, BF16 and FP32 (R153). -/
def isF (et : Nat) : Bool := 8 ≤ et && et ≤ 10
/-- Every element type of R96. -/
def isAny (et : Nat) : Bool := et ≤ 11
/-- The lane width in bytes of an element type (R153). -/
def etWidth (et : Nat) : Nat :=
  if et < 8 then 2 ^ (et % 4) else if et = 10 then 4 else 2
/-- The lanes of a vector register (R153). -/
def lanes (et : Nat) : Nat := 256 / etWidth et
/-- Record sizes by fmt (R176). -/
def recSize : Nat → Nat
  | 0 => 33
  | 1 => 66
  | 2 => 25
  | 3 => 17
  | 4 => 66
  | _ => 17

/-! Guard, token and register-file checks. -/

/-- The guard and non-blocking rules of R99 and R111; lease says that the instruction is MLEASE. -/
def ctlOk (w : Fields) (lease : Bool) : Bool :=
  w.en || (if w.gs then lease || w.pop != 0#3 || w.push != 0#3 else w.gp == 0#4)
def zD (w : Fields) : Bool := w.d == 0#6
def zA (w : Fields) : Bool := w.a == 0#6
def zB (w : Fields) : Bool := w.b == 0#6
def zF (w : Fields) : Bool := w.f == 0#6
def zI (w : Fields) : Bool := w.imm == 0#20
/-- The field names a register of a 16-register file (R97). -/
def r16 (r : BitVec 6) : Bool := r.toNat < 16
def noOvr (w : Fields) : Bool := fHi w == 0
/-- A rounding override, legal where ok holds (R96, R158). -/
def ovrIf (ok : Bool) (w : Fields) : Bool := if ok then fHi w ≤ 4 else fHi w == 0

/-- The widths of the fields 1 to 31 of an engine's template map, 0 for an unassigned one (R106, R188, R198, R213,
R256), with the least template bit of each field. -/
def fieldMap : Nat → List (Nat × Nat)
  | 0 => [(0, 7), (7, 6), (13, 3), (16, 3), (32, 6), (38, 6), (44, 6), (50, 6), (56, 16), (72, 4)]
  | 1 => [(0, 7), (7, 6), (13, 3), (16, 3), (32, 4), (36, 4), (40, 2), (42, 3), (45, 1), (46, 2), (48, 16),
      (64, 16), (80, 16), (96, 16), (112, 16), (128, 13), (141, 1)]
  | 2 => [(0, 7), (7, 6), (13, 3), (16, 3), (32, 6), (38, 6), (44, 3), (47, 3), (50, 16), (66, 6), (72, 2),
      (74, 6), (80, 12), (92, 4), (96, 5), (101, 16), (117, 16), (133, 8), (141, 8), (149, 2), (151, 2),
      (153, 1), (154, 1)]
  | 3 => [(0, 7), (7, 6), (13, 3), (16, 3), (32, 6), (38, 6), (44, 3), (47, 7), (54, 1), (55, 6), (61, 6),
      (67, 4), (71, 12), (83, 16), (99, 16), (115, 16), (131, 6), (137, 6), (143, 2), (145, 1), (146, 6),
      (152, 3), (155, 6), (161, 1), (162, 1), (163, 6)]
  | 4 => [(0, 7), (7, 6), (13, 3), (16, 3), (32, 6), (38, 6), (44, 3), (47, 3), (50, 16), (66, 6), (72, 2),
      (74, 6), (80, 12), (92, 2), (94, 4), (98, 3), (101, 1)]
  | _ => []

/-- The least bit and the width of field fsel of engine eng, none where it is unassigned. -/
def fieldAt (eng fsel : Nat) : Option (Nat × Nat) :=
  if fsel = 0 then none else (fieldMap eng)[fsel - 1]?

/-- The checks a patch word passes at decode (R103, R111), less its engine's. -/
def patchOk (p : PatchWord) : Bool :=
  if p.fsel == 0#5 then p.val == 0#16
  else match fieldAt p.eng.toNat p.fsel.toNat with
    | some (_, width) => p.val.toNat < 2 ^ width
    | none => false

/-- Unused-field helpers for the classes of R95. -/
def regR (w : Fields) (fmax : Nat) : Bool := w.f.toNat ≤ fmax && zI w && ctlOk w false
def immI (w : Fields) : Bool := zB w && zF w && ctlOk w false
/-- An AMO operation code that the entry does not reserve (R125). -/
def amoOpOk (w : Fields) (red : Bool) : Bool :=
  let op := w.b.toNat % 16
  op ≤ 10 && (op != 10 || fLo w == 2) && (!red || (op != 0 && op != 9)) &&
    (red || op != 9 || w.d.toNat % 2 == 0)
def amoOk (w : Fields) (red : Bool) : Bool :=
  fHi w ≤ 3 && (fLo w == 2 || fLo w == 3) && amoOpOk w red &&
    (!w.b.getLsbD 5 || w.b.getLsbD 4) && ctlOk w false
def feOk (w : Fields) : Bool := fHi w ≤ 2 && fLo w == 3 && ctlOk w false
/-- Class V with an element type and a zero IMM20[15:0]. -/
def vPlain (w : Fields) : Bool := immLo w == 0 && ctlOk w false
/-- The lane-matching ratio of VCVT (R166). -/
def partRatio (ws wd : Nat) : Nat := max ws wd / min ws wd
def laneField (w : Fields) : Bool := immBits w 7 0 < lanes (immEt w) && immBits w 15 8 == 0
def recFields (w : Fields) (top : Nat) : Bool :=
  let n := lanes (immEt w)
  let nrec := immBits w 5 4 + 1
  let fmt := immBits w 2 0
  zB w && zF w && isF (immEt w) && immBits w 3 3 == 0 && fmt ≤ top &&
    immBits w 7 6 + nrec ≤ n / 32 && immBits w 15 8 + nrec * recSize fmt ≤ 256 && ctlOk w false

/-- The PMOV functions and the fields each leaves zero (R116). -/
def pmovOk (w : Fields) : Bool :=
  zI w && ctlOk w false &&
  match w.f.toNat with
  | 0 | 5 => r16 w.d && r16 w.a && zB w
  | 1 | 2 | 3 | 4 => r16 w.d && r16 w.a && r16 w.b
  | 6 | 7 => r16 w.d && zA w && zB w
  | 8 | 10 => r16 w.d && zB w
  | 9 => r16 w.a && zB w
  | _ => false

def vpmOk (w : Fields) : Bool :=
  noOvr w && vPlain w && isAny (immEt w) &&
  match fLo w with
  | 0 => r16 w.a && zB w
  | 1 => r16 w.d && zB w
  | 2 | 3 => r16 w.b
  | 4 => r16 w.a && zB w && isI (immEt w)
  | _ => false

def vdotOk (w : Fields) : Bool :=
  vPlain w &&
  match fLo w with
  | 0 => immEt w == 2 && noOvr w
  | 1 => immEt w == 6 && noOvr w
  | 2 => immEt w == 3 && noOvr w
  | 3 | 4 => immEt w == 10 && ovrIf true w
  | _ => false

/-- Register numbers of a Lanem-B word (R108, R110, R246): y below 24, k and m below 4. -/
def yOk (r : BitVec 5) : Bool := r.toNat < 24
def kOk (r : BitVec 5) : Bool := r.toNat < 4
def bz (r : BitVec 5) : Bool := r == 0#5
/-- A width code in imm[1:0] (R246, R254). -/
def wOk (imm : BitVec 12) : Bool := imm.toNat % 4 != 3
/-- No bit of imm above bit n - 1. -/
def immBelow (imm : BitVec 12) (n : Nat) : Bool := imm.toNat < 2 ^ n

/-- Which row of the opcode table a CFGW is, by the register it names (R16, R19, R41, R141, R195). -/
inductive CfgKind where
  | tqcfg | pool | lseed | status | view | other
  deriving DecidableEq, Repr

def cfgKind (w : Fields) : CfgKind :=
  let n := immBits w 11 0
  if n == 0x050 then .tqcfg
  else if 0x010 ≤ n && n ≤ 0x012 then .pool
  else if n == 0x0B0 then .lseed
  else if n == 0x0A0 then .status
  else if n == 0x020 || n == 0x061 || (0x030 ≤ n && n ≤ 0x043) then .view
  else .other

/-- Whether the fields of an instruction are ones its entry admits (R111). A step of the device has no encoding and is
always well formed. DEDUCED (log 18). -/
def legal : Instr → Bool
  | .add w => regR w 2
  | .sub w => regR w 2
  | .mul w => regR w 0
  | .mulh w => regR w 2
  | .div w => regR w 1
  | .rem w => regR w 1
  | .and w => regR w 0
  | .or w => regR w 0
  | .xor w => regR w 0
  | .andn w => regR w 0
  | .shl w => regR w 0
  | .shr w => regR w 0
  | .sra w => regR w 0
  | .min w => regR w 1
  | .max w => regR w 1
  | .clz w => regR w 0 && zB w
  | .popc w => regR w 0 && zB w
  | .bfx w => regR w 1
  | .bfi w => regR w 0
  | .sel w => regR w 15
  | .addi w => immI w
  | .andi w => immI w
  | .ori w => immI w
  | .xori w => immI w
  | .shli w => immI w && w.imm.toNat < 64
  | .shri w => immI w && w.imm.toNat < 64
  | .srai w => immI w && w.imm.toNat < 64
  | .movi w => immI w && zA w
  | .lui w => zB w && ctlOk w false && (w.f == 1#6 || (zF w && zA w))
  | .cmp w => r16 w.d && zI w && fLo w ≤ 6 && fHi w ≤ 2 && ctlOk w false
  | .cmpi w => r16 w.d && zB w && fLo w ≤ 6 && fHi w ≤ 2 && ctlOk w false
  | .pmov w => pmovOk w
  | .lea w => fHi w == 0 && ctlOk w false
  | .lea2 w => fHi w == 0 && ctlOk w false
  | .b w => zD w && zA w && zB w && zF w && ctlOk w false
  | .bi w => zD w && zB w && w.f.toNat ≤ 1 && zI w && ctlOk w false
  | .call w => zD w && zA w && zB w && zF w && ctlOk w false
  | .ret w => zD w && zB w && zF w && zI w && ctlOk w false
  | .loopn w => !zD w && zA w && zB w && zF w && ctlOk w false
  | .ld w => fHi w ≤ 4 && fLo w ≤ 6 && ctlOk w false
  | .st w => fHi w ≤ 4 && fLo w ≤ 3 && ctlOk w false
  | .lds w => fHi w ≤ 3 && fLo w ≤ 6 && w.b.toNat ≤ 2 && ctlOk w false
  | .sts w => fHi w ≤ 3 && fLo w ≤ 3 && (w.b.toNat ≤ 2 || w.b == 5#6) && ctlOk w false
  | .ldf w => feOk w && w.b.toNat ≤ 1
  | .ste w => feOk w && zB w
  | .stf w => feOk w && zB w
  | .feclr w => feOk w && zD w
  | .feq w => feOk w && zB w && r16 w.d
  | .pref w => zD w && fHi w == 0 && fLo w ≤ 1 && ctlOk w false
  | .ldp w => w.b.toNat ≤ 7 && fHi w == 4 && fLo w ≤ 6 && ctlOk w false
  | .amo w => amoOk w false
  | .amosc w => amoOk w false && w.b.toNat < 16
  | .red w => amoOk w true
  | .fence w => zD w && zA w && zB w && w.f.toNat ≤ 5 && zI w && ctlOk w false
  | .flagadd w => w.f.toNat ≤ 3 && ctlOk w false
  | .flagset w => fLo w ≤ 3 && fHi w ≤ 1 && ctlOk w false
  | .seal w => zD w && zF w && zI w && ctlOk w false
  | .unseal w => zD w && zB w && zF w && zI w && ctlOk w false
  | .ballot w => zB w && zF w && zI w && ctlOk w false
  | .canchk w => zA w && zB w && zI w && ctlOk w false && (if w.f == 1#6 then r16 w.d else zF w && zD w)
  | .phbegin w => zD w && zF w && zI w && ctlOk w false
  | .phcommit w => zD w && zA w && zB w && zF w && zI w && ctlOk w false
  | .tkpop w => w.pop != 0#3 && zD w && zA w && zB w && zF w && zI w && ctlOk w false
  | .tkpush w => w.push != 0#3 && zD w && zA w && zB w && zF w && zI w && ctlOk w false
  | .tkq w => zA w && zB w && zF w && w.imm != 0#20 && w.imm.toNat < 8 && ctlOk w false
  | .rdtime w => zA w && zB w && w.f.toNat ≤ 1 && zI w && ctlOk w false
  | .sleept w => zD w && zB w && w.f.toNat ≤ 1 && (zF w || zA w) && zI w && ctlOk w false
  | .hzn w => zA w && zB w && w.f.toNat ≤ 6 && zI w && ctlOk w false
  | .rte w => zD w && zA w && zB w && zF w && zI w && ctlOk w false
  | .kill w => zB w && w.f.toNat ≤ 1 && zI w && ctlOk w false
  | .cfgr w => zA w && zB w && zF w && w.imm.toNat < 2 ^ 14 && ctlOk w false
  | .cfgw w => zD w && zB w && zF w && w.imm.toNat < 2 ^ 14 && ctlOk w false && cfgKind w == .other
  | .cfgwTqcfg w => zD w && zB w && zF w && w.imm.toNat < 2 ^ 14 && ctlOk w false && cfgKind w == .tqcfg
  | .cfgwPoolBoundary w => zD w && zB w && zF w && w.imm.toNat < 2 ^ 14 && ctlOk w false && cfgKind w == .pool
  | .cfgwLseed w => zD w && zB w && zF w && w.imm.toNat < 2 ^ 14 && ctlOk w false && cfgKind w == .lseed
  | .cfgwStatus w => zD w && zB w && zF w && w.imm.toNat < 2 ^ 14 && ctlOk w false && cfgKind w == .status
  | .cfgwView w => zD w && zB w && zF w && w.imm.toNat < 2 ^ 14 && ctlOk w false && cfgKind w == .view
  | .view w => r16 w.d && zB w && zF w && zI w && ctlOk w false
  | .tset w => zD w && zB w && zF w && immBits w 19 14 == 0 &&
      (fieldAt (immBits w 2 0) (immBits w 13 9)).isSome && ctlOk w false
  | .tload w => zD w && zB w && fLo w == 0 && fHi w ≤ 4 && w.imm.toNat < 512 && immBits w 2 0 ≤ 4 && ctlOk w false
  | .tsave w => zD w && zB w && fLo w == 0 && fHi w ≤ 4 && w.imm.toNat < 512 && immBits w 2 0 ≤ 4 && ctlOk w false
  | .mlease w => zD w && zA w && zB w && zF w && zI w && ctlOk w true
  | .mrel w => zD w && zA w && zB w && zF w && zI w && ctlOk w false
  | .aswap w => w.d.toNat < 4 && zA w && zB w && zF w && zI w && ctlOk w false
  | .mstat w => zA w && zB w && zF w && zI w && ctlOk w false
  | .refld w => r16 w.d && r16 w.a && w.f.toNat ≤ 1 && ctlOk w false
  | .refst w => r16 w.d && r16 w.a && zF w && ctlOk w false
  | .hld w => r16 w.a && w.f.toNat ≤ 6 && ctlOk w false
  | .hst w => r16 w.a && w.f.toNat ≤ 3 && ctlOk w false
  | .refpin w => r16 w.a && zB w && zF w && zI w && ctlOk w false
  | .refunpin w => zD w && r16 w.a && zB w && zF w && zI w && ctlOk w false
  | .kvag w => w.d.toNat < 8 && zF w && zI w && ctlOk w false
  | .kvaddr w => w.b.toNat < 8 && zF w && zI w && ctlOk w false
  | .endIter w => zD w && zA w && zB w && zF w && zI w && ctlOk w false
  | .yield w => zD w && zA w && zB w && zF w && zI w && ctlOk w false
  | .spawn w => zB w && zF w && zI w && ctlOk w false
  | .trap w => zD w && zA w && zB w && zF w && ctlOk w false
  | .vadd w => immEt w ≤ 10 && fLo w ≤ (if isI (immEt w) then 1 else 0) && ovrIf (isF (immEt w)) w && vPlain w
  | .vsub w => immEt w ≤ 10 && fLo w ≤ (if isI (immEt w) then 1 else 0) && ovrIf (isF (immEt w)) w && vPlain w
  | .vmul w => immEt w ≤ 10 && fLo w ≤ (if isI (immEt w) then 2 else 0) && ovrIf (isF (immEt w)) w && vPlain w
  | .vfma w => immEt w ≤ 10 && fLo w ≤ 2 && ovrIf (isF (immEt w)) w && vPlain w
  | .vmin w => immEt w ≤ 10 && fLo w ≤ (if isF (immEt w) then 1 else 0) && noOvr w && vPlain w
  | .vmax w => immEt w ≤ 10 && fLo w ≤ (if isF (immEt w) then 1 else 0) && noOvr w && vPlain w
  | .vun w => zB w && fLo w ≤ 6 && (if fLo w < 2 then immEt w ≤ 10 && noOvr w else isF (immEt w) && ovrIf true w) &&
      vPlain w
  | .vcmp w => r16 w.d && immEt w ≤ 10 && fLo w ≤ (if isF (immEt w) then 6 else 5) && noOvr w && vPlain w
  | .vsel w => isAny (immEt w) && zF w && immBits w 15 4 == 0 && ctlOk w false
  | .vlog w => fLo w ≤ 6 && noOvr w && (if fLo w ≤ 4 then isAny (immEt w) else isI (immEt w)) &&
      (fLo w < 4 || zB w) && vPlain w
  | .vsh w => isI (immEt w) && fLo w ≤ 6 && noOvr w && ctlOk w false &&
      (if fLo w < 4 then immLo w == 0 else zB w && immLo w < 64 && immLo w < 8 * etWidth (immEt w))
  | .vcvt w => zB w && fLo w ≤ 1 && immBits w 3 0 ≤ 10 && immEt w ≤ 10 && immBits w 15 8 == 0 &&
      immBits w 7 4 < partRatio (etWidth (immBits w 3 0)) (etWidth (immEt w)) &&
      (fLo w == 0 || (isI (immBits w 3 0) && isI (immEt w))) &&
      ovrIf (isF (immBits w 3 0) || isF (immEt w)) w && ctlOk w false
  | .vred w => zB w && fLo w ≤ (if isI (immEt w) then 5 else 2) && immEt w ≤ 10 &&
      ovrIf (isF (immEt w) && fLo w == 0) w && vPlain w
  | .vscan w => zB w && fLo w ≤ (if isI (immEt w) then 5 else 2) && immEt w ≤ 10 &&
      ovrIf (isF (immEt w) && fLo w == 0) w && immLo w ≤ 1 && ctlOk w false
  | .vperm w => fLo w ≤ 5 && noOvr w && isAny (immEt w) && (fLo w != 1 || zB w) && vPlain w
  | .vbcast w => zB w && fLo w ≤ 1 && noOvr w && isAny (immEt w) && ctlOk w false &&
      (if fLo w == 0 then immLo w == 0 else laneField w)
  | .vext w => fLo w ≤ 1 && noOvr w && isAny (immEt w) && ctlOk w false &&
      (if fLo w == 0 then zB w && laneField w else immLo w == 0)
  | .vins w => fLo w ≤ 1 && noOvr w && isAny (immEt w) && ctlOk w false &&
      (if fLo w == 0 then zB w && laneField w else immLo w == 0)
  | .vld w => zB w && fLo w == 0 && fHi w ≤ 4 && ctlOk w false
  | .vst w => zB w && fLo w == 0 && fHi w ≤ 4 && ctlOk w false
  | .vldg w => fLo w ≤ 3 && fLo w != 0 && fHi w ≤ 4 && ctlOk w false
  | .vsts w => fLo w ≤ 3 && fLo w != 0 && fHi w ≤ 4 && ctlOk w false
  | .vldf w => zB w && fLo w ≤ 1 && fHi w ≤ 2 && ctlOk w false
  | .vste w => zB w && fLo w == 0 && fHi w ≤ 2 && ctlOk w false
  | .vqnt w => recFields w 4
  | .vdqnt w => recFields w 5
  | .vlogc w => zB w && fLo w ≤ 1 && noOvr w && isF (immEt w) && immBits w 7 0 != 255 &&
      immBits w 11 8 < partRatio (etWidth (immEt w)) 2 && immBits w 15 12 == 0 && ctlOk w false
  | .vdot w => vdotOk w
  | .vpm w => vpmOk w
  | .viota w => zB w && zF w && isI (immEt w) && ctlOk w false
  | .vtopk w => fLo w ≤ 1 && noOvr w && (isF (immEt w) || immEt w == 1 || immEt w == 2) &&
      immBits w 15 8 == 0 && 1 ≤ immBits w 7 0 && immBits w 7 0 ≤ min 64 (lanes (immEt w)) && w.d != 63#6 && ctlOk w false
  | .vrand w => fLo w ≤ 2 && noOvr w && (if fLo w == 0 then isI (immEt w) else isF (immEt w)) && vPlain w
  | .patchWord p => p.eng.toNat < 5 && patchOk p
  | .bankNop w => bz w.d && bz w.a && bz w.b && w.imm == 0#12
  | .bankLdr w => yOk w.d && bz w.a && bz w.b && immBelow w.imm 11
  | .bankStr w => bz w.d && yOk w.a && bz w.b && immBelow w.imm 11
  | .bankLdi w => yOk w.d && bz w.a && w.b.toNat < 3
  | .bankMov w => yOk w.d && yOk w.a && bz w.b && w.imm == 0#12
  | .bankAdd w => yOk w.d && yOk w.a && yOk w.b && wOk w.imm && immBelow w.imm 3
  | .bankSub w => yOk w.d && yOk w.a && yOk w.b && wOk w.imm && immBelow w.imm 3
  | .bankMul w => yOk w.d && yOk w.a && yOk w.b && wOk w.imm && immBelow w.imm 3
  | .bankMin w => yOk w.d && yOk w.a && yOk w.b && wOk w.imm && immBelow w.imm 3
  | .bankMax w => yOk w.d && yOk w.a && yOk w.b && wOk w.imm && immBelow w.imm 3
  | .bankCmp w => kOk w.d && yOk w.a && yOk w.b && wOk w.imm && w.imm.toNat < 48
  | .bankSel w => yOk w.d && yOk w.a && yOk w.b && wOk w.imm && immBelow w.imm 5 && !w.imm.getLsbD 2
  | .bankShl w => yOk w.d && yOk w.a && bz w.b && wOk w.imm && immBelow w.imm 9 && !w.imm.getLsbD 2
  | .bankShr w => yOk w.d && yOk w.a && bz w.b && wOk w.imm && immBelow w.imm 9
  | .bankLogb w => yOk w.d && yOk w.a && (if w.imm == 4#12 then bz w.b else yOk w.b) && w.imm.toNat ≤ 4
  | .bankQmac w => kOk w.d && yOk w.a && yOk w.b && w.imm.toNat ≤ 1 && (w.imm == 0#12 || w.b.toNat ≤ 22)
  | .bankLmac w => kOk w.d && w.a.toNat ≤ (if w.imm == 0#12 then 21 else 22) && yOk w.b && w.imm.toNat ≤ 1
  | .bankKclr w => kOk w.d && bz w.a && bz w.b && w.imm == 0#12
  | .bankKmov w => kOk w.d && kOk w.a && bz w.b && immBelow w.imm 3 && (w.imm.getLsbD 2 || w.imm == 0#12)
  | .bankRidge w => bz w.d && kOk w.a && bz w.b && w.imm == 0#12
  | .bankLoop w => w.a.toNat < 4 && w.b.toNat ≤ 1 && w.imm != 0#12 && (w.d != 0#5 || w.a != 0#5)
  | .bankSafe w => bz w.d && bz w.a && bz w.b && w.imm == 0#12
  | .bankExit w => bz w.d && bz w.a && bz w.b && w.imm == 0#12
  | _ => true

end Sys2Proof.Machine
end

