-- ==== Sys2Proof/Machine/Table.lean ====
section
/-! DEFINITION. Sparse data in one canonical form: tables and sets sorted by key, and memory as a sorted list of
cells that lists no zero byte (an unlisted address reads zero, log 4). -/

namespace Sys2Proof.Machine

/-- A table: rising keys, no repeats. -/
abbrev Table (β : Type) := List (Nat × β)

def tabGet {β : Type} : Table β → Nat → Option β
  | [], _ => none
  | (a, v) :: t, k => if a == k then some v else if k < a then none else tabGet t k

def tabSet {β : Type} : Table β → Nat → β → Table β
  | [], k, v => [(k, v)]
  | (a, u) :: t, k, v => if k < a then (k, v) :: (a, u) :: t else if a == k then (k, v) :: t else (a, u) :: tabSet t k v

def tabDel {β : Type} : Table β → Nat → Table β
  | [], _ => []
  | (a, u) :: t, k => if a == k then t else if k < a then (a, u) :: t else (a, u) :: tabDel t k

/-- Set or clear an entry. -/
def tabPut {β : Type} (t : Table β) (k : Nat) : Option β → Table β
  | some v => tabSet t k v
  | none => tabDel t k

/-- A set of numbers: a rising list. -/
def setHas : List Nat → Nat → Bool
  | [], _ => false
  | a :: t, k => if a == k then true else if k < a then false else setHas t k

def setAdd : List Nat → Nat → List Nat
  | [], k => [k]
  | a :: t, k => if k < a then k :: a :: t else if a == k then a :: t else a :: setAdd t k

def setDel : List Nat → Nat → List Nat
  | [], _ => []
  | a :: t, k => if a == k then t else if k < a then a :: t else a :: setDel t k

def setPut (t : List Nat) (k : Nat) (b : Bool) : List Nat := if b then setAdd t k else setDel t k

/-- Keys strictly rising, all above lo when lo is given. -/
def rising : Option Nat → List Nat → Bool
  | _, [] => true
  | lo, a :: t => (match lo with | none => true | some l => l < a) && rising (some a) t

/-! Memory. -/

/-- The byte an address holds. DESIGN CHOICE (log 4). -/
def memGet (m : List Host.Cell) (a : Nat) : Byte := (tabGet m a).getD 0#8

/-- Store a byte; a zero byte is not listed. DESIGN CHOICE (log 4). -/
def memSet (m : List Host.Cell) (a : Nat) (b : Byte) : List Host.Cell :=
  if b == 0#8 then tabDel m a else tabSet m a b

/-- Store consecutive bytes from address a upwards. -/
def memWrite : List Host.Cell → Nat → List Byte → List Host.Cell
  | m, _, [] => m
  | m, a, b :: t => memWrite (memSet m a b) (a + 1) t

/-- Read n bytes from address a upwards. -/
def memRead (m : List Host.Cell) (a : Nat) : Nat → List Byte
  | 0 => []
  | n + 1 => memGet m a :: memRead m (a + 1) n

/-- Clear every byte of [lo, hi). -/
def memClear (m : List Host.Cell) (lo hi : Nat) : List Host.Cell :=
  m.filter (fun c => c.1 < lo || hi ≤ c.1)

/-- The canonical form: rising addresses, no zero byte listed. DESIGN CHOICE (log 4). -/
def memWf (m : List Host.Cell) : Bool := rising none (m.map (·.1)) && m.all (fun c => c.2 != 0#8)

/-! Bytes and numbers, little-endian (R43). -/

/-- The number that bytes hold, least significant byte first. -/
def leNat : List Byte → Nat
  | [] => 0
  | b :: t => b.toNat + 256 * leNat t

/-- The low n bytes of a number, least significant first. -/
def leBytes : Nat → Nat → List Byte
  | 0, _ => []
  | n + 1, x => BitVec.ofNat 8 x :: leBytes n (x / 256)

/-- The two's-complement value of the low n bits of x. -/
def toS (n x : Nat) : Int := let y := x % 2 ^ n; if 2 * y < 2 ^ n then (y : Int) else (y : Int) - 2 ^ n

/-- The low n bits of an integer. -/
def ofS (n : Nat) (x : Int) : Nat := (x % (2 ^ n : Nat)).toNat

/-- Bits [hi:lo] of a number. -/
def bits (x hi lo : Nat) : Nat := x / 2 ^ lo % 2 ^ (hi + 1 - lo)

/-- Bits [hi:lo] of a word. -/
def wbits (x : Word) (hi lo : Nat) : Nat := bits x.toNat hi lo

/-- A word from a number. -/
def w64 (n : Nat) : Word := BitVec.ofNat 64 n

/-- The number x with bits [hi:lo] replaced by v. -/
def setBits (x hi lo v : Nat) : Nat :=
  x - bits x hi lo * 2 ^ lo + v % 2 ^ (hi + 1 - lo) * 2 ^ lo

/-- Replace element i of a list, nothing where it has none. -/
def setNth {α : Type} : List α → Nat → α → List α
  | [], _, _ => []
  | _ :: t, 0, v => v :: t
  | a :: t, n + 1, v => a :: setNth t n v

/-- Remove element i of a list. -/
def delNth {α : Type} : List α → Nat → List α
  | [], _ => []
  | _ :: t, 0 => t
  | a :: t, n + 1 => a :: delNth t n

/-- Overwrite the bytes of l from position i with d. -/
def patch (l : List Byte) (i : Nat) (d : List Byte) : List Byte := l.take i ++ d ++ l.drop (i + d.length)

end Sys2Proof.Machine
end

