-- ==== Sys2Proof/Machine/Float.lean ====
section
/-! DEFINITION. Floating point (R44 to R48), the log formats (R49, R50, R57 to R59), quantisation (R60), W64 sums
(R61 to R65), the array's exact group sums (R66), the sine generator (R67) and the mixing functions of R181 and R193,
computed exactly over integers and rounded once. -/

namespace Sys2Proof.Machine

open Sys2Proof

/-- The rounding directions of R46. -/
inductive Rm where
  | rne | rz | ru | rd
  deriving DecidableEq, Repr

/-- The direction of a 2-bit code (R46). -/
def rmOf (n : Nat) : Rm := match n % 4 with | 0 => .rne | 1 => .rz | 2 => .ru | _ => .rd

/-- A floating-point format: exponent and fraction widths. -/
structure Fmt where
  eb : Nat
  mb : Nat
  deriving DecidableEq, Repr

def fp32 : Fmt := ⟨8, 23⟩
def fp16 : Fmt := ⟨5, 10⟩
def bf16 : Fmt := ⟨8, 7⟩
/-- The format of an element type code 0x8 to 0xA (R96). -/
def fmtOf (et : Nat) : Fmt := if et = 8 then fp16 else if et = 9 then bf16 else fp32

/-- The value of a code: m·2^e with its sign. -/
inductive FV where
  | nan
  | inf (neg : Bool)
  | fin (neg : Bool) (m : Nat) (e : Int)
  deriving DecidableEq, Repr

def fBias (f : Fmt) : Nat := 2 ^ (f.eb - 1) - 1
/-- The weight of the least significant bit of a subnormal. -/
def fMin (f : Fmt) : Int := 1 - (fBias f : Int) - f.mb
def fWidth (f : Fmt) : Nat := 1 + f.eb + f.mb
def fNanBits (f : Fmt) : Nat := (2 ^ (f.eb + 1) - 1) * 2 ^ (f.mb - 1)
def fInfBits (f : Fmt) (neg : Bool) : Nat :=
  (if neg then 2 ^ (f.eb + f.mb) else 0) + (2 ^ f.eb - 1) * 2 ^ f.mb
/-- The bits of the greatest finite value. -/
def fMaxBits (f : Fmt) (neg : Bool) : Nat := fInfBits f neg - 1

def fDec (f : Fmt) (b : Nat) : FV :=
  let neg := bits b (f.eb + f.mb) (f.eb + f.mb) = 1
  let e := bits b (f.eb + f.mb - 1) f.mb
  let m := b % 2 ^ f.mb
  if e = 2 ^ f.eb - 1 then (if m = 0 then .inf neg else .nan)
  else if e = 0 then .fin neg m (fMin f)
  else .fin neg (2 ^ f.mb + m) (fMin f + (e - 1 : Nat))

/-- Whether a magnitude q plus the remainder r of d (and a nonzero tail when sticky) rounds up. -/
def roundUp (rm : Rm) (neg : Bool) (q r d : Nat) (sticky : Bool) : Bool :=
  if r == 0 && !sticky then false
  else match rm with
    | .rz => false
    | .ru => !neg
    | .rd => neg
    | .rne => if 2 * r > d then true else if 2 * r < d then false else sticky || q % 2 == 1

/-- Round the exact value m·2^e, and a tail below m's last place when sticky, once into a format (R46, R48). -/
def fRound (f : Fmt) (rm : Rm) (neg : Bool) (m : Nat) (e : Int) (sticky : Bool := false) : Nat :=
  let sgn := if neg then 2 ^ (f.eb + f.mb) else 0
  if m = 0 && !sticky then sgn
  else
    let q : Int := max (fMin f) ((m.log2 : Int) + e - f.mb)
    let sh := (q - e).toNat
    let big := if q < e then m * 2 ^ (e - q).toNat else m / 2 ^ sh
    let r := if q < e then 0 else m % 2 ^ sh
    let up := if q ≤ e then (if sticky then roundUp rm neg big 1 4 true else false)
      else roundUp rm neg big r (2 ^ sh) sticky
    let b := (q - fMin f).toNat * 2 ^ f.mb + big + (if up then 1 else 0)
    if b < (2 ^ f.eb - 1) * 2 ^ f.mb then sgn + b
    else match rm, neg with
      | .rz, _ | .ru, true | .rd, false => fMaxBits f neg
      | _, _ => fInfBits f neg

/-- The bits of a value in a format, rounded once. -/
def fEnc (f : Fmt) (rm : Rm) : FV → Nat
  | .nan => fNanBits f
  | .inf n => fInfBits f n
  | .fin n m e => fRound f rm n m e

def fNeg : FV → FV
  | .nan => .nan
  | .inf n => .inf (!n)
  | .fin n m e => .fin (!n) m e

def fAbs : FV → FV
  | .nan => .nan
  | .inf _ => .inf false
  | .fin _ m e => .fin false m e

/-- The signed integer of a finite value at weight 2^e0, e0 at most e. -/
def atWeight (neg : Bool) (m : Nat) (e e0 : Int) : Int :=
  let v : Int := m * 2 ^ (e - e0).toNat
  if neg then -v else v

/-- The exact sum; an exact zero takes the sign IEEE 754 gives it in direction rm. -/
def fAdd (rm : Rm) : FV → FV → FV
  | .nan, _ | _, .nan => .nan
  | .inf a, .inf b => if a = b then .inf a else .nan
  | .inf a, _ => .inf a
  | _, .inf b => .inf b
  | .fin n1 m1 e1, .fin n2 m2 e2 =>
    let e0 := min e1 e2
    let s := atWeight n1 m1 e1 e0 + atWeight n2 m2 e2 e0
    if s = 0 then .fin (if m1 = 0 ∧ m2 = 0 ∧ n1 = n2 then n1 else rm = .rd) 0 e0
    else .fin (s < 0) s.natAbs e0

def fMul : FV → FV → FV
  | .nan, _ | _, .nan => .nan
  | .inf a, .inf b => .inf (a != b)
  | .inf a, .fin b m _ => if m = 0 then .nan else .inf (a != b)
  | .fin a m _, .inf b => if m = 0 then .nan else .inf (a != b)
  | .fin a m e, .fin b n g => .fin (a != b) (m * n) (e + g)

/-- The value as a comparable rational at a common weight: none for NaN. -/
def fCmpKey (a b : FV) : Option (Int × Int) :=
  match a, b with
  | .nan, _ | _, .nan => none
  | .inf x, .inf y => some (if x then -1 else 1, if y then -1 else 1)
  | .inf x, _ => some (if x then -1 else 1, 0)
  | _, .inf y => some (0, if y then -1 else 1)
  | .fin n1 m1 e1, .fin n2 m2 e2 =>
    let e0 := min e1 e2
    some (atWeight n1 m1 e1 e0, atWeight n2 m2 e2 e0)

def fLt (a b : FV) : Bool := match fCmpKey a b with | some (x, y) => x < y | none => false
def fEq (a b : FV) : Bool := match fCmpKey a b with | some (x, y) => x == y | none => false
def fIsNan : FV → Bool | .nan => true | _ => false
def fSign : FV → Bool | .nan => false | .inf n => n | .fin n _ _ => n
def fIsZero : FV → Bool | .fin _ 0 _ => true | _ => false

/-- Minimum and maximum with -0 below +0 (R159); num is the .num form. -/
def fMinMax (isMax num : Bool) (a b : FV) : FV :=
  if fIsNan a then (if num then b else .nan)
  else if fIsNan b then (if num then a else .nan)
  else
    let aLess := fLt a b || (fIsZero a && fIsZero b && fSign a && !fSign b)
    if isMax then (if aLess then b else a) else (if aLess then a else b)

/-- 1/x rounded once (R160). -/
def fRcp (f : Fmt) (rm : Rm) : FV → Nat
  | .nan => fNanBits f
  | .inf n => fRound f rm n 0 0
  | .fin n 0 _ => fInfBits f n
  | .fin n m e =>
    let k := m.log2 + 70
    fRound f rm n (2 ^ k / m) (-e - k) (2 ^ k % m != 0)

/-- The integer square root, by bits from 2^i down. -/
def isqrtGo (x : Nat) : Nat → Nat → Nat
  | 0, r => r
  | i + 1, r => let t := r + 2 ^ i; isqrtGo x i (if t * t ≤ x then t else r)
def isqrt (x : Nat) : Nat := isqrtGo x (x.log2 / 2 + 1) 0

/-- 1/√x rounded once (R160). -/
def fRsqrt (f : Fmt) (rm : Rm) : FV → Nat
  | .nan => fNanBits f
  | .inf true => fNanBits f
  | .inf false => 0
  | .fin n 0 _ => fInfBits f n
  | .fin true _ _ => fNanBits f
  | .fin false m e =>
    -- x = m·2^e with e made even: 1/√x = √(2^(2k)/m')·2^(-k)·2^(-e'/2)
    let m' := if e % 2 = 0 then m else 2 * m
    let e' := if e % 2 = 0 then e else e - 1
    let k := m'.log2 + 40
    let v := 2 ^ (2 * k) / m'
    let r := isqrt v
    fRound f rm false r (-(k : Int) - e' / 2) (r * r * m' != 2 ^ (2 * k))

/-- The integer a value rounds to, 0 for NaN, clamped to [lo, hi] (R48). -/
def fToInt (rm : Rm) (lo hi : Int) : FV → Int
  | .nan => 0
  | .inf n => if n then lo else hi
  | .fin n m e =>
    let q := if 0 ≤ e then m * 2 ^ (min e.toNat 256) else m / 2 ^ (-e).toNat
    let r := if 0 ≤ e then 0 else m % 2 ^ (-e).toNat
    let d := if 0 ≤ e then 1 else 2 ^ (-e).toNat
    let q' := if roundUp rm n q r d false then q + 1 else q
    let v : Int := if n then -(q' : Int) else q'
    max lo (min hi v)

def intToF (x : Int) : FV := .fin (x < 0) x.natAbs 0

/-- Convert between floating-point formats (R48). -/
def fConv (s d : Fmt) (rm : Rm) (b : Nat) : Nat := fEnc d rm (fDec s b)

/-! Log formats. -/

/-- LogOf of a finite nonzero value (R57), in units of 2^-16. -/
def logOf : FV → Int
  | .fin _ m e =>
    if m = 0 then 0
    else
      let l := m.log2
      let frac := if l ≤ 23 then m * 2 ^ (23 - l) - 2 ^ 23 else m / 2 ^ (l - 23) - 2 ^ 23
      let j := frac / 2 ^ 15
      let rr := frac % 2 ^ 15
      let g := tabG.getD j 0
      let g1 := tabG.getD (j + 1) 0
      (e + l) * 65536 + (g + (g1 - g) * rr / 2 ^ 15 : Nat)
  | _ => 0

/-- The greatest finite FP32, which stands for an infinity in R58 and R60. -/
def maxF32 (neg : Bool) : FV := fDec fp32 (fMaxBits fp32 neg)
def capInf : FV → FV | .inf n => maxF32 n | v => v

/-- RNE of x / 2^k for an integer x. -/
def rneShift (x : Int) (k : Nat) : Int :=
  let d : Int := 2 ^ k
  let q := x / d
  let r := x % d
  if 2 * r > d ∨ (2 * r = d ∧ q % 2 = 1) then q + 1 else q

/-- The L16 code of a value under a scale byte (R58). -/
def l16Of (x : FV) (e : Nat) : Nat :=
  let zeroC := if fSign x then 0xC000 else 0x4000
  if fIsNan x then 0x4000
  else if fIsZero x then zeroC
  else
    let n := rneShift (logOf (capInf x) - ((e : Int) - 127) * 65536) 8
    let sgn := if fSign x then 0x8000 else 0
    if n ≤ -(64 * 256) then zeroC
    else if n ≥ 64 * 256 then sgn + 0x3FFF
    else sgn + (n % 0x8000).toNat

def l16Zero (c : Nat) : Bool := c % 0x8000 == 0x4000

/-- The value of an L16 code under a scale byte (R59), exact before rounding. -/
def l16Val (c e : Nat) : FV :=
  let n := bits c 15 15 = 1
  if l16Zero c then .fin n 0 0
  else .fin n (tabT.getD (c % 256) 0) (toS 7 (bits c 14 8) + (e : Int) - 127 - 15)

/-- An L6 (six = true) or L4 code as an L16 code under the same scale byte (R59). -/
def smallToL16 (six : Bool) (c : Nat) : Nat :=
  if six then
    if c % 64 = 0 then 0x4000 else bits c 5 5 * 0x8000 + bits c 4 2 * 256 + c % 4 * 64
  else
    if c % 16 = 0 then 0x4000 else bits c 3 3 * 0x8000 + bits c 2 1 * 256 + c % 2 * 128

/-! Records (R53, R54) and quantisation (R60). fmt: 0 Q8, 1 Q16, 2 L6, 3 L4, 4 L16, 5 L6S. -/

/-- The record sizes in bytes by fmt (R176). -/
def recBytes : Nat → Nat
  | 0 => 33 | 1 => 66 | 2 => 25 | 3 => 17 | 4 => 66 | _ => 17

def listGet (l : List Byte) (i : Nat) : Nat := (l.getD i 0#8).toNat

/-- The position of element j among the present ones of an L6S mask, none when it is absent. -/
def l6sPos (mask j : Nat) : Option Nat :=
  if mask.testBit j then some ((List.range j).countP (fun i => mask.testBit i)) else none

/-- The code of element j of a record, none for an absent element. -/
def recCode (fmt : Nat) (r : List Byte) (j : Nat) : Option Nat :=
  match fmt with
  | 0 => some (listGet r (1 + j))
  | 1 | 4 => some (listGet r (2 + 2 * j) + 256 * listGet r (3 + 2 * j))
  | 2 => some (bits (leNat (r.drop 1)) (6 * j + 5) (6 * j))
  | 3 => some (bits (leNat (r.drop 1)) (4 * j + 3) (4 * j))
  | _ => (l6sPos (leNat ((r.drop 1).take 4)) j).map (fun n => bits (leNat (r.drop 5)) (6 * n + 5) (6 * n))

/-- The record checks of R56 that do not concern its address. -/
def recBad (fmt : Nat) (r : List Byte) : Bool :=
  listGet r 0 == 255 ||
  (match fmt with
   | 1 | 4 => listGet r 1 != 0
   | 5 => (List.range 32).countP (fun i => (leNat ((r.drop 1).take 4)).testBit i) != 16
   | _ => false)

/-- The value of element j of a record (R60). -/
def recVal (fmt : Nat) (r : List Byte) (j : Nat) : FV :=
  let e := listGet r 0
  match recCode fmt r j with
  | none => .fin false 0 0
  | some c =>
    match fmt with
    | 0 => let q := toS 8 c; .fin (q < 0) q.natAbs ((e : Int) - 127)
    | 1 => let q := toS 16 c; .fin (q < 0) q.natAbs ((e : Int) - 127)
    | 2 | 5 => l16Val (smallToL16 true c) e
    | 3 => l16Val (smallToL16 false c) e
    | _ => l16Val c e

/-- The greatest magnitude of a group, NaN counting as zero and infinities as the greatest finite FP32. -/
def groupBig : List FV → FV
  | [] => .fin false 0 0
  | x :: t =>
    let m := fAbs (capInf (if fIsNan x then .fin false 0 0 else x))
    let r := groupBig t
    if fLt r m then m else r

/-- The scale byte of a group (R60). -/
def groupScale (xs : List FV) (fmt : Nat) : Nat :=
  match groupBig xs with
  | .fin _ m e =>
    if m = 0 then 0
    else
      let bias : Int := match fmt with | 0 => 6 | 1 => 14 | 2 => 7 | 3 => 3 | _ => 0
      (max 0 (min 254 (e + (m.log2 : Int) - bias + 127))).toNat
  | _ => 0

/-- One element of a record under scale e (R60). DEDUCED (log 20). -/
def quantOne (fmt e : Nat) (x : FV) : Nat :=
  let intEl (lim : Int) (w : Nat) : Nat :=
    let y := match x with | .fin n m g => FV.fin n m (g - ((e : Int) - 127)) | v => v
    ofS w (fToInt .rne (-lim) lim y)
  let logEl (fb : Nat) : Nat :=
    if fIsNan x || fIsZero x then 0
    else
      let n := rneShift (logOf (capInf x) - ((e : Int) - 127) * 65536) (16 - fb)
      let top : Int := 8 * 2 ^ fb / (if fb = 1 then 2 else 1)
      let n := if n ≥ top then top - 1 else n
      if n ≤ 0 ∧ !fSign x then 0
      else if n < 0 ∧ fSign x then 0
      else (if fSign x then (8 * 2 ^ fb / (if fb = 1 then 2 else 1)) else 0) + n.toNat
  match fmt with
  | 0 => intEl 127 8
  | 1 => intEl 32767 16
  | 2 => logEl 2
  | 3 => logEl 1
  | _ => l16Of x e

/-- The zero code of a format (R60): of the two of L16 the positive one, for a -0.0 element too. DESIGN CHOICE (log 59). -/
def zeroCode : Nat → Nat | 4 => 0x4000 | _ => 0
/-- Pack codes of w bits into bytes, the first lowest (R54). -/
def packBits (w : Nat) : List Nat → Nat
  | [] => 0
  | c :: t => c + 2 ^ w * packBits w t

/-- QuantiseRecord of R60, as the bytes of R53. -/
def quantRecord (xs : List FV) (fmt : Nat) : List Byte :=
  let e := groupScale xs fmt
  let z := fIsZero (groupBig xs)
  let el := xs.map (fun x => if z then zeroCode fmt else quantOne fmt e x)
  BitVec.ofNat 8 e :: (match fmt with
    | 0 => leBytes 32 (packBits 8 el)
    | 1 | 4 => 0#8 :: leBytes 64 (packBits 16 el)
    | 2 => leBytes 24 (packBits 6 el)
    | _ => leBytes 16 (packBits 4 el))

/-! Frames (R55, R56). -/

/-- The record format, count and size of a frame's format code. -/
def frameFmt : Nat → Option (Nat × Nat)
  | 0x11 => some (3, 15) | 0x19 => some (2, 10) | 0x21 => some (0, 7) | 0x91 => some (5, 15) | _ => none

/-! W64 (R62 to R65). -/

/-- LogDotTerm of R63; six says that the weight is L6. -/
def logDotTerm (six : Bool) (wc ew ac ea : Nat) (ae : Int) : Int :=
  let w16 := smallToL16 six wc
  if l16Zero w16 || l16Zero ac then 0
  else
    let sum := w16 % 256 + ac % 256
    let i := (bits w16 14 8 : Int) + toS 7 (bits ac 14 8) + (sum / 256 : Nat) + ((ew : Int) - 127) + ((ea : Int) - 127)
    let sh := i + 17 - ae
    let t := tabT.getD (sum % 256) 0
    let mag : Nat := if 0 ≤ sh then t * 2 ^ sh.toNat else t / 2 ^ (-sh).toNat
    if bits w16 15 15 != bits ac 15 15 then -(mag : Int) else mag

/-- QTerm of R64 over the exact product p. -/
def qTerm (p : Int) (ew ea : Nat) (ae : Int) : Int :=
  let sh := ((ew : Int) - 127) + ((ea : Int) - 127) + 32 - ae
  let mag : Nat := if 0 ≤ sh then p.natAbs * 2 ^ sh.toNat else p.natAbs / 2 ^ (-sh).toNat
  if p < 0 then -(mag : Int) else mag

/-- ClampAdd of R65: the sum and whether it clamped. -/
def clampAdd (a t : Int) : Int × Bool :=
  let s := a + t
  if s ≥ 2 ^ 63 then (2 ^ 63 - 1, true) else if s < -(2 ^ 63) then (-(2 ^ 63), true) else (s, false)

/-- A W64 lane as FP32 (R62). -/
def w64ToF32 (n : Int) (ae : Int) (rm : Rm) : Nat := fRound fp32 rm (n < 0) n.natAbs (ae - 32)

/-- The group sum of R66: exact, with its rules for zeros, infinities and NaN. -/
def exactSum : List FV → FV
  | [] => .fin true 0 0
  | p :: t =>
    match t with
    | [] => p
    | _ => fAdd .rne p (exactSum t)

/-- One accumulation step of R66. -/
def accF32 (acc : Nat) (prods : List FV) : Nat := fEnc fp32 .rne (fAdd .rne (fDec fp32 acc) (exactSum prods))

/-! The sine and cosine generator (R67). -/

def phase (p w : Nat) : Nat := p * w / 2 ^ 32 % 2 ^ 32

def sinTurn (ph : Nat) : Nat :=
  let q := bits ph 31 30
  let pos := bits ph 29 10
  let pos := if q % 2 = 1 then 2 ^ 20 - pos else pos
  let k := pos / 1024
  let u := pos % 1024
  let s := if k = 1024 then tabQW.getD 1024 0
    else
      let a := tabQW.getD k 0
      a + (tabQW.getD (k + 1) 0 - a) * u / 1024
  fRound fp32 .rne (2 ≤ q && s != 0) s (-30)

def cosTurn (ph : Nat) : Nat := sinTurn ((ph + 0x40000000) % 2 ^ 32)

/-! The defined algorithms of R160. -/

def tabT' (j : Nat) : Nat := if j = 256 then 65536 else tabT.getD j 0

def exp2 (f : Fmt) (rm : Rm) : FV → Nat
  | .nan => fNanBits f
  | .inf false => fInfBits f false
  | .inf true => 0
  | .fin n m e =>
    let z := fToInt .rne (-(2 ^ 24)) (2 ^ 24) (.fin n m (e + 16))
    let i := z / 65536
    let j := (z / 256 % 256).toNat
    let u := (z % 256).toNat
    let t := tabT' j
    fRound f rm false (t + (tabT' (j + 1) - t) * u / 256) (i - 15)

def log2F (f : Fmt) (rm : Rm) : FV → Nat
  | .nan => fNanBits f
  | .inf false => fInfBits f false
  | .inf true => fNanBits f
  | .fin n m e =>
    if m = 0 then fInfBits f true
    else if n then fNanBits f
    else let l := logOf (.fin false m e); fRound f rm (l < 0) l.natAbs (-16)

def sigmoid (f : Fmt) (rm : Rm) (x : FV) : Nat :=
  let y := fEnc fp32 .rne (fMul (fNeg x) (fDec fp32 0x3FB8AA3B))
  let s := exp2 fp32 .rne (fDec fp32 y)
  fRcp f rm (fAdd .rne (.fin false 1 0) (fDec fp32 s))

/-! Mixing (R181, R193). -/

def mix (z : Word) : Word :=
  let z := (z ^^^ (z >>> 30)) * 0xBF58476D1CE4E5B9#64
  let z := (z ^^^ (z >>> 27)) * 0x94D049BB133111EB#64
  z ^^^ (z >>> 31)

def draw (key ctr : Word) : Word := mix (mix (ctr + key * 0x9E3779B97F4A7C15#64) ^^^ key)

def hashGo (h : Word) : List Word → Word
  | [] => h
  | x :: t => hashGo (mix (h ^^^ x)) t

/-- The 8-byte words of a byte string. -/
def wordsOf : Nat → List Byte → List Word
  | 0, _ => []
  | n + 1, l => w64 (leNat (l.take 8)) :: wordsOf n (l.drop 8)

/-- The array's hash of R193. -/
def hashBytes (b : List Byte) : Word := hashGo (w64 b.length) (wordsOf (b.length / 8) b)

end Sys2Proof.Machine
end

