-- ==== Sys2Proof/Config.lean ====
section
/-! DEFINITION. The values the spec leaves open, as constants without a body: nothing can compute them, so a statement
about one holds for every value it may have. -/

namespace Sys2Proof

/-- A free value: a fresh one for each number. DESIGN CHOICE (log 6). -/
opaque Config.freeWord : Nat → Word
/-- A free number: what an implementation picks where the spec gives no rule. DESIGN CHOICE (log 6). -/
opaque Config.freeNat : Nat → Nat
/-- The byte a location holds after its key was erased, by address and erasure (R373). DESIGN CHOICE (log 11). -/
opaque Config.erasedByte : Nat → Nat → Byte

/-- What the two flash slots hold at reset (R371). DESIGN CHOICE (log 52). -/
opaque Config.flashImage : Nat → List Byte
/-- The bytes of a flash slot (R371). -/
opaque Config.flashSize : Nat
/-- Whether an image's digest and its signature verify (R371). DESIGN CHOICE (log 52). -/
opaque Config.imageSigned : List Byte → Bool
/-- SHA-512 (R371, R372). DESIGN CHOICE (log 52). -/
opaque Config.sha512 : List Byte → List Byte
/-- The ROM version and the fused options that the measurements report (R372). -/
opaque Config.romVersion : List Byte
/-- DESIGN CHOICE (log 52). -/
opaque Config.fusedOptions : List Byte
/-- The debug state of measurement 5 (R372). DESIGN CHOICE (log 52). -/
opaque Config.debugOpen : Bool
/-- The SPDM responder's answer to a request, by the request's kind, its bytes, the measurements and a fresh number
(R372). DESIGN CHOICE (log 56). -/
opaque Config.spdm : Nat → List Byte → List (List Byte) → Nat → List Byte
/-- What a read of the CXL component registers gives, by offset and a fresh number (R375). DEDUCED (log 41). -/
opaque Config.cxlReg : Nat → Nat → Word

/-- Whether the peer maps a page of its memory, by page and a fresh number: this device's tables do not say (R306). DEDUCED (log 47). -/
opaque Config.peerMaps : Nat → Nat → Bool
/-- The stripe descriptor of a page of the peer, by page and a fresh number: bit 0 is clear where that is no CC page (R312). DEDUCED (log 47). -/
opaque Config.peerStripe : Nat → Nat → Word

/-- How a record of a page fault writes the kind of access: 0 a read, 1 a write (R353). DEDUCED (log 57). -/
opaque Config.accessKind : Nat → Nat

end Sys2Proof
end

