-- ==== Sys2Proof/Machine/State.lean ====
section
/-! DEFINITION. The state of one OX7400: everything the spec gives the machine, as plain data. Where the spec gives a
register no reset value the value is 0 unless a line below says otherwise (log 5). -/

namespace Sys2Proof.Machine

open Sys2Proof

/-- Why the machine stops: it never does. Everything the spec reports is a next state. -/
inductive Fault where
  deriving DecidableEq, Repr

/-- Why an instruction has no meaning here. -/
inductive Refusal where
  /-- exec raises it for an instruction without a meaning yet. Safe. -/
  | notModelled (mnemonic : String)
  deriving DecidableEq, Repr

/-- The trap causes of R36. -/
inductive Cause where
  | illOp | illField | illOperand | misaligned | rangeFault | permFault | pageFaultLoad | windowUnbound
  | sealedWrite | copyOverlap | boundary | missedPromise | feTimeout | tokenTimeout | engineFault
  | poisonConsumed | phaseExhausted | refNull | refTag | slotState | katMismatch | shadowMismatch | swTrap
  | preempt
  deriving DecidableEq, Repr

/-! Memory accesses under way (R69). -/

/-- The bytes an access names, once translated: an IA, a scratchpad (logical core) or a staging slice of this device, or
a heap object. -/
inductive Loc where
  | ia (a : Nat)
  | spad (core off : Nat)
  | stg (slice off : Nat)
  /-- A byte of a heap object that has no frames yet: 2^40·context + id, and the offset (R227). -/
  | heap (obj off : Nat)
  deriving DecidableEq, Repr

/-- What an access does at its home. -/
inductive AccOp where
  | load
  | store (d : List Byte)
  /-- A store of the bytes a mask selects, inside one aligned word (R172). -/
  | storeM (d : List Byte) (m : List Bool)
  /-- Operation code, size in bytes, operand and second operand of R125; ret says that the old value returns. -/
  | rmw (code size : Nat) (x y : Word) (ret : Bool)
  | ldf (consume : Bool)
  | ste (v : Word)
  | stf (v : Word)
  | feclr (n : Nat)
  | feq
  | flagadd (x : Nat)
  /-- A fill of an L1 sector group, or of a prefetch entry when pb. -/
  | fill (pb : Bool)
  /-- A window-cache fill: the line, and the bytes of it the LDP needs (R27). -/
  | wload (line skip take : Nat)
  /-- VLDF and VSTE over the words of a mask (R174). -/
  | vldf (mask : Nat) (consume : Bool)
  | vste (mask : Nat) (d : List Byte)
  deriving DecidableEq, Repr

/-- One access, or one part of one, from issue until it is performed. -/
structure Acc where
  core : CoreId
  seq : Nat
  loc : Loc
  len : Nat
  op : AccOp
  strong : Bool
  acq : Bool
  sc : Bool
  eng : Eng
  cls : Nat
  gr : Nat
  grp : Nat
  pos : Nat
  arr : Word
  /-- The cycle of its arrival (R80, R329), twice a tick (R2). -/
  cyc : Nat
  /-- Its modifiers `.rel` (bit 0) and `.system` (bit 1), which a ReqStrong carries (R365). -/
  mods : BitVec 2
  waiting : Option Word
  asked : Bool
  /-- A view read: the plane bytes read so far by page offset, their poison and their W (R274). -/
  plane : List (Nat × Byte)
  planeW : Word
  planeP : Bool
  /-- Bytes forwarded from the core's own stores, by position (R71). -/
  fwd : List (Nat × Byte)
  deriving DecidableEq, Repr

/-- Where the value of an access goes. -/
inductive Dest where
  | none
  /-- A scalar register, by the load size code of R119. -/
  | sreg (r : BitVec 6) (code : Nat)
  | preg (r : BitVec 4)
  /-- The reference REFLD reads, with its place (R222). -/
  | ref (l : Loc)
  /-- A template of the store, by 64·engine + index (R143). -/
  | tmpl (key : Nat)
  /-- FLAGSET's mask: the bytes hold the destinations that failed (R130). -/
  | flags (r : BitVec 6)
  /-- The register-region bytes from an offset, with the bytes to write. -/
  | region (off : Nat) (mask : List Bool)
  deriving DecidableEq, Repr

/-- The parts of one instruction's access, and what happens when the last is performed. -/
structure Group where
  id : Nat
  pc : Word
  dest : Dest
  buf : List Byte
  w : Word
  left : Nat
  push : BitVec 3
  poison : Bool
  abandoned : Bool
  deriving DecidableEq, Repr

/-- The four stamps of R74. -/
structure Stamps where
  core : Word
  cluster : Word
  device : Word
  system : Word
  deriving DecidableEq, Repr

/-- A stamp-buffer entry (R69): the core and the number of the store, its class, and the stamps once the home has computed
them. -/
structure StampEnt where
  core : CoreId
  seq : Nat
  cls : Nat
  sc : Bool
  stamps : Option Stamps
  deriving DecidableEq, Repr

/-- A 32-byte copy in the L1, or in the prefetch buffer when pb (R72, R84). -/
structure Copy where
  data : List Byte
  w : Word
  expiry : Word
  pb : Bool
  deriving DecidableEq, Repr

/-- A landing-buffer entry (R25, R69): the register-region offset, the bytes, which of them land and their write stamp;
vec says that it belongs to a vector load, more that its operation still adds bytes of the granule. -/
structure Land where
  off : Nat
  data : List Byte
  mask : List Bool
  w : Word
  more : Bool
  vec : Bool
  push : BitVec 3
  op : Nat
  deriving DecidableEq, Repr

/-- The horizon registers (R69, R75). -/
structure Horizons where
  core : Word
  cluster : Word
  device : Word
  system : Word
  uo : Word
  deriving DecidableEq, Repr

/-- One range register: words 0 to 3 (R33). -/
structure Range where
  w0 : Word
  w1 : Word
  w2 : Word
  w3 : Word
  deriving DecidableEq, Repr

/-! Engines (R14, R103, R182). -/

/-- A staging slot (R103). -/
structure Slot where
  isOpen : Bool
  tix : BitVec 6
  bits : BitVec 256
  deriving DecidableEq, Repr

/-- The registers as they stood before a vector instruction (R155). -/
structure Snap where
  s : Vector Word 64
  p : Vector Pred 16
  slots : Vector Slot 10
  obs : Word
  deriving DecidableEq, Repr

/-- A vector instruction in V's queue that has not passed its start checks, with the scalar operands S sent with it (R154),
the number its accesses begin at, the registers before it, and how many later instructions S has issued (R155). dst, pr
and pw are the s register it writes and the p registers it reads and writes; holds says that no later load may be
performed before it. -/
structure VEntry where
  ins : Instr
  pc : Word
  a : Word
  b : Word
  seq : Nat
  snap : Snap
  after : Nat
  dst : Option (BitVec 6)
  pr : List (BitVec 4)
  pw : List (BitVec 4)
  holds : Bool
  tokStart : Option Word
  fe : Option Nat
  popped : Bool
  deriving DecidableEq, Repr

/-- An M, C, G or X operation: its snapshot at GO (R12, R103, R182) and its progress (R187). -/
structure EOp where
  id : Nat
  tix : BitVec 6
  bits : BitVec 256
  pc : Word
  /-- Its guard passed at GO (R103). -/
  live : Bool
  /-- Its pop has been taken: a reissued PHFETCH takes none (R137). -/
  popped : Bool
  /-- The values of the register fields, by FSEL. -/
  regs : List (Nat × Word)
  /-- The tile or accumulator views named, in field order. -/
  views : List Word
  ae : Word
  fmode : Word
  lseed : Word
  lantern : BitVec 16
  phstate : Word
  promise : Word
  /-- BSAFE marked it (R263). -/
  stop : Bool
  started : Bool
  tokStart : Option Word
  prog : Nat
  aux : Nat
  /-- Status codes: 0 OK, otherwise the code of the cause its completion reports. -/
  status : Nat
  gstatus : Nat
  stamps : Stamps
  uoOnly : Bool
  owed : Nat
  buf : List Byte
  cap : List Nat
  clamp : Bool
  /-- Sealed buffers counted, or the one STAGE fills (R131, R209). -/
  sealAt : List (Nat × Nat)
  sent : Bool
  /-- Its work is over; it completes once its writes have returned. -/
  fin : Bool
  /-- A queue named against TQCFG: nothing is popped or pushed (R17). -/
  noTok : Bool
  /-- One of the writes whose stamps it awaits is of the SO class (R83). -/
  so : Bool
  /-- Held by a page fault since a tick, with the IA (R354). -/
  held : Option (Word × Nat)
  /-- G: the bytes KVAPPEND writes (R235). -/
  last : List Byte
  /-- Bytes of words of a peer's scratchpad that are written when the word is set full, by IA (R200). -/
  cells : List (Nat × Byte)
  /-- Every write of a chain's entries so far fell in UO (R88). -/
  uoAll : Bool
  /-- Its task has ended: it stops at its next element boundary (R134). -/
  cut : Bool
  /-- KVAPPEND: its slot was released while it waited (R240). -/
  shut : Bool
  /-- DESC: chain offset, entries, entry in progress (R210). -/
  chain : Option (Nat × Nat × Nat)
  /-- G: the number of a bank command, from the admission point (R257). -/
  no : Option Nat
  /-- G: VVIEW and the generator of the snapshot (R235, R262). -/
  vview : Word
  kvgen : Word
  deriving DecidableEq, Repr

/-- A deferred trap waiting to be taken (R185, R354). -/
structure Deferred where
  cause : Cause
  tval : Word
  page : Bool
  deriving DecidableEq, Repr

/-- What S waits for at the instruction at pc (R15, R31, R152). -/
inductive Wait where
  /-- A token or room of a queue, since a tick. -/
  | token (start : Word) (q : BitVec 3) (isPush : Bool)
  /-- The access with a sequence number, sent by the instruction with these fields. -/
  | home (seq : Nat) (w : Fields)
  /-- SLEEPT until a tick (R139). -/
  | sleep (target : Word) (w : Fields)
  /-- A sequentially consistent operation: the tick of its slot, the access it then sends and its destination. -/
  | slot (tick : Word) (a : Acc) (g : Group) (w : Fields)
  /-- FENCE, by its scope code and the sequence number it follows (R77, R128). -/
  | fence (scope seq : Nat) (w : Fields)
  /-- Performed; waits until its Vsystem (R86). -/
  | scDone (vs : Word) (w : Fields)
  | lease
  /-- UNSEAL of a slice's buffer at an offset (R132). -/
  | unseal (slice off : Nat) (w : Fields)
  /-- REFLD: the reference read, and where it was read (R222). -/
  | refDone (v : Word) (l : Loc)
  /-- REFPIN waits for frames since a tick (R227). -/
  | touch (start : Word)
  /-- The task is being moved to another core (R295). -/
  | moving
  /-- PHCOMMIT: the reissued PHFETCH under way (R137). -/
  | phretry (op : Nat)
  /-- S has started the instruction and looks at it again: a drain of the engine queues (R17, R136, R137), ASWAP's
  exchange (R29), or a BUSY chunk, which alone yields to a pre-emption (R152, R241). -/
  | again (yields : Bool)
  deriving DecidableEq, Repr

/-- The iteration resident on a core (R38, R287): node, context, ordinal, loop indices, join status, slot. -/
structure Iter where
  ctx : Nat
  node : Nat
  ord : Nat
  idx : List Nat
  cancelled : Bool
  /-- Flags of its node: phase-protected, persistent, pre-emptible (R278). -/
  phase : Bool
  persist : Bool
  preemptible : Bool
  /-- Its sibling tag (R297), the tick of its dispatch or resume, the number of its dispatch, and whether its first
  instruction has issued (R300). -/
  sib : Option (Nat × Nat)
  since : Word
  disp : Nat
  begun : Bool
  deriving DecidableEq, Repr

/-! Bank units and the G store (R243, R257 to R269). -/

/-- A lane of an accumulator or of a row on the ridgepole: its W64, its poison and its clamp mark. -/
structure KLane where
  v : Word
  poison : Bool
  clamp : Bool
  deriving DecidableEq, Repr

/-- An accumulator and its dirty bit. -/
structure KAcc where
  lanes : List KLane
  dirty : Bool
  deriving DecidableEq, Repr

/-- An open loop: the first word of its body, the word after it, and the passes left. -/
structure BLoop where
  start : Nat
  stop : Nat
  left : Nat
  deriving DecidableEq, Repr

/-- A unit's part of a BEXEC: its page (IA, frame, stripe descriptor, bank group), the start and the reach of each
cursor in quarter words, AE, the next unit on the ridgepole, and what has happened so far. -/
structure BRun where
  job : Nat
  ia : Nat
  frame : Nat
  desc : Word
  group : Nat
  start : List Nat
  reach : List (Option Nat)
  ae : Word
  isHead : Bool
  next : Option Nat
  safes : Nat
  exited : Bool
  stopped : Bool
  rowWait : Option (Nat × Nat)
  ridge : Option Nat
  incoming : List (List KLane)
  scaleSeen : Bool
  bytes : Nat
  deriving DecidableEq, Repr

/-- A bank unit (R243). -/
structure BUnit where
  prog : List (BitVec 32)
  l16 : Bool
  act : List Byte
  owner : Option (Nat × Nat)
  y : List (List Byte)
  yp : List (BitVec 64)
  k : List KAcc
  m : List (BitVec 64)
  wc : List Nat
  ac : Nat
  loops : List BLoop
  pw : Nat
  run : Option BRun
  deriving DecidableEq, Repr

/-- An accepted program and its figures (R254): the kind of its MACs (0 none, 1 QMAC, 2 LMAC), the advance of AC, the
reach of each cursor, and the deliveries. -/
structure BProg where
  words : List (BitVec 32)
  mac : Nat
  adv : Nat
  reach : List (Option Nat)
  dels : Nat
  deriving DecidableEq, Repr

/-- The resume record of one unit (R269). -/
structure BSaved where
  pw : Nat
  loops : List BLoop
  wc : List Nat
  ac : Nat
  exited : Bool
  scaleSeen : Bool
  deriving DecidableEq, Repr

/-- A stopped BEXEC: its units' records, the deliveries by stack, and the cycles and bytes so far. -/
structure BResume where
  recs : List BSaved
  dels : List (Nat × List KLane)
  /-- When its first unit first started, and the cycles charged so far (R264, R300). -/
  first : Word
  cycles : Nat
  bytes : Nat
  deriving DecidableEq, Repr

/-- The G store of a core (R257, R261): the program and the activation set with their page sets, the last statuses, and
what the last BEXEC left. -/
structure GStore where
  prog : Option BProg
  progSet : Option (Nat × Nat)
  l16 : Bool
  act : List Byte
  actSet : Option (Nat × Nat)
  stLoad : Nat
  stExec : Nat
  stAct : Nat
  lastOk : Bool
  lastSet : Option (Nat × Nat)
  rows : List (List KLane)
  rowsN : Nat
  dels : Nat
  poison : Word
  cycles : Nat
  bytes : Nat
  resume : Option BResume
  deriving DecidableEq, Repr

/-- A BEXEC in progress: core, operation, units in ascending order, whether the drain is over, when its first unit
started, the deliveries by stack, and the stop request: its N and when it was made (R269, R270). -/
structure BJob where
  job : Nat
  core : CoreId
  op : Nat
  units : List Nat
  started : Bool
  first : Word
  dels : List (Nat × List KLane)
  stop : Option (Nat × Word)
  /-- A pre-emption asked for the stop: the resume record is kept. -/
  keep : Bool
  cycles : Nat
  bytes : Nat
  sib : Option (Nat × Nat)
  deriving DecidableEq, Repr

/-- The banks: the units by device number, the BEXECs in progress, the bank commands admitted and not yet over, by
number, core, operation and units (R257), and the open row of each bank. -/
structure Banks where
  units : Table BUnit
  jobs : List BJob
  enrolled : List (Nat × CoreId × Nat × List Nat)
  nextNo : Nat
  openRows : Table Nat
  deriving DecidableEq, Repr

/-- How an iteration or a node ends (R147, R151, R134). -/
inductive Ending where
  | done | killed | faulted
  deriving DecidableEq, Repr

/-- One core (R13 to R41, R69, R101 to R104, R135, R185). -/
structure Core where
  lid : BitVec 6
  s : Vector Word 64
  p : Vector Pred 16
  h : Vector Word 16
  pc : Word
  handler : Bool
  iter : Option Iter
  taskid : Word
  pbreg : Word
  pbsp : Word
  pbcache : Word
  vview : Word
  tview : Vector Word 16
  aview : Vector Word 4
  tqcfg : Word
  ae : Word
  fmode : Word
  win : Vector (Word × Word) 8
  tvec : Word
  tcause : Word
  tepc : Word
  tval : Word
  status : Word
  lseed : Word
  lantern : BitVec 16
  phstate : Word
  phentry : Word
  phsnap : Vector (Option EOp) 2
  range : Vector Range 8
  kvgen : Vector Word 8
  tok : Vector Nat 8
  rsv : Vector Nat 8
  hz : Horizons
  obs : Word
  pend : List Acc
  groups : List Group
  stamps : List StampEnt
  sidelog : List Acc
  wait : Option Wait
  /-- The queue in which the instruction that S waits in has reserved the place of its push, an access's apart, and the
  queue it has popped (R14, R15). -/
  held : BitVec 3
  took : BitVec 3
  busyS : List Nat
  seq : Nat
  soFloor : Word
  /-- The start of the slot of its last sequentially consistent operation (R86). -/
  scRev : Option Nat
  copies : Table Copy
  landing : List Land
  wcache : List (Nat × List Byte)
  icache : List (Nat × List Byte)
  vq : List VEntry
  mq : List EOp
  cq : List EOp
  gq : List EOp
  xq : List EOp
  gs : GStore
  tmpl : Table (BitVec 256)
  slots : Vector Slot 10
  mfail : Word
  lastCopy : Option (Nat × Word)
  /-- The latest Vsystem of completed X operations (R217). -/
  xfloor : Word
  deferred : List Deferred
  lastCtx : Option Nat
  fenced : Bool
  /-- Requests posted against the core: a pre-emption for a waiting node or saved iteration (R289), a migration
  (R295). -/
  preReq : Option Nat
  migReq : Bool
  deriving DecidableEq, Repr

/-- A lease-table entry (R69): E, the clusters M and W of one grain; ak says that every lease in M is of the AK class
(R335). -/
structure Lease where
  e : Word
  m : BitVec 16
  w : Word
  ak : Bool
  deriving DecidableEq, Repr

/-- A seal descriptor (R131): slice, offset, length, context, read count. -/
structure SealDesc where
  slice : Nat
  off : Nat
  len : Nat
  ctx : Nat
  count : Nat
  closing : Bool
  staging : Bool
  deriving DecidableEq, Repr

/-- A cluster's matrix array (R28). -/
structure Cluster where
  holder : Option (BitVec 2)
  grantTick : Word
  cmds : Nat
  idle : Option Word
  last : BitVec 2
  deriving DecidableEq, Repr

/-! The bridge and the home directory (R321 to R328). -/

/-- A home-directory state; H-I is an absent entry (R323). -/
inductive DirSt where
  | hS | hE | hO | hA | tFS | tFX | tBS | tInv
  deriving DecidableEq, Repr

/-- A host request that waits at the home (R327, R333). -/
inductive HostReq where
  | memRd (m : HostMsg)
  | memRdData (m : HostMsg)
  | memInv (m : HostMsg)
  | memWr (m : HostMsg)
  /-- A snoop whose answer waits for leases (R334). -/
  | snoop (m : HostMsg)
  deriving DecidableEq, Repr

/-- Who makes an access: a core's S or V access or an engine operation by number, a message of the peer, or a host
request; whether it is strong, the cycle of its arrival, and for an atomic the old value and its W. -/
structure Who where
  core : CoreId
  eng : Eng
  seq : Nat
  flit : Option Flit := none
  host : Option HostReq := none
  strong : Bool := false
  cyc : Nat := 0
  ret : Word := 0
  retw : Word := 0
  deriving DecidableEq, Repr

/-- A store whose stamps wait for acknowledgements (R74, R335): who made it, the 32-byte sectors it is stamped at, the
stamps so far, the least Vsystem (R324), the grains whose invalidation is awaited, whether it is of the AK class, and the
clusters whose recall is outstanding. -/
structure StampWait where
  who : Who
  secs : List Nat
  stamps : Stamps
  floor : Word
  dirs : List Nat
  ak : Bool
  left : List Nat
  deriving DecidableEq, Repr

/-- A directory entry of one grain (R323): a transient one records the request it serves, and the targets awaited. -/
structure Dir where
  gr : Nat
  st : DirSt
  p : Bool
  h : Bool
  needP : Bool
  needH : Bool
  req : Option Who
  /-- The upgrade that lost to the request and waits behind it (R330). -/
  next : Option Flit
  deriving DecidableEq, Repr

/-- A reservation of a grain (R328): its size, tag and port of the requester, tick of its last refusal. -/
structure Resv where
  gr : Nat
  tag : Nat
  port : Bool
  since : Word
  deriving DecidableEq, Repr

/-- A waiter-table entry (R327). -/
structure Waiter where
  tag : Nat
  port : Bool
  grain : Nat
  gr : Nat
  count : Nat
  first : Word
  deriving DecidableEq, Repr

/-- The states of an RDC grain; I is an absent entry (R322). -/
inductive RdcSt where
  | m | o | e | s | iS | iM | sM | xI
  deriving DecidableEq, Repr

/-- A grain of the remote-data cache (R322): its W, its floor X, and the access that its request was sent for and that
has not used it yet (R326). -/
structure RdcGrain where
  gr : Nat
  st : RdcSt
  data : List Byte
  w : Word
  floor : Word
  cc : Bool
  want : Option (CoreId × Eng × Nat)
  deriving DecidableEq, Repr

/-- A request of this device outstanding on the link (R327): the flit, whom it serves and its refusals. -/
structure LinkReq where
  flit : Flit
  core : CoreId
  eng : Eng
  seq : Nat
  pos : Nat
  /-- The class of its range, and when it was sent. -/
  cls : Nat
  arr : Word
  k : Nat
  retry : Option Word
  deriving DecidableEq, Repr

/-- The plane bytes a view read has got so far, by page offset, with their W and their poison (R274). -/
structure PlaneGot where
  bytes : List (Nat × Byte)
  w : Word
  poison : Bool
  deriving DecidableEq, Repr

/-- A request that waits at a home in its place of the queue (R69, R327): the flit, or the host's request with the tick
since which a page fault holds it (R353); its arrival; and what a view read has got. -/
structure LinkWait where
  flit : Flit
  arr : Word
  cyc : Nat
  got : PlaneGot := { bytes := [], w := 0, poison := false }
  deriving DecidableEq, Repr

structure HostWait where
  req : HostReq
  since : Option Word
  arr : Word
  cyc : Nat
  got : PlaneGot := { bytes := [], w := 0, poison := false }
  deriving DecidableEq, Repr

/-- The bridge (R320 to R336, R364 to R368). -/
structure Bridge where
  up : Bool
  port0 : Bool
  port1 : Bool
  dir : Table Dir
  resv : Table Resv
  waiters : List Waiter
  rdc : Table RdcGrain
  reqs : Table LinkReq
  swaits : List StampWait
  /-- Host requests that wait at the home (R327, R353). -/
  hostWait : List HostWait
  /-- Messages of the peer that wait at a word, a page, a grain or a lease. -/
  linkHeld : List LinkWait
  /-- The latest access to each tag of the RDC (R336), and the number of the next. -/
  rdcUse : Table Nat
  rdcNo : Nat
  /-- SnpRspI (WBPEND) answers still to come for snoops that a WB has answered, by grain (R331). -/
  stale : Table Nat
  out : List Flit
  nextTag : Nat
  wheel : Nat
  wheelNext : Option (Nat × Word)
  brstat0 : Word
  brstat1 : Word
  deriving DecidableEq, Repr

/-- A message to the host: its kind and its contents. The MetaValue of a completion is the state granted: shared for
Cmp-S, any for Cmp-E, inv for none. -/
inductive HostOut where
  | bisnpData (ia : Nat)
  | bisnpInv (ia : Nat)
  | biconflictAck (ia : Nat)
  | cmp (tag : Nat) (mv : MetaValue) (data : List Byte) (poison : Bool)
  | rdOwn (ia : Nat)
  | rdShared (ia : Nat)
  | writeBack (ia : Nat) (data : List Byte)
  | snoopRsp (ia : Nat) (data : List Byte) (dirty : Bool)
  | spdm (data : List Byte)
  deriving DecidableEq, Repr

/-! Translation (R350 to R361). -/

/-- The two words of a page-table leaf (R351). -/
structure Leaf where
  w0 : Word
  w1 : Word
  deriving DecidableEq, Repr

/-- A migration under way (R357): the page, its size, the frames taken and whether it replicates. -/
structure Migration where
  page : Nat
  big : Bool
  frames : List Nat
  replica : Bool
  old : Word
  deriving DecidableEq, Repr

structure Xlat where
  pages : Table Leaf
  tpool : Option (Word × Word)
  migFree : List Nat
  faulted : List Nat
  migs : List Migration
  /-- Pages that an UNMAP is taking away, by the number of their first 64 KiB (R352). -/
  leaving : List Nat
  nextEpoch : Word
  /-- 64 KiB frames whose key was erased, with the number of the erasure; the erasure of every key; and the bytes
  written since (R373). -/
  erased : Table Nat
  wiped : Option Nat
  rewritten : List Nat
  deriving DecidableEq, Repr

/-- A context (R361, R362): its record table, node range, save frames, key version, heap and tensor tables, the 2 MiB
pages of its heap frame pool, and its refused launches. -/
structure Ctx where
  isOpen : Bool
  table : Word
  first : Nat
  count : Nat
  frameBase : Word
  frameCount : Nat
  keyver : Nat
  otbase : Word
  otlimit : Word
  /-- None before the first TTCFG: the table lies nowhere yet. DESIGN CHOICE (log 10). -/
  ttbase : Option Word
  /-- The created entries of the tensor table; every other entry is all zeros (R303). -/
  tens : Table (List Word)
  heapPool : List Nat
  refused : Nat
  deriving DecidableEq, Repr

/-- A ring's registers (R375). -/
structure Ring where
  base : Word
  size : Word
  head : Word
  tail : Word
  deriving DecidableEq, Repr

/-- Basecamp's registers and lists (R359, R375, R376, R384). -/
structure Base where
  stg : Nat
  err : Nat
  ready : Bool
  fwver : Word
  chanok0 : Word
  chanok1 : Word
  cr : Ring
  crtail : Word
  cq : Ring
  eq : Ring
  bwdog : Word
  migcfg : Word
  lost : Bool
  lostCount : Nat
  msix : List Nat
  hostOut : List HostOut
  /-- Commands taken from the ring and not yet run, with their codes (R359, R360), and launches that wait for their
  record's memory. -/
  cmds : List (Nat × Cmd)
  launches : List (BitVec 4 × Word)
  /-- The relocation in progress: context, object and the tag of its command (R225, R277). -/
  reloc : Option (Nat × Nat × BitVec 32)
  deriving DecidableEq, Repr

/-! The scheduler (R278 to R302). -/

/-- A resident node: its record as the launch copied it (R278 to R281), and its progress. -/
structure Node where
  ctx : Nat
  entry : Nat
  pbreg : Nat
  pbsp : Nat
  pbcache : Nat
  wins : List (Word × Word)
  n : List Nat
  ord : Nat
  sib : Option (Nat × Nat)
  slot : Nat
  cmask : BitVec 16
  last : Bool
  join : Bool
  phase : Bool
  preempt : Bool
  persist : Bool
  prio : Nat
  succs : List Nat
  ranges : List Range
  tqcfg : Word
  tvec : Word
  tmpl : Table (BitVec 256)
  counter : Nat
  status : Word
  /-- The order in which it became ready. -/
  ready : Option Nat
  nextOrd : Nat
  served : Nat
  ep : Nat
  clock : Word
  running : Nat
  /-- FAULTED 1, KILLED 2 and the rest of its outcome (R284). -/
  outcome : Word
  /-- It dispatches nothing more. -/
  stopped : Bool
  deriving DecidableEq, Repr

/-- A saved iteration (R293): its frame, the logical core it left, and the part of the core that the frame keeps in
its engine area. -/
structure Saved where
  it : Iter
  lid : Nat
  frame : Nat
  core : Core
  deriving DecidableEq, Repr

/-- A ballot-table entry (R296). The costs are kept by sibling (R300). -/
structure Ballot where
  closed : Bool
  result : Nat
  ctx : Nat
  size : Nat
  quorum : Nat
  widx : Nat
  posted : Nat
  fin : Nat
  cancelled : Nat
  released : Nat
  whash : Word
  closeGtc : Word
  slots : List Nat
  hash : List Word
  pgtc : List Word
  dispAfter : Nat
  coreCyc : List Nat
  unitCyc : List Nat
  bytes : List Nat
  late : Nat
  deriving DecidableEq, Repr

/-- A move in progress (R295). -/
structure Move where
  src : CoreId
  dst : CoreId
  deriving DecidableEq, Repr

/-- The slot of a cancelled sibling that is still to be released after its group was freed (R302, R361). -/
structure SibOwed where
  grp : Nat
  idx : Nat
  ctx : Nat
  slot : Nat
  deriving DecidableEq, Repr

structure Sched where
  nodes : Table Node
  saved : List Saved
  ballots : Table Ballot
  owed : List SibOwed
  moves : List Move
  readyNo : Nat
  dispNo : Nat
  deriving DecidableEq, Repr

/-! The managed heap and the slots (R219, R229). -/

inductive ObjSt where
  | absent | present | relocating | forwarded
  deriving DecidableEq, Repr

/-- An object-table entry (R219). -/
structure Obj where
  st : ObjSt
  size : Nat
  base : Nat
  busy : Bool
  prog : Nat
  newBase : Nat
  owner : Nat
  arena : Bool
  target : Nat
  rc : Nat
  pin : Nat
  deriving DecidableEq, Repr

inductive SlotSt where
  | free | prompt | gen | handing
  deriving DecidableEq, Repr

/-- A slot descriptor (R229), with the appends a hand-over waits for and the time it then waits for (R237). -/
structure SlotDesc where
  st : SlotSt
  bkt : Nat
  dw : Nat
  ctx : Nat
  nlm1 : Nat
  nhgm1 : Nat
  idbase : Nat
  hlen : Nat
  len : Nat
  /-- Appends arrived and not complete: core and operation. -/
  appends : List (CoreId × Nat)
  awaited : List (CoreId × Nat)
  floor : Word
  deriving DecidableEq, Repr

/-- Object tables by 2^40·context + id: the entries that differ from zero, but for untouched arena entries of open
slots, which follow from the slot (log 10). -/
structure Heap where
  objs : Table Obj
  slots : Table SlotDesc
  deriving DecidableEq, Repr

/-! The fleet (R371 to R374, R385 to R391). -/

/-- Where a fenced core stands on its way back (R388), with the period in which that began. -/
inductive TestSt where
  | none
  | waiting
  | running (p : Nat)
  | appealing (p : Nat)
  | passed
  /-- Basecamp has concurred by a READMIT command. -/
  | concurred
  | refused (p : Nat)
  deriving DecidableEq, Repr

/-- What Basecamp and the routers keep about one core. -/
structure FleetCore where
  hi : Nat
  lo : Nat
  /-- The period in which throttling began. -/
  throttled : Option Nat
  throttledPeriods : Nat
  shut : Bool
  test : TestSt
  readmits : List Word
  deriving DecidableEq, Repr

structure Vote where
  voter : CoreId
  suspect : CoreId
  period : Nat
  readmit : Bool
  deriving DecidableEq, Repr

structure Fleet where
  cores : Vector FleetCore 64
  /-- By 64·router + neighbour: missing heartbeats in a row, the period of a suspicion not yet voted, clean appeal
  heartbeats in a row, and the period last judged (R385, R388). -/
  missed : Table Nat
  suspect : Table Nat
  clean : Table Nat
  judged : Table Nat
  votes : List Vote
  ordered : List CoreId
  mig : Nat
  thr : Nat
  auto : Bool
  perDay : Nat
  /-- The power limit in W, and the one set from the next window. -/
  power : Nat
  powerNext : Nat
  powerMw : Nat
  /-- Firmware: the two flash slots, the slot that runs (2: none), whether the other was written since it was last
  committed, the fused counter. -/
  flash0 : List Byte
  flash1 : List Byte
  running : Nat
  staged : Bool
  fused : Nat
  trips : List (Sensor × Word)
  /-- Counters of R391: words 1 and 3 to 13, then the corrected and uncorrectable words by stack. -/
  tele : List Nat
  corrected : List Nat
  uncorrectable : List Nat
  deriving DecidableEq, Repr

/-- The device. -/
structure State where
  gtc : Word
  cores : Vector Core 64
  clusters : Vector Cluster 16
  mem : List Host.Cell
  full : List Nat
  poison : List Nat
  /-- Stores to compute-capable pages not yet in the rows (R265, R266): place and byte, in arrival order. -/
  wtq : List Host.Cell
  banks : Banks
  homeQ : List Acc
  leases : Table Lease
  seals : List SealDesc
  stgb : Vector Word 32
  leaseLen : Word
  devnum : Bool
  bridge : Bridge
  xlat : Xlat
  base : Base
  ctxs : Vector Ctx 16
  sched : Sched
  heap : Heap
  fleet : Fleet
  /-- The model's own (log 2): the decoded instruction that the next step runs on core cur or unit curUnit, the
  schedule, the place in the turn of the clock that comes next, and the number of the next free value. -/
  fetched : Option Instr
  agenda : List Instr
  cur : CoreId
  curUnit : UnitId
  turn : Nat
  free : Nat
  /-- The model's own: the cycle of the latest arrival at a home, and its rank of R329 (log 73). -/
  cyc : Nat
  rank : Nat
  deriving DecidableEq, Repr

/-! Reset. -/

def Slot.reset : Slot := { isOpen := false, tix := 0, bits := 0 }
def Horizons.reset : Horizons := { core := 0, cluster := 0, device := 0, system := 0, uo := 0 }
def Range.reset : Range := { w0 := 0, w1 := 0, w2 := 0, w3 := 0 }
/-- DESIGN CHOICE (log 5). -/
def Cluster.reset : Cluster := { holder := none, grantTick := 0, cmds := 0, idle := none, last := 3 }

/-- No program, no activation, statuses 0xFF (R264). -/
def GStore.reset : GStore :=
  { prog := none, progSet := none, l16 := false, act := [], actSet := none, stLoad := 255, stExec := 255, stAct := 255,
    lastOk := false, lastSet := none, rows := [], rowsN := 0, dels := 0, poison := 0, cycles := 0, bytes := 0,
    resume := none }
def Banks.reset : Banks := { units := [], jobs := [], enrolled := [], nextNo := 0, openRows := [] }
def KAcc.zero : KAcc := { lanes := List.replicate 64 { v := 0, poison := false, clamp := false }, dirty := false }
/-- A unit that has run nothing. DESIGN CHOICE (log 5). -/
def BUnit.reset : BUnit :=
  { prog := [], l16 := false, act := [], owner := none, y := List.replicate 24 (List.replicate 64 0),
    yp := List.replicate 24 0, k := List.replicate 4 KAcc.zero, m := List.replicate 4 0, wc := List.replicate 4 0,
    ac := 0, loops := [], pw := 0, run := none }

/-- The core of physical id c after reset (R13, R16, R19, R20, R41). DESIGN CHOICE (log 5). -/
def Core.reset (c : CoreId) : Core :=
  { lid := c, s := Vector.replicate 64 0, p := Vector.replicate 16 0, h := Vector.replicate 16 0, pc := 0,
    handler := false, iter := none, taskid := 0, pbreg := 12, pbsp := 24, pbcache := 40, vview := 0,
    tview := Vector.replicate 16 0, aview := Vector.replicate 4 0, tqcfg := 0x2E0D804A402, ae := 0, fmode := 0,
    win := Vector.replicate 8 (0, 0), tvec := 0, tcause := 0, tepc := 0, tval := 0, status := 0, lseed := 0,
    lantern := 0xACE1, phstate := 0, phentry := 0, phsnap := Vector.replicate 2 none,
    range := Vector.replicate 8 Range.reset, kvgen := Vector.replicate 8 0, tok := Vector.replicate 8 0,
    rsv := Vector.replicate 8 0, hz := Horizons.reset, obs := 0, pend := [], groups := [], stamps := [],
    sidelog := [], wait := none, held := 0, took := 0, busyS := [], seq := 0, soFloor := 0, scRev := none, copies := [],
    landing := [], wcache := [], icache := [], vq := [], mq := [], cq := [], gq := [], xq := [], gs := GStore.reset, tmpl := [],
    slots := Vector.replicate 10 Slot.reset, mfail := 0, lastCopy := none, xfloor := 0, deferred := [],
    lastCtx := none, fenced := false, preReq := none, migReq := false }

def Ring.reset : Ring := { base := 0, size := 0, head := 0, tail := 0 }
/-- DESIGN CHOICE (log 5). -/
def Bridge.reset : Bridge :=
  { up := false, port0 := false, port1 := false, dir := [], resv := [], waiters := [], rdc := [], reqs := [],
    swaits := [], hostWait := [], linkHeld := [], rdcUse := [], rdcNo := 0, stale := [], out := [], nextTag := 0, wheel := 64, wheelNext := none,
    brstat0 := 0, brstat1 := 0 }
/-- DESIGN CHOICE (log 5). -/
def Xlat.reset : Xlat :=
  { pages := [], tpool := none, migFree := [], faulted := [], migs := [], leaving := [], nextEpoch := 0x100000, erased := [], wiped := none,
    rewritten := [] }
def Ctx.reset : Ctx :=
  { isOpen := false, table := 0, first := 0, count := 0, frameBase := 0, frameCount := 0, keyver := 0, otbase := 0,
    otlimit := 0, ttbase := none, tens := [], heapPool := [], refused := 0 }
/-- MIGCFG resets to EPL 20, MTHR 64, MMAX 16, FMIN 256; BWDOG to 50 (R376). DESIGN CHOICE (log 5). -/
def Base.reset : Base :=
  { stg := 0, err := 0, ready := false, fwver := 0, chanok0 := 0, chanok1 := 0, cr := Ring.reset, crtail := 0,
    cq := Ring.reset, eq := Ring.reset, bwdog := 50,
    migcfg := 20 * 2 ^ 58 + 64 * 2 ^ 49 + 16 * 2 ^ 33 + 256, lost := false, lostCount := 0, msix := [],
    hostOut := [], cmds := [], launches := [], reloc := none }

def Sched.reset : Sched := { nodes := [], saved := [], ballots := [], owed := [], moves := [], readyNo := 0, dispNo := 0 }
def Heap.reset : Heap := { objs := [], slots := [] }
def FleetCore.reset : FleetCore :=
  { hi := 0, lo := 0, throttled := none, throttledPeriods := 0, shut := false, test := .none, readmits := [] }
/-- THERMCFG resets to MIG 95 and THR 105, FENCEPOL to HOLD and 0, the power limit to 400 W (R389, R390). DESIGN CHOICE (log 5). -/
def Fleet.reset : Fleet :=
  { cores := Vector.replicate 64 FleetCore.reset, missed := [], suspect := [], clean := [], judged := [], votes := [], ordered := [],
    mig := 95, thr := 105, auto := false, perDay := 0, power := 400, powerNext := 400, powerMw := 0,
    flash0 := Config.flashImage 0, flash1 := Config.flashImage 1, running := 2, staged := false, fused := 0, trips := [], tele := List.replicate 12 0,
    corrected := List.replicate 8 0, uncorrectable := List.replicate 8 0 }

/-- The machine right after reset. DESIGN CHOICE (log 5). -/
def State.reset : State :=
  { gtc := 0, cores := Vector.ofFn (fun i => Core.reset (BitVec.ofNat 6 i.val)),
    clusters := Vector.replicate 16 Cluster.reset, mem := [], full := [], poison := [], wtq := [], banks := Banks.reset, homeQ := [], leases := [],
    seals := [], stgb := Vector.replicate 32 0, leaseLen := 512, devnum := false,
    bridge := Bridge.reset, xlat := Xlat.reset, base := Base.reset, ctxs := Vector.replicate 16 Ctx.reset,
    sched := Sched.reset, heap := Heap.reset, fleet := Fleet.reset, fetched := none, agenda := [], cur := 0, curUnit := 0,
    turn := 0, free := 0, cyc := 0, rank := 0 }

end Sys2Proof.Machine
end

