-- ==== Sys2Proof/Machine/Ops.lean ====
section
/-! DEFINITION. The named operations over registers, memory and the core: register access, the parts of a pool (R18),
error records (R382, R384), the status flags (R41, R42), taking an exception (R35, R151) and returning from one. -/

namespace Sys2Proof.Machine

open Sys2Proof

/-- The answer of a step of the machine. -/
abbrev Out := Host.Outcome State Fault Refusal

/-! Registers. -/

/-- A scalar register; s0 reads 0 (R26). -/
def Core.rs (k : Core) (r : BitVec 6) : Word := if r = 0 then 0 else k.s[r.toNat]'r.isLt
/-- Write a scalar register; a write to s0 is discarded (R112). -/
def Core.ws (k : Core) (r : BitVec 6) (v : Word) : Core := if r = 0 then k else { k with s := k.s.set r.toNat v r.isLt }
def Core.rp (k : Core) (r : BitVec 4) : Pred := k.p[r.toNat]'r.isLt
def Core.wp (k : Core) (r : BitVec 4) (v : Pred) : Core := { k with p := k.p.set r.toNat v r.isLt }
def Core.rh (k : Core) (r : BitVec 4) : Word := k.h[r.toNat]'r.isLt
def Core.wh (k : Core) (r : BitVec 4) (v : Word) : Core := { k with h := k.h.set r.toNat v r.isLt }
/-- The register of a 16-register file that a field names (R97). -/
def r4 (r : BitVec 6) : BitVec 4 := r.truncate 4

def State.core (s : State) (c : CoreId) : Core := s.cores[c.toNat]'c.isLt
def State.setCore (s : State) (c : CoreId) (k : Core) : State := { s with cores := s.cores.set c.toNat k c.isLt }
def State.modCore (s : State) (c : CoreId) (f : Core → Core) : State := s.setCore c (f (s.core c))

/-- All cores by physical id. -/
def coreIds : List CoreId := (List.range 64).map (BitVec.ofNat 6)

def State.cluster (s : State) (n : Nat) : Cluster := s.clusters[n]?.getD Cluster.reset
def State.setCluster (s : State) (n : Nat) (a : Cluster) : State :=
  { s with clusters := s.clusters.setIfInBounds n a }

/-- The core a logical id names (R13). -/
def State.byLid (s : State) (l : Nat) : CoreId :=
  (coreIds.find? (fun c => (s.core c).lid.toNat == l)).getD (BitVec.ofNat 6 l)

/-- The cluster and the position of a physical core (R13). -/
def clusterOf (c : CoreId) : Nat := 4 * (c.toNat / 16) + c.toNat % 8 / 2
def positionOf (c : CoreId) : Nat := 2 * (c.toNat / 8 % 2) + c.toNat % 2
/-- The physical core at a position of a cluster. -/
def coreAt (cl pos : Nat) : CoreId := BitVec.ofNat 6 (8 * (2 * (cl / 4) + pos / 2) + 2 * (cl % 4) + pos % 2)

/-- The next free value, and the state that has used it. DESIGN CHOICE (log 6). -/
def State.freshWord (s : State) : Word × State := (Config.freeWord s.free, { s with free := s.free + 1 })
/-- DESIGN CHOICE (log 6). -/
def State.freshNat (s : State) : Nat × State := (Config.freeNat s.free, { s with free := s.free + 1 })

/-! Places in memory. Device memory stands at its physical address; every other memory has its own base above it. -/

/-- DESIGN CHOICE (log 4). -/
def poolBase : Nat := 2 ^ 60
/-- DESIGN CHOICE (log 4). -/
def wbankBase : Nat := 2 ^ 61
/-- DESIGN CHOICE (log 4). -/
def hostBase : Nat := 8 * 2 ^ 48
/-- DESIGN CHOICE (log 4). -/
def stgBase : Nat := 5 * 2 ^ 48
/-- A register-region offset of a physical core. -/
def regionKey (c : CoreId) (off : Nat) : Nat := poolBase + c.toNat * 2 ^ 21 + off
/-- A scratchpad offset of a physical core: it follows the register region (R18). -/
def spadKey (s : State) (c : CoreId) (off : Nat) : Nat :=
  poolBase + c.toNat * 2 ^ 21 + (s.core c).pbreg.toNat * 16384 + off
/-- A working-bank offset (R29). -/
def wbankKey (c : CoreId) (off : Nat) : Nat := wbankBase + c.toNat * 2 ^ 16 + off
def stgKey (slice off : Nat) : Nat := stgBase + slice * 2 ^ 24 + off

def regionSize (k : Core) : Nat := k.pbreg.toNat * 16384
/-- A core's scratchpad size as the table of R32 holds it: 0 when the core is fenced (R121). -/
def spadSize (k : Core) : Nat := if k.fenced then 0 else k.pbsp.toNat * 16384
/-- The staging part of a slice; GRAN above 24 counts as 24 (R317). -/
def stgSize (s : State) (slice : Nat) : Nat := min 24 (wbits (s.stgb[slice]?.getD 0) 4 0) * 2 ^ 18

def State.readMem (s : State) (key n : Nat) : List Byte := memRead s.mem key n
def State.writeMem (s : State) (key : Nat) (d : List Byte) : State := { s with mem := memWrite s.mem key d }
/-- Write the bytes of d whose mask bit is set. -/
def writeMasked : List Host.Cell → Nat → List Byte → List Bool → List Host.Cell
  | m, _, [], _ => m
  | m, _, _, [] => m
  | m, a, b :: t, x :: u => writeMasked (if x then memSet m a b else m) (a + 1) t u

/-- The elements of a list that a mask selects; an empty mask selects all. -/
def pick (m : List Bool) (l : List α) : List α :=
  if m.isEmpty then l else (l.zip m).filterMap (fun x => if x.2 then some x.1 else none)
/-- Write the bytes of a mask, empty for all. -/
def State.writeMemM (s : State) (key : Nat) (d : List Byte) (m : List Bool) : State :=
  if m.isEmpty then s.writeMem key d else { s with mem := writeMasked s.mem key d m }
/-- Overwrite the bytes of a list from a position that a mask selects, empty for all. -/
def patchM (l : List Byte) (pos : Nat) (d : List Byte) (m : List Bool) : List Byte :=
  if m.isEmpty then patch l pos d
  else (List.range d.length).foldl (fun l i => if m.getD i false then setNth l (pos + i) (d.getD i 0) else l) l

/-- The full/empty bit of the scratchpad word at a key (R30). -/
def isFull (s : State) (key : Nat) : Bool := setHas s.full (key / 8)
def State.setFull (s : State) (key : Nat) (b : Bool) : State := { s with full := setPut s.full (key / 8) b }

/-! Error records (R382 to R384). -/

/-- The codes of R36. -/
def causeCode : Cause → Nat
  | .illOp => 0x01 | .illField => 0x02 | .illOperand => 0x03 | .misaligned => 0x04 | .rangeFault => 0x08
  | .permFault => 0x09 | .pageFaultLoad => 0x0A | .windowUnbound => 0x0B | .sealedWrite => 0x0C
  | .copyOverlap => 0x0D | .boundary => 0x0E | .missedPromise => 0x10 | .feTimeout => 0x11
  | .tokenTimeout => 0x12 | .engineFault => 0x14 | .poisonConsumed => 0x15 | .phaseExhausted => 0x16
  | .refNull => 0x18 | .refTag => 0x19 | .slotState => 0x1A | .katMismatch => 0x1C | .shadowMismatch => 0x1D
  | .swTrap => 0x20 | .preempt => 0x22

/-- An error record before Basecamp writes it. DEDUCED (log 57). -/
structure ErrRec where
  code : Nat
  sev : Nat
  src : Nat
  ctx : Option (Nat × Nat)
  eng : Nat
  tix : Nat
  gstat : Nat
  /-- What ADDR, DATA and WHERE hold; none where the spec gives the record no content there. -/
  addr : Option Nat
  data : Option Nat
  wher : Option Nat
  deriving DecidableEq, Repr

/-- A record about a core, with its context and node when an iteration is resident. -/
def coreRec (s : State) (c : CoreId) (code sev : Nat) (addr : Option Nat) : ErrRec :=
  let k := s.core c
  { code := code, sev := sev, src := 0, ctx := k.iter.map (fun i => (i.ctx, i.node)), eng := 7, tix := 0, gstat := 0,
    addr := addr, data := none, wher := some (k.lid.toNat + 64 * c.toNat) }

/-- The number of entries of a ring before it is full, and its state. -/
def ringFull (r : Ring) : Bool := r.size == 0 || (r.tail.toNat + 1) % r.size.toNat == r.head.toNat
def ringNext (r : Ring) : Ring := { r with tail := w64 ((r.tail.toNat + 1) % r.size.toNat) }

/-- Replace element i of a list of counters by its successor, saturating (R391). -/
def bumpAt (l : List Nat) (i : Nat) : List Nat := setNth l i (min (2 ^ 64 - 1) (l.getD i 0 + 1))
/-- Count one event of R391: 0 records written, 1 KAT checks, 2 KAT mismatches, 3 shadow checks, 4 shadow mismatches,
5 phase retries, 6 PHASE_EXHAUSTED, 7 POISON_CONSUMED, 8 fences, 9 readmissions, 10 thermal migrations, 11 thermal
shutdowns. -/
def State.bump (s : State) (i : Nat) : State := { s with fleet := { s.fleet with tele := bumpAt s.fleet.tele i } }
/-- The counter of R391 that a record's code moves. -/
def codeCounter : Nat → Option Nat
  | 0x1C => some 2 | 0x1D => some 4 | 0x15 => some 7 | _ => none

/-- Basecamp writes one record into the error queue, or drops and counts it (R384). A field that the spec gives no content
holds a free value. DEDUCED (log 57). -/
def State.report (s : State) (r : ErrRec) : State :=
  let s := match codeCounter r.code with | some i => s.bump i | none => s
  if ringFull s.base.eq then { s with base := { s.base with lost := true, lostCount := s.base.lostCount + 1 } }
  else
    let w0 := (if s.base.lost then 2 ^ 63 else 0) + r.sev * 2 ^ 60 + r.src * 2 ^ 56
      + (match r.ctx with | some (x, n) => 2 ^ 55 + x * 2 ^ 51 + n * 2 ^ 24 | none => 0)
      + r.eng * 2 ^ 48 + r.tix * 2 ^ 42 + r.gstat * 2 ^ 16 + r.code
    let fill (n : Nat) (v : Option Nat) : Nat := v.getD (Config.freeWord (s.free + n)).toNat
    let w2 := fill 1 r.data * 2 ^ 16 % 2 ^ 64 + fill 2 r.wher % 2 ^ 16
    let bytes := leBytes 8 w0 ++ leBytes 8 (fill 0 r.addr) ++ leBytes 8 w2 ++ leBytes 8 s.gtc.toNat
    let at_ := hostBase + (s.base.eq.base.toNat + 32 * s.base.eq.tail.toNat) % 2 ^ 48
    ({ s with mem := memWrite s.mem at_ bytes, free := s.free + 3,
              base := { s.base with eq := ringNext s.base.eq, lost := false, msix := s.base.msix ++ [1] } }).bump 0

/-- A record that names a cause for a core (R383). -/
def State.reportCause (s : State) (c : CoreId) (x : Cause) (addr : Nat) : State :=
  s.report (coreRec s c (causeCode x) 2 (some addr))

/-! Status flags (R41, R42). -/

/-- Set a sticky STATUS flag: it is reported when it goes from 0 to 1. eng and tix name an engine operation; with eng 7,
addr is the address of the instruction. -/
def State.raiseFlag (s : State) (c : CoreId) (bit code sev eng tix addr : Nat) (data : Option Nat := none) : State :=
  let k := s.core c
  if k.status.getLsbD bit then s
  else
    let s := s.setCore c { k with status := k.status ||| w64 (2 ^ bit) }
    s.report { coreRec s c code sev (if eng = 7 then some addr else none) with src := if eng < 5 then eng else 0, eng := eng, tix := tix, data := data }

/-- A window read was out of bounds (R27). -/
def State.raisePwoob (s : State) (c : CoreId) (eng tix addr : Nat) : State := s.raiseFlag c 0 0x0114 0 eng tix addr
/-- A W64 accumulation clamped (R65). -/
def State.raiseAccsat (s : State) (c : CoreId) (eng tix addr : Nat) : State := s.raiseFlag c 1 0x0115 0 eng tix addr
/-- Poison was consumed: POISONSEEN, or POIS of the open phase (R42, R136). data is the lane mask of a BREAD (R382). -/
def State.raisePoison (s : State) (c : CoreId) (eng tix addr : Nat) (data : Option Nat := none) : State :=
  let k := s.core c
  if k.phstate.getLsbD 63 then s.setCore c { k with phstate := k.phstate ||| w64 (2 ^ 60) }
  else s.raiseFlag c 2 0x0015 2 eng tix addr data

/-! Nodes and ballots (R282 to R284, R291, R296 to R301). -/

def State.node (s : State) (n : Nat) : Option Node := tabGet s.sched.nodes n
def State.setNode (s : State) (n : Nat) (x : Option Node) : State :=
  { s with sched := { s.sched with nodes := tabPut s.sched.nodes n x } }
/-- Its iterations, by the product of its counts. -/
def Node.total (x : Node) : Nat := x.n.foldl (· * ·) 1
/-- Every iteration has retired or been dropped (R284). -/
def nodeOver (s : State) (id : Nat) (x : Node) : Bool :=
  (x.stopped || (x.ready.isSome && x.nextOrd == x.total)) && x.running == 0
    && s.sched.saved.all (fun v => v.it.node != id)

/-- A record of the scheduler that names ILL_OPERAND for a node. -/
def State.schedRecord (s : State) (ctx node code : Nat) : State :=
  s.report { code := code, sev := 2, src := 8, ctx := some (ctx, node), eng := 7, tix := 0, gstat := 0, addr := none,
             data := none, wher := none }

/-- A node whose counter is 0 becomes ready, or is skipped (R284). -/
def State.makeReady (s : State) (id : Nat) (x : Node) : State :=
  if x.join || x.status = 0 then
    let s := s.setNode id (some { x with counter := 0, ready := some s.sched.readyNo, ep := x.prio, clock := s.gtc })
    { s with sched := { s.sched with readyNo := s.sched.readyNo + 1 } }
  else s.setNode id (some { x with counter := 0, stopped := true, outcome := x.status ||| 4 })

/-- A status word with a predecessor's outcome (R283, R284). -/
def joinStatus (st outcome : Word) (id : Nat) : Word :=
  let o := outcome &&& 7
  if o = 0 then st
  else
    let org := if st = 0 then id else min id (wbits st 27 16)
    ((st ||| o) &&& 7) ||| w64 (org * 65536)

/-- A completed node reaches one successor (R284): a decrement aimed at a node that is not resident, or whose counter
is 0, is dropped with a record (R282, R285). -/
def State.giveNode (s : State) (id ctx : Nat) (outcome : Word) (t : Nat) : State :=
  match s.node t with
  | none => s.schedRecord ctx t (causeCode .illOperand)
  | some x =>
    let x := { x with status := joinStatus x.status outcome id }
    if x.counter = 0 then (s.setNode t (some x)).schedRecord ctx t (causeCode .illOperand)
    else
      let x := { x with counter := x.counter - 1 }
      if x.counter = 0 then s.makeReady t x else s.setNode t (some x)

/-- The seals that operations hold are let go: read counts fall, and a buffer STAGE was filling opens (R131, R209). -/
def State.dropSeals (s : State) (ops : List EOp) : State :=
  let at_ (d : SealDesc) (o : EOp) : Bool := o.sealAt.contains (d.slice, d.off)
  { s with seals := (s.seals.filter (fun d => !(d.staging && ops.any (at_ d)))).map (fun d =>
      { d with count := d.count - ops.countP (at_ d) }) }

/-- The operations of a core's engines. -/
def Core.ops (k : Core) : List EOp := k.mq ++ k.cq ++ k.gq ++ k.xq

/-- Discard the saved iterations a test selects: each writes a record that names PREEMPT, and its frame is free (R36). -/
def State.discardSaved (s : State) (p : Saved → Bool) : State :=
  let gone := s.sched.saved.filter p
  let s := { s with sched := { s.sched with saved := s.sched.saved.filter (fun (v : Saved) => !p v) } }
  gone.foldl (fun s (v : Saved) => (s.dropSeals v.core.ops).schedRecord v.it.ctx v.it.node (causeCode .preempt)) s

/-- Cancel the siblings of a mask (R299): their nodes stop, their saved iterations are discarded, their tasks will
observe it. -/
def State.cancelSibs (s : State) (g mask : Nat) : State :=
  let hit (x : Option (Nat × Nat)) : Bool := match x with | some (a, i) => a == g && mask.testBit i | none => false
  let s := { s with sched := { s.sched with
    nodes := s.sched.nodes.map (fun (e : Nat × Node) =>
      if hit e.2.sib then (e.1, { e.2 with stopped := true, outcome := e.2.outcome ||| 2 }) else e) } }
  let s := s.discardSaved (fun v => hit v.it.sib)
  { s with cores := s.cores.map (fun (k : Core) => match k.iter with
      | some i => if hit i.sib then { k with iter := some { i with cancelled := true } } else k
      | none => k) }

def State.ballot (s : State) (g : Nat) : Option Ballot := tabGet s.sched.ballots g
def State.setBallot (s : State) (g : Nat) (b : Option Ballot) : State :=
  { s with sched := { s.sched with ballots := tabPut s.sched.ballots g b } }
/-- The posts of a ballot. -/
def Ballot.posters (b : Ballot) : List Nat := (List.range 16).filter (fun i => b.posted.testBit i)
def Ballot.hashOf (b : Ballot) (i : Nat) : Word := b.hash.getD i 0
/-- The first poster of a hash: the lower PGTC, then the lower index (R298). -/
def Ballot.before (b : Ballot) (i j : Nat) : Bool :=
  (b.pgtc.getD i 0).toNat < (b.pgtc.getD j 0).toNat || ((b.pgtc.getD i 0) == (b.pgtc.getD j 0) && i < j)
def Ballot.firstOf (b : Ballot) (h : Word) : Nat :=
  ((b.posters.filter (fun i => b.hashOf i == h)).foldl (fun (r : Option Nat) i =>
    match r with | some j => if b.before i j then some i else some j | none => some i) none).getD 0
def Ballot.count (b : Ballot) (h : Word) : Nat := (b.posters.filter (fun i => b.hashOf i == h)).length
/-- The winner when no hash has a quorum: the most posts, then the earlier first post (R298). -/
def Ballot.leader (b : Ballot) : Option Nat :=
  b.posters.foldl (fun (r : Option Nat) i =>
    let f := b.firstOf (b.hashOf i)
    match r with
    | none => some f
    | some j =>
      let (x, y) := (b.count (b.hashOf f), b.count (b.hashOf j))
      if y < x || (x == y && b.before f j) then some f else some j) none

/-- Close a ballot (R298, R301): RESULT, the winner, and every unfinished sibling is cancelled in the same step. -/
def State.closeBallot (s : State) (g : Nat) (b : Ballot) (win : Option Nat) (majority : Bool) : State :=
  let full := 2 ^ b.size - 1
  let lost := full - (b.fin % 2 ^ b.size)
  let b := { b with
    closed := true, closeGtc := s.gtc, fin := full, cancelled := b.cancelled ||| lost,
    result := (match win with | some _ => if majority then 1 else 2 | none => 3),
    whash := (match win with | some i => b.hashOf i | none => 0), widx := win.getD 0 }
  (s.setBallot g (some b)).cancelSibs g lost

/-- A sibling finishes (R298); when all have, the ballot closes. -/
def State.sibFinish (s : State) (g i : Nat) : State :=
  match s.ballot g with
  | none => s
  | some b =>
    if b.closed then s
    else
      let b := { b with fin := b.fin ||| 2 ^ i }
      if b.fin % 2 ^ b.size = 2 ^ b.size - 1 then s.closeBallot g b b.leader false else s.setBallot g (some b)

/-- A node completes (R284): it leaves, its successors receive its outcome, and a LAST node finishes its sibling. -/
def State.endNode (s : State) (id : Nat) (x : Node) : State :=
  let s := s.setNode id none
  let s := x.succs.foldl (fun s t => s.giveNode id x.ctx x.outcome t) s
  match x.sib with
  | some (g, i) => if x.last then s.sibFinish g i else s
  | none => s

/-- End nodes until none is over. -/
def settleNodes : Nat → State → State
  | 0, s => s
  | n + 1, s =>
    match s.sched.nodes.find? (fun e => nodeOver s e.1 e.2) with
    | some (id, x) => settleNodes n (s.endNode id x)
    | none => s
def State.settleSched (s : State) : State := settleNodes s.sched.nodes.length s

/-- Charge a sibling with core cycles, unit cycles and bytes until its release (R300, R301). -/
def State.charge (s : State) (sib : Option (Nat × Nat)) (cyc unit bytes : Nat) : State :=
  match sib with
  | none => s
  | some (g, i) =>
    match s.ballot g with
    | none => s
    | some b =>
      if b.released.testBit i then s
      else
        let add (l : List Nat) (n : Nat) : List Nat := setNth l i (min (2 ^ 64 - 1) (l.getD i 0 + n))
        s.setBallot g (some { b with
          coreCyc := add b.coreCyc cyc, unitCyc := add b.unitCyc unit, bytes := add b.bytes bytes })

/-! Ending an iteration. -/

/-- End a core's part in its array lease (R28). -/
def State.dropLease (s : State) (c : CoreId) : State :=
  let a := s.cluster (clusterOf c)
  if a.holder == some (BitVec.ofNat 2 (positionOf c)) then
    s.setCluster (clusterOf c) { a with holder := none, last := BitVec.ofNat 2 (positionOf c), idle := none }
  else s

/-- Close the task mode's five staging slots (R104). -/
def closeSlots (v : Vector Slot 10) : Vector Slot 10 := Vector.ofFn (fun i => if i.val < 5 then Slot.reset else v[i])

/-- The operations that have started: they end at their next element boundary, without a token (R134). -/
def cutOps (q : List EOp) : List EOp :=
  (q.filter (·.started)).map (fun o => { o with cut := true, noTok := true, tokStart := none })

/-- What leaves a core when its iteration ends early: everything not yet started, and the values its loads still owe.
Stores already issued stand (R134). -/
def dropWork (k : Core) : Core :=
  { k with vq := [], mq := cutOps k.mq, cq := cutOps k.cq, gq := cutOps k.gq, xq := cutOps k.xq, wait := none, busyS := [],
           groups := [], landing := k.landing.filter (fun l => !l.vec), pend := k.pend.filter (fun a => match a.op with | .load => false | _ => true),
           tok := Vector.replicate 8 0, rsv := Vector.replicate 8 0, held := 0, took := 0, slots := closeSlots k.slots,
           deferred := [] }

/-- The SAFEs a unit has executed in a BEXEC. -/
def safesOf (s : State) (j : Nat) (n : Nat) : Nat :=
  match (tabGet s.banks.units n).bind (·.run) with
  | some r => if r.job == j then r.safes else 0
  | none => 0
/-- Ask the running BEXECs of a core to stop at the collective SAFE (R268, R269), and start the watchdog (R270). -/
def State.stopJobs (s : State) (c : CoreId) (keep : Bool) : State :=
  { s with banks := { s.banks with jobs := s.banks.jobs.map (fun j =>
      if j.core == c && j.stop.isNone then
        { j with stop := some (1 + (j.units.map (safesOf s j.job)).foldl max 0, s.gtc), keep := keep }
      else j) } }

/-- Everything of a core that ends with its iteration: queues, held accesses, the lease; what runs is asked to stop (R134). -/
def State.dropTask (s : State) (c : CoreId) : State :=
  let s := (s.stopJobs c false).modCore c dropWork
  let s := { s with homeQ := s.homeQ.filter (fun a => !(a.core == c && (a.waiting.isSome || a.op == AccOp.load))) }
  s.dropLease c

/-- The resident iteration retires, and its node with its last one (R284, R285). END withdraws a migration request
(R295). -/
def State.retire (s : State) (c : CoreId) (how : Ending) : State :=
  let k := s.core c
  match k.iter with
  | none => s
  | some i =>
    let s := s.charge i.sib (2 * (s.gtc.toNat - i.since.toNat)) 0 0
    let s := s.setCore c { k with
      iter := none, lastCtx := some i.ctx, handler := false, preReq := none, migReq := k.migReq && how != .done }
    let s := match s.node i.node with
      | some x => s.setNode i.node (some { x with
          running := x.running - 1,
          outcome := x.outcome ||| (match how with | .done => 0 | .killed => 2 | .faulted => 1) })
      | none => s
    s.settleSched

/-- Abandonment (R134): the work is dropped, the lease and the tokens go, the iteration retires. -/
def State.abandon (s : State) (c : CoreId) : State := (s.dropTask c).retire c .killed

/-- The iteration faults without a record of its own. -/
def State.endFault (s : State) (c : CoreId) : State := (s.dropTask c).retire c .faulted

/-- The iteration faults: an error record names the cause and the join status receives FAULTED (R151). -/
def State.faultIter (s : State) (c : CoreId) (x : Cause) (tval : Word) : State :=
  (s.reportCause c x tval.toNat).endFault c

/-! Taking an exception and returning from one (R35, R36, R151, R185). -/

/-- The place that the instruction S waits in has reserved is free again. -/
def Core.freeHeld (k : Core) : Core :=
  if k.held = 0 then k
  else { k with rsv := k.rsv.set k.held.toNat (k.rsv[k.held.toNat]'k.held.isLt - 1) k.held.isLt, held := 0 }
/-- The instruction that S waits in ends without effect: its place is free again, and the token it popped is back. -/
def Core.letGo (k : Core) : Core :=
  let k := k.freeHeld
  if k.took = 0 then k
  else { k with tok := k.tok.set k.took.toNat (k.tok[k.took.toNat]'k.took.isLt + 1) k.took.isLt, took := 0 }

/-- Enter handler mode: TCAUSE, TEPC and TVAL are written and the pc goes to TVEC. With TVEC = 0, or in handler mode,
the iteration faults instead. DEDUCED (log 16). -/
def State.takeTrap (s : State) (c : CoreId) (x : Cause) (deferred : Bool) (epc tval : Word) : State :=
  let s := if x = .phaseExhausted then s.bump 6 else s
  let k := s.core c
  if k.handler || k.tvec == 0 then s.faultIter c x tval
  else
    s.setCore c { k.letGo with
      tcause := w64 (causeCode x + (if deferred then 256 else 0)), tepc := epc, tval := tval,
      handler := true, pc := k.tvec, wait := none }

/-- A precise trap of the instruction at pc: no effect of it is visible (R35). -/
def State.trapNow (s : State) (c : CoreId) (x : Cause) (tval : Word) : State :=
  s.takeTrap c x false (s.core c).pc tval

/-- A precise trap whose cause has neither a faulting address nor a faulting operand: TVAL is a free value (R35). DEDUCED (log 16). -/
def State.trapFree (s : State) (c : CoreId) (x : Cause) : State :=
  let v := s.freshWord
  v.2.trapNow c x v.1

/-- The return from a trap: the pc comes from TEPC and the core is in task mode (R151). -/
def Core.returnFromTrap (k : Core) : Core := { k with pc := k.tepc, handler := false }

end Sys2Proof.Machine
end

