-- ==== Sys2Proof/Machine/Operands.lean ====
section
/-! DEFINITION. Operand forms: the address spaces of R32, range translation (R34), the windows (R27), home nodes (R4,
R348), CheckAccess (R120), and the parts an access is performed in (R121, R172). -/

namespace Sys2Proof.Machine

open Sys2Proof

/-- What an access does to the bytes it names. -/
inductive Perm where
  | r | w | rw | x
  deriving DecidableEq, Repr

/-- The place, class and grain of one byte; denied is a byte whose range lacks the permission, beyond a window byte
that reads zero (R27). -/
inductive ByteAt where
  | ok (l : Loc) (cls gr : Nat)
  | denied (cls gr : Nat)
  | beyond
  | bad (x : Cause)
  deriving DecidableEq, Repr

def Loc.plus : Loc → Nat → Loc
  | .ia a, n => .ia (a + n)
  | .spad c o, n => .spad c (o + n)
  | .stg sl o, n => .stg sl (o + n)
  | .heap x o, n => .heap x (o + n)

/-- One number for every place, so that overlap and grains are arithmetic. -/
def Loc.key : Loc → Nat
  | .ia a => a
  | .spad c o => 2 ^ 56 + c * 2 ^ 20 + o
  | .stg sl o => 2 ^ 57 + sl * 2 ^ 23 + o
  | .heap x o => 2 ^ 64 + x * 2 ^ 20 + o

def devNat (s : State) : Nat := if s.devnum then 1 else 0

/-- The home-node checks of R4, R34 and R348 on an IA, for a range of class cls. DEDUCED (log 17). -/
def locOfIa (s : State) (ia cls : Nat) : Option Loc :=
  let peerOk (d : Nat) : Bool := d == devNat s || s.bridge.up
  let low := ia % 2 ^ 48
  match ia / 2 ^ 48 with
  | 0 => if peerOk 0 then some (.ia ia) else none
  | 1 => if peerOk 1 then some (.ia ia) else none
  | 4 =>
    let d := bits low 26 26
    let l := bits low 25 20
    let o := bits low 19 0
    if low / 2 ^ 27 ≠ 0 || !peerOk d then none
    else if d == devNat s then (if o < spadSize (s.core (s.byLid l)) then some (.spad l o) else none)
    else some (.ia ia)
  | 5 =>
    let d := bits low 29 29
    let sl := bits low 28 24
    let o := bits low 22 0
    if low / 2 ^ 30 ≠ 0 || bits low 23 23 ≠ 0 || !peerOk d then none
    else if d == devNat s then (if o < stgSize s sl then some (.stg sl o) else none)
    else some (.ia ia)
  | 8 => some (.ia ia)
  | 15 =>
    if cls ≠ 0 || low / 2 ^ 30 ≠ 0 || bits low 28 24 ≠ 0 || !peerOk (bits low 29 29) then none else some (.ia ia)
  | _ => none

/-- The lowest-numbered valid range that holds a VA (R34). -/
def rangeOf (k : Core) (va : Nat) : Option Range :=
  k.range.toList.find? (fun r => r.w3.getLsbD 0 && wbits r.w0 55 16 ≤ va / 65536 && va / 65536 < wbits r.w1 55 16)

def rangePerm (r : Range) : Perm → Bool
  | .r => r.w3.getLsbD 1
  | .w => r.w3.getLsbD 2
  | .rw => r.w3.getLsbD 1 && r.w3.getLsbD 2
  | .x => r.w3.getLsbD 3

/-- The IA a range gives a VA (R34). One beyond 2^52 wraps. DESIGN CHOICE (log 62). -/
def rangeIa (r : Range) (va : Nat) : Nat := (va - wbits r.w0 55 16 * 65536 + wbits r.w2 51 16 * 65536) % 2 ^ 52

/-- Translate one byte of a global access; heap marks a reference instruction, which alone may name an MH range
(R83). DESIGN CHOICE (log 62). -/
def byteGlobal (s : State) (k : Core) (va : Nat) (pm : Perm) (heap : Bool) : ByteAt :=
  if va ≥ 2 ^ 56 then .bad .rangeFault
  else match rangeOf k va with
    | none => .bad .rangeFault
    | some r =>
      let cls := wbits r.w3 9 7
      match locOfIa s (rangeIa r va) cls with
      | none => .bad .rangeFault
      | some l =>
        if !rangePerm r pm || (cls == 4 && !heap) then .denied cls (wbits r.w3 11 10) else .ok l cls (wbits r.w3 11 10)

/-- The window bytes of R27 at window n and offset o. -/
def byteWindow (s : State) (k : Core) (n o : Nat) : ByteAt :=
  let (w0, w1) := k.win[n]?.getD (0, 0)
  if !w1.getLsbD 63 then .bad .windowUnbound
  else if o ≥ wbits w1 20 0 then .beyond
  else byteGlobal s k (wbits w0 55 0 + o) .r false

/-- Byte i of an access at ea in a space (R32). -/
def byteAt (s : State) (k : Core) (space : Nat) (ea : Word) (i : Nat) (pm : Perm) (heap : Bool) : ByteAt :=
  let a := ea.toNat + i
  match space with
  | 0 => if ea.toNat ≥ 2 ^ 56 then .bad .rangeFault else byteGlobal s k a pm heap
  | 1 => if a < spadSize k then .ok (.spad k.lid.toNat a) 1 0 else .bad .rangeFault
  | 2 =>
    let l := bits ea.toNat 25 20
    let o := ea.toNat % 2 ^ 20 + i
    if ea.toNat ≥ 2 ^ 26 || o ≥ spadSize (s.core (s.byLid l)) then .bad .rangeFault else .ok (.spad l o) 1 0
  | 3 =>
    let sl := bits ea.toNat 28 24
    let o := ea.toNat % 2 ^ 23 + i
    if ea.toNat ≥ 2 ^ 29 || bits ea.toNat 23 23 ≠ 0 || o ≥ stgSize s sl then .bad .rangeFault else .ok (.stg sl o) 1 0
  | _ =>
    if pm != Perm.r then .bad .permFault
    else if ea.toNat ≥ 2 ^ 23 then
      (match byteWindow s k (bits ea.toNat 22 20) (2 ^ 20) with | .bad x => .bad x | _ => .beyond)
    else byteWindow s k (bits ea.toNat 22 20) (ea.toNat % 2 ^ 20 + i)

/-- The seal descriptor that holds a staging byte (R131). -/
def sealOf (s : State) (sl o : Nat) : Option SealDesc :=
  s.seals.find? (fun d => d.slice == sl && d.off ≤ o && o < d.off + d.len)

def sealedByte (s : State) : Loc → Bool
  | .stg sl o => (sealOf s sl o).isSome
  | _ => false

/-- A translated byte: its position in the access, its place, class and grain. -/
structure AtByte where
  pos : Nat
  loc : Loc
  cls : Nat
  gr : Nat
  deriving DecidableEq, Repr

/-- CheckAccess of R120: the bytes, with those beyond a window left out, or the first fault in the order of R35. -/
inductive Checked where
  | ok (bytes : List AtByte) (beyond : Bool)
  | bad (x : Cause)
  deriving DecidableEq, Repr

/-- The place of a fault in the order of R35. -/
def causeRank : Cause → Nat
  | .illOp => 1 | .illField => 2 | .illOperand => 3 | .misaligned => 4 | .windowUnbound => 5 | .rangeFault => 6
  | .permFault => 7 | .sealedWrite => 8 | _ => 9

/-- The fault of one byte. -/
def ByteAt.fault : ByteAt → Option Cause
  | .bad x => some x
  | .denied .. => some .permFault
  | _ => none

/-- The first of two faults in the order of R35; COPY_OVERLAP and the rest come last (R184). DEDUCED (log 25). -/
def firstCause : Option Cause → Option Cause → Option Cause
  | some x, some y => if causeRank y < causeRank x then some y else some x
  | some x, none => some x
  | none, y => y

/-- The first fault among bytes. -/
def worst : List ByteAt → Option Cause
  | [] => none
  | b :: t => firstCause b.fault (worst t)

/-- The class and grain of the range a byte lies in. -/
def ByteAt.kind? : ByteAt → Option (Nat × Nat)
  | .ok _ cls gr | .denied cls gr => some (cls, gr)
  | _ => none

def okBytes : List (Nat × ByteAt) → List AtByte
  | [] => []
  | (i, .ok l cls gr) :: t => { pos := i, loc := l, cls := cls, gr := gr } :: okBytes t
  | _ :: t => okBytes t

/-- Whether all bytes lie in one class and one grain (R34). -/
def oneClass (l : List ByteAt) : Bool :=
  match l.filterMap ByteAt.kind? with
  | [] => true
  | b :: t => t.all (· == b)

/-- Check translated bytes against R34, R83 and R131. -/
def checkBytes (s : State) (l : List (Nat × ByteAt)) (pm : Perm) : Checked :=
  let bytes := okBytes l
  let cause := worst (l.map (·.2))
  let cause := if oneClass (l.map (·.2)) then cause else firstCause (some .rangeFault) cause
  let cause := match cause with
    | none => if (pm == Perm.w || pm == Perm.rw) && bytes.any (fun b => sealedByte s b.loc) then some Cause.sealedWrite else none
    | x => x
  match cause with
  | some x => .bad x
  | none => .ok bytes (l.any (fun b => b.2 == ByteAt.beyond))

/-- CheckAccess for the selected positions below n of an access at ea. -/
def checkAccess (s : State) (c : CoreId) (space : Nat) (ea : Word) (sel : List Nat) (pm : Perm) (heap : Bool := false) :
    Checked :=
  checkBytes s (sel.map (fun i => (i, byteAt s (s.core c) space ea i pm heap))) pm

/-- One part of an access: position, place, length, class, grain. -/
structure Part where
  pos : Nat
  loc : Loc
  len : Nat
  cls : Nat
  gr : Nat
  deriving DecidableEq, Repr

/-- Join the bytes of one unit of the access, over those left out between them (R172). -/
def partsOf (unit : Nat) : List AtByte → List Part
  | [] => []
  | b :: t =>
    match partsOf unit t with
    | [] => [{ pos := b.pos, loc := b.loc, len := 1, cls := b.cls, gr := b.gr }]
    | q :: u =>
      if b.loc.plus (q.pos - b.pos) == q.loc && b.pos / unit == q.pos / unit && b.cls == q.cls && b.gr == q.gr
      then { q with pos := b.pos, loc := b.loc, len := q.pos - b.pos + q.len } :: u
      else { pos := b.pos, loc := b.loc, len := 1, cls := b.cls, gr := b.gr } :: q :: u

/-- The parts of a scalar access: one when it is naturally aligned and at most 8 bytes, single bytes otherwise
(R121). -/
def scalarParts (ea : Word) (n : Nat) (l : List AtByte) : List Part :=
  partsOf (if ea.toNat % n == 0 then 8 else 1) l

/-- The parts of a 256-byte vector access: aligned words when ea is a multiple of 8, single bytes otherwise (R172). -/
def vectorParts (ea : Word) (l : List AtByte) : List Part :=
  partsOf (if ea.toNat % 8 == 0 then 8 else 1) l

/-- The bytes of a load size code and a store size code (R119). -/
def sizeBytes (code : Nat) : Nat := match code with | 0 | 4 => 1 | 1 | 5 => 2 | 2 | 6 => 4 | _ => 8

/-- Extend loaded bytes by the load size code (R119). -/
def extendLoad (code : Nat) (b : List Byte) : Word :=
  let n := sizeBytes code
  let v := leNat (b.take n)
  if 4 ≤ code ∧ code ≤ 6 then BitVec.ofInt 64 (toS (8 * n) v) else w64 v

/-- Sign extension of the offset of class M and VM. -/
def offW (w : Fields) : Word := se20 w.imm

end Sys2Proof.Machine
end

