-- ==== Sys2Proof/Machine/Memory.lean ====
section
/-! DEFINITION. Device memory behind an IA: the page tables (R350, R351), where a page word lies in its frame (R311),
views of compute-capable pages (R314, R315), and reading and writing bytes with their poison and erasure (R255, R373). -/

namespace Sys2Proof.Machine

open Sys2Proof

/-- The byte of frame base, bank group u, quarter word q, in bank mode bm (R311). Banks follow one another by bank
group, rows by bank, words by column. -/
def quarterKey (frame bm u q : Nat) : Nat :=
  let b := if bm = 0 then q / 2048 else q / 32 % 4
  let r := if bm = 0 then q / 32 % 64 else q / 128
  frame + 64 * (((u * 4 + b) * 64 + r) * 32 + q % 32)

/-- The unit and the quarter word of page word w at interleave shift g (R311). -/
def unitOf (g w : Nat) : Nat := w / 2 ^ g % 4
def quarterOf (g w : Nat) : Nat := w / 2 ^ (g + 2) * 2 ^ g + w % 2 ^ g
/-- The inverse of R311. -/
def pageWordOf (g u q : Nat) : Nat := q / 2 ^ g * 2 ^ (g + 2) + u * 2 ^ g + q % 2 ^ g

/-- Fields of a stripe descriptor (R310). -/
def dFmt (d : Word) : Nat := wbits d 61 60
def dNu (d : Word) : Nat := wbits d 59 58
def dG (d : Word) : Nat := wbits d 57 54
def dBm (d : Word) : Nat := wbits d 53 53
def dKu (d : Word) : Nat := wbits d 52 41
def dNblk (d : Word) : Nat := wbits d 40 28
def dShofs (d : Word) : Nat := wbits d 27 15
/-- DW32 of R312. -/
def dDw (d : Word) : Nat := match dFmt d with | 0 => 32 | 1 => 24 | _ => 16
/-- The words of one block of one unit (R312). -/
def dBw (d : Word) : Nat := dKu d * (dDw d + 1)

/-- Fields of a leaf (R351). -/
def lV (l : Leaf) : Bool := l.w0.getLsbD 63
def lCc (l : Leaf) : Bool := l.w0.getLsbD 61
def lPin (l : Leaf) : Bool := l.w0.getLsbD 60
def lMig (l : Leaf) : Bool := l.w0.getLsbD 59
def lView (l : Leaf) : Bool := l.w0.getLsbD 58
def lTier (l : Leaf) : Nat := wbits l.w0 57 56
def lKey (l : Leaf) : Nat := wbits l.w0 55 51
def lBig (l : Leaf) : Bool := l.w0.getLsbD 48
def lAddr (l : Leaf) : Nat := wbits l.w0 47 16 * 65536
/-- The bytes of a leaf's page. -/
def lSize (l : Leaf) : Nat := if lBig l then 2 ^ 21 else 2 ^ 16

/-- The leaf that maps an IA's low 48 bits, with the number of its first 64 KiB (R350). -/
def leafOf (s : State) (ia : Nat) : Option (Nat × Leaf) :=
  let n := ia % 2 ^ 48 / 65536
  match tabGet s.xlat.pages n with
  | some l => if lV l && (!lBig l || n % 32 == 0) then some (n, l) else none
  | none =>
    match tabGet s.xlat.pages (n / 32 * 32) with
    | some l => if lV l && lBig l then some (n / 32 * 32, l) else none
    | none => none

/-- The place of a byte of device memory at byte offset o of a page whose frame bytes start at pa, under a stripe
descriptor for a CC page and G = 0, BM = 1 for every other one (R349). -/
def frameKey (pa o : Nat) (d : Option Word) : Nat :=
  let b := pa % 2 ^ 21 + o
  let w := b / 64
  let (g, bm) := match d with | some d => (dG d, dBm d) | none => (0, 1)
  quarterKey (pa / 2 ^ 21 * 2 ^ 21) bm (unitOf g w) (quarterOf g w) + b % 64

/-- The page offset of quarter word q of bank group u under a stripe descriptor (R311). -/
def planeOff (d : Word) (u q : Nat) : Nat := 64 * pageWordOf (dG d) u q

/-- The single bits a view byte of an L6 or L4 page is made of: page offset of the plane byte, and bit (R314). -/
def viewBits (d : Word) (u i r' x base : Nat) : List (Nat × Nat) :=
  let cw := if dFmt d = 1 then 6 else 4
  (List.range 8).map (fun t =>
    let p := 8 * (x - 1) + t
    let k := 32 * r' + p / cw
    let bb := p % cw
    if dFmt d = 1 then
      let z := 24 * i + 6 * (k % 4) + bb
      (planeOff d u (base + 3 * (k / 4) + z / 512) + z / 8 % 64, z % 8)
    else (planeOff d u (base + k / 2) + i, 4 * (k % 2) + bb))

/-- What a view byte stands for (R314), by page offsets of the CC page: one plane byte, bits of plane bytes, or nothing
beyond the matrix. -/
inductive ViewByte where
  | beyond
  | byte (o : Nat)
  | bits (l : List (Nat × Nat))
  deriving DecidableEq, Repr

/-- Records of a row, bytes of a record, bytes of a row (R314). -/
def dNr (d : Word) : Nat := dKu d * 2 ^ dNu d
def dRs (d : Word) : Nat := match dFmt d with | 0 => 33 | 1 => 25 | _ => 17
def dRow (d : Word) : Nat := dNr d * dRs d

def viewByte (d : Word) (v : Nat) : ViewByte :=
  let nr := dNr d
  let rs := dRs d
  if v ≥ 64 * dNblk d * nr * rs then .beyond
  else
    let g := v / (nr * rs)
    let r := v / rs % nr
    let x := v % rs
    let i := g % 64
    let u := r / dKu d
    let r' := r % dKu d
    let base := dShofs d + g / 64 * dBw d
    if x = 0 then .byte (planeOff d u (base + dKu d * dDw d + r') + i)
    else if dFmt d = 0 then .byte (planeOff d u (base + 32 * r' + (x - 1)) + i)
    else .bits (viewBits d u i r' x base)

/-- The page offsets a view byte touches. -/
def ViewByte.offs : ViewByte → List Nat
  | .beyond => []
  | .byte o => [o]
  | .bits l => l.map (·.1)

/-! Bytes of device memory. -/

/-- The page offset of a place of device memory inside its 2 MiB frame: the inverse of the map of plain pages (R311). -/
def plainOff (key : Nat) : Nat :=
  let x := key % 2 ^ 21 / 64
  let q := x / 32 % 64 * 128 + x / 2048 % 4 * 32 + x % 32
  64 * (4 * q + x / 8192) + key % 64

/-- The number of the 64 KiB frame a place lies in, of which an erasure is recorded (R349, R373). -/
def frameOf (key : Nat) : Nat := key / 2 ^ 21 * 32 + plainOff key / 65536

/-- The erasure that a place has suffered. DESIGN CHOICE (log 11). -/
def erasureOf (s : State) (key : Nat) : Option Nat :=
  if key < 2 ^ 46 then (match tabGet s.xlat.erased (frameOf key) with | some n => some n | none => s.xlat.wiped) else none

/-- DEDUCED (log 34). -/
def isPoison (s : State) (key : Nat) : Bool := (key < 2 ^ 46 || hostBase ≤ key) && setHas s.poison (key / 64)

/-- The latest byte a write-through queue holds for a place. DEDUCED (log 30). -/
def wtqGet : List Host.Cell → Nat → Option Byte
  | [], _ => none
  | (a, b) :: t, k => match wtqGet t k with | some x => some x | none => if a == k then some b else none

/-- The byte in the rows. A poisoned word, and a word whose key was erased, hold free bytes. DESIGN CHOICE (log 11). -/
def rowByte (s : State) (key : Nat) : Byte :=
  if isPoison s key then Config.erasedByte key (2 * s.free + 1)
  else match erasureOf s key with
    | some n => if setHas s.xlat.rewritten key then memGet s.mem key else Config.erasedByte key (2 * n)
    | none => memGet s.mem key

/-- The byte as its home gives it: the write-through queue first (R266). -/
def homeByte (s : State) (key : Nat) : Byte := (wtqGet s.wtq key).getD (rowByte s key)

/-- Store a byte in the rows. DEDUCED (log 30). -/
def State.putRow (s : State) (key : Nat) (b : Byte) : State :=
  { s with mem := memSet s.mem key b,
           xlat := if (erasureOf s key).isSome then
               { s.xlat with rewritten := setAdd s.xlat.rewritten key } else s.xlat }

/-- Store a byte at its home; bytes of a CC page go through the write-through queue (R266). -/
def State.putHome (s : State) (cc : Bool) (key : Nat) (b : Byte) : State :=
  if cc then { s with wtq := s.wtq ++ [(key, b)] } else s.putRow key b

def State.putAll (s : State) (cc : Bool) : List Nat → List Byte → State
  | k :: ks, b :: bs => (s.putHome cc k b).putAll cc ks bs
  | _, _ => s

/-- A queued write of the word of a place has not reached its row: a read that the bank serves waits for it (R275). -/
def behindWrite (s : State) (key : Nat) : Bool := s.wtq.any (fun c => c.1 / 64 == key / 64)
/-- Store bytes that a running program does not hold (R265): they reach the rows, behind queued writes of their word. -/
def State.putOrdered (s : State) : List Nat → List Byte → State
  | k :: ks, b :: bs => (s.putHome (behindWrite s k) k b).putOrdered ks bs
  | _, _ => s

/-! What a walk finds. -/

/-- The outcome of translating the bytes of an access at its home (R351 to R358). -/
inductive PageRes where
  /-- The places of the bytes; cc says that they lie on a compute-capable page. -/
  | keys (l : List Nat) (cc : Bool)
  /-- View bytes, with the CC page's number and leaf. -/
  | view (l : List ViewByte) (page : Nat) (leaf : Leaf)
  | fault
  | mig
  /-- The first store to a page with a replica (R357). -/
  | collapse (page : Nat)
  deriving DecidableEq, Repr

/-- The places of page offsets of a page that is no view (R349, R351). -/
def leafKeys (l : Leaf) (os : List Nat) : List Nat :=
  match lTier l with
  | 0 => os.map (fun o => frameKey (lAddr l) o (if lCc l then some l.w1 else none))
  | 2 => os.map (fun o => frameKey (wbits l.w1 45 16 * 65536) o none)
  | _ => os.map (fun o => hostBase + (lAddr l + o) % 2 ^ 48)

/-- A migration or an UNMAP holds the accesses of a page (R352, R358). -/
def pageBusy (s : State) (n : Nat) (l : Leaf) : Bool := lMig l || s.xlat.leaving.contains n

def pageKeys (s : State) (ia len : Nat) (write : Bool) : PageRes :=
  match leafOf s ia with
  | none => .fault
  | some (n, l) =>
    let o := ia % 2 ^ 48 - n * 65536
    let os := (List.range len).map (· + o)
    if pageBusy s n l then .mig
    else if lView l then
      match leafOf s (wbits l.w1 51 21 * 2 ^ 21) with
      | some (n, cl) =>
        if pageBusy s n cl then .mig else if lCc cl then .view (os.map (viewByte cl.w1)) n cl else .fault
      | none => .fault
    else match lTier l with
      | 0 => .keys (leafKeys l os) (lCc l)
      | 1 => .keys (leafKeys l os) false
      | 2 => if write then .collapse n else .keys (leafKeys l os) false
      | _ => .fault

/-- The place of a page offset of a CC page. -/
def ccKey (l : Leaf) (o : Nat) : Nat := frameKey (lAddr l) o (some l.w1)

/-- The number whose bits are given, least first. -/
def packBool : List Bool → Nat
  | [] => 0
  | b :: t => (if b then 1 else 0) + 2 * packBool t

/-- The value of a view byte. -/
def viewRead (s : State) (l : Leaf) : ViewByte → Byte
  | .beyond => 0
  | .byte o => homeByte s (ccKey l o)
  | .bits bs => BitVec.ofNat 8 (packBool (bs.map (fun ob => (homeByte s (ccKey l ob.1)).getLsbD ob.2)))

/-- Set one bit of a plane byte. -/
def State.putBit (s : State) (key bit : Nat) (b : Bool) : State :=
  let v := homeByte s key
  let m := BitVec.ofNat 8 (2 ^ bit)
  s.putHome true key (if b then v ||| m else v &&& ~~~m)

/-- Write a view byte bit for bit (R314). -/
def State.putView (s : State) (l : Leaf) (d : Byte) : ViewByte → State
  | .beyond => s
  | .byte o => s.putHome true (ccKey l o) d
  | .bits bs => ((List.range 8).zip bs).foldl (fun s x => s.putBit (ccKey l x.2.1) x.2.2 (d.getLsbD x.1)) s

/-- Count a home access that reached a HOST-tier page's backing, saturating at 255 (R351). DEDUCED (log 19). -/
def countAccess (s : State) (ia : Nat) (write : Bool) : State :=
  match leafOf s ia with
  | some (n, l) =>
    if lTier l == 1 then
      let lo := if write then 0 else 8
      let v := wbits l.w1 (lo + 7) lo
      let l' := { l with w1 := w64 (setBits l.w1.toNat (lo + 7) lo (min 255 (v + 1))) }
      { s with xlat := { s.xlat with pages := tabSet s.xlat.pages n l' } }
    else s
  | none => s

/-- The first fault on a page after it was last valid writes one record (R353); so does the first on a heap object
without frames, which has no IA: its ADDR is a free value (R227). DEDUCED (log 43). -/
def State.noteFault (s : State) (ia : Nat) (ctx : Option (Nat × Nat)) (access : Nat) : State :=
  let n := (if ia < 2 ^ 56 then ia % 2 ^ 48 else ia) / 65536
  if setHas s.xlat.faulted n then s
  else
    let s := { s with xlat := { s.xlat with faulted := setAdd s.xlat.faulted n } }
    s.report { code := 0x0A, sev := 2, src := 10, ctx := ctx, eng := 7, tix := 0, gstat := 0, addr := if ia < 2 ^ 56 then some ia else none,
               data := some (Config.accessKind access), wher := none }

end Sys2Proof.Machine
end

