-- ==== Sys2Proof/Machine/Heap.lean ====
section
/-! DEFINITION. The managed heap (R218 to R221, R227 to R231, R239, R240): object-table entries, resolving a byte,
first touch, and the arenas of the slots. -/

namespace Sys2Proof.Machine

open Sys2Proof

/-! Slots and their arenas. -/

/-- Segments of one layer, head group and half (R229). -/
def nseg (bkt : Nat) : Nat := 32 * 8 ^ bkt
/-- Positions of a bucket. -/
def bucketSize (bkt : Nat) : Nat := 64 * nseg bkt
/-- The number of segments of a slot's arena. -/
def SlotDesc.segs (d : SlotDesc) : Nat := (d.nlm1 + 1) * (d.nhgm1 + 1) * 2 * nseg d.bkt
/-- The object id of the first segment of a layer, head group and half (R229). -/
def SlotDesc.segId (d : SlotDesc) (layer hg kv : Nat) : Nat :=
  d.idbase + ((layer * (d.nhgm1 + 1) + hg) * 2 + kv) * nseg d.bkt
/-- Chunks of a segment: ⌈4,224·DW / 512⌉. -/
def segChunks (dw : Nat) : Nat := (4224 * dw + 511) / 512

def SlotDesc.free : SlotDesc :=
  { st := .free, bkt := 0, dw := 0, ctx := 0, nlm1 := 0, nhgm1 := 0, idbase := 0, hlen := 0, len := 0, appends := [],
    awaited := [], floor := 0 }
def State.slot (s : State) (n : Nat) : SlotDesc := (tabGet s.heap.slots n).getD SlotDesc.free
def State.setSlot (s : State) (n : Nat) (d : SlotDesc) : State :=
  { s with heap := { s.heap with slots := if d = SlotDesc.free then tabDel s.heap.slots n else tabSet s.heap.slots n d } }

/-! Objects. -/

def objKey (ctx id : Nat) : Nat := 2 ^ 40 * ctx + id
def Obj.zero : Obj :=
  { st := .absent, size := 0, base := 0, busy := false, prog := 0, newBase := 0, owner := 0, arena := false, target := 0,
    rc := 0, pin := 0 }
/-- The open slot whose arena holds an object. DESIGN CHOICE (log 10). -/
def arenaSlot (s : State) (key : Nat) : Option (Nat × SlotDesc) :=
  s.heap.slots.find? (fun e => e.2.st != .free && objKey e.2.ctx e.2.idbase ≤ key
    && key < objKey e.2.ctx e.2.idbase + e.2.segs)
/-- An object's entry: an untouched segment of an open slot is ABSENT with one reference (R229). -/
def State.obj (s : State) (key : Nat) : Obj :=
  match tabGet s.heap.objs key with
  | some o => o
  | none =>
    match arenaSlot s key with
    | some (n, d) => { Obj.zero with size := segChunks d.dw, owner := n, arena := true, rc := 1 }
    | none => Obj.zero
def State.setObj (s : State) (key : Nat) (o : Obj) : State :=
  { s with heap := { s.heap with objs := tabSet s.heap.objs key o } }
/-- Clear an entry to all zeros. -/
def State.clearObj (s : State) (key : Nat) : State :=
  if (arenaSlot s key).isSome then s.setObj key Obj.zero else { s with heap := { s.heap with objs := tabDel s.heap.objs key } }

/-- The IA of byte b, none while its chunk is BUSY (R221). -/
def Obj.place (o : Obj) (b : Nat) : Option Nat :=
  if o.st = .relocating then
    if b / 512 < o.prog then some (o.newBase * 512 + b)
    else if b / 512 = o.prog && o.busy then none
    else some (o.base * 512 + b)
  else some (o.base * 512 + b)

/-! First touch (R227). -/

/-- The IA ranges an object's copies hold. -/
def Obj.copies (o : Obj) : List (Nat × Nat) :=
  match o.st with
  | .present => [(o.base * 512, o.size * 512)]
  | .relocating => [(o.base * 512, o.size * 512), (o.newBase * 512, o.size * 512)]
  | _ => []

/-- The n bytes at an IA are free space of a context's pool, inside one 2 MiB page. -/
def freeRun (s : State) (ctx ia n : Nat) : Bool :=
  let pool := (s.ctxs[ctx]?.getD Ctx.reset).heapPool
  n != 0 && ia % 512 == 0 && ia / 2 ^ 21 == (ia + n - 1) / 2 ^ 21 && pool.contains (ia / 2 ^ 21)
    && s.heap.objs.all (fun e => e.2.copies.all (fun c => ia + n ≤ c.1 || c.1 + c.2 ≤ ia))

/-- Every free run of n bytes. -/
def freeRuns (s : State) (ctx n : Nat) : List Nat :=
  ((s.ctxs[ctx]?.getD Ctx.reset).heapPool.flatMap (fun p =>
    (List.range 4096).map (fun i => p * 2 ^ 21 + 512 * i))).filter (fun ia => freeRun s ctx ia n)

/-- Zero bytes of device memory, and drop every core's copies of them. -/
def State.zeroBytes (s : State) (ia n : Nat) : State :=
  let s := match pageKeys s ia n true with
    | .keys l cc => s.putAll cc l (List.replicate n 0)
    | _ => s
  { s with cores := s.cores.map (fun k => { k with
      copies := k.copies.filter (fun e => e.1 * 32 + 32 ≤ ia || ia + n ≤ e.1 * 32) }) }

/-- FirstTouch: the device chooses a free run, zeroes it and makes the entry PRESENT; none when the pool is empty. -/
def State.firstTouch (s : State) (key : Nat) : Option State :=
  let o := s.obj key
  let runs := freeRuns s (key / 2 ^ 40) (512 * o.size)
  match runs with
  | [] => none
  | r :: _ =>
    let ia := runs.getD (Config.freeNat s.free % runs.length) r
    let s := { s with free := s.free + 1 }
    some ((s.zeroBytes ia (512 * o.size)).setObj key { o with st := .present, base := ia / 512 })

/-- The entry a reference's id leads to, following FORWARDED once (R219). -/
def State.followed (s : State) (ctx id : Nat) : Nat :=
  let o := s.obj (objKey ctx id)
  if o.st = .forwarded then objKey ctx o.target else objKey ctx id

/-! Release (R240, R302). -/

/-- A reference count falls; a segment without references or pins is freed: its entry is cleared and its frames return
to the pool. -/
def State.unref (s : State) (key : Nat) : State :=
  let o := s.obj key
  let o := { o with rc := o.rc - 1 }
  if o.rc = 0 && o.pin = 0 then s.clearObj key else s.setObj key o

/-! The tables of a context as its memory shows them (R219, R303). -/

/-- The words of an object-table entry (R219). -/
def Obj.words (o : Obj) : List Word :=
  let st : Nat := match o.st with | .absent => 0 | .present => 1 | .relocating => 2 | .forwarded => 3
  [w64 (st * 2 ^ 62 + o.size * 2 ^ 48 + o.base), w64 ((if o.busy then 2 ^ 63 else 0) + o.prog * 2 ^ 48 + o.newBase),
   w64 (o.owner * 2 ^ 42 + (if o.arena then 2 ^ 41 else 0) + o.target), w64 (o.rc * 2 ^ 32 + o.pin * 2 ^ 16)]

/-- A byte of 8-byte words in memory. -/
def byteOf (l : List Word) (i : Nat) : Byte := BitVec.ofNat 8 ((l.getD (i / 8) 0).toNat / 256 ^ (i % 8))

/-- The IA range of a context's object table, and that of its tensor table. -/
def Ctx.objTable (x : Ctx) : Nat × Nat := (x.otbase.toNat, if x.isOpen then 32 * x.otlimit.toNat else 0)
def Ctx.tenTable (x : Ctx) : Nat × Nat := match x.ttbase with | some b => (b.toNat, if x.isOpen then 1024 * 128 else 0) | none => (0, 0)

/-- The byte of a context's tables at an IA. -/
def tableByte (s : State) (c : Nat) (x : Ctx) (ia : Nat) : Option Byte :=
  let (a, n) := x.objTable
  let (b, m) := x.tenTable
  if a ≤ ia && ia < a + n then some (byteOf (s.obj (objKey c ((ia - a) / 32))).words ((ia - a) % 32))
  else if b ≤ ia && ia < b + m then some (byteOf ((tabGet x.tens ((ia - b) / 128)).getD []) ((ia - b) % 128))
  else none

/-- The contexts with a table among n bytes at an IA. -/
def tablesAt (s : State) (ia n : Nat) : List (Nat × Ctx) :=
  ((List.range 16).zip s.ctxs.toList).filter (fun e =>
    [e.2.objTable, e.2.tenTable].any (fun t => t.1 < ia + n && ia < t.1 + t.2))

/-- The bytes at an IA whose places in the rows are given: those of a table are the table's entries. DESIGN CHOICE (log 10). -/
def homeBytes (s : State) (ia : Nat) (l : List Nat) : List Byte :=
  match tablesAt s ia l.length with
  | [] => l.map (homeByte s)
  | xs => ((List.range l.length).zip l).map (fun e =>
    (xs.findSome? (fun x => tableByte s x.1 x.2 (ia + e.1))).getD (homeByte s e.2))

end Sys2Proof.Machine
end

