-- ==== Sys2Proof/Machine/Tokens.lean ====
section
/-! DEFINITION. Tokens (R15 to R17, R99) and the end of a sequencer instruction. -/

namespace Sys2Proof.Machine

open Sys2Proof

def Core.tokens (k : Core) (q : BitVec 3) : Nat := k.tok[q.toNat]'q.isLt
def Core.reserved (k : Core) (q : BitVec 3) : Nat := k.rsv[q.toNat]'q.isLt
def Core.setTokens (k : Core) (q : BitVec 3) (n : Nat) : Core := { k with tok := k.tok.set q.toNat n q.isLt }
def Core.setReserved (k : Core) (q : BitVec 3) (n : Nat) : Core := { k with rsv := k.rsv.set q.toNat n q.isLt }

/-- Whether a pop finds a token; queue 0 is no queue (R93). -/
def Core.popReady (k : Core) (q : BitVec 3) : Bool := q == 0 || 0 < k.tokens q
/-- Whether a push finds room: tokens and reserved places stay below 15 (R15). DESIGN CHOICE (log 14). -/
def Core.pushReady (k : Core) (q : BitVec 3) : Bool := q == 0 || k.tokens q + k.reserved q < 15
def Core.pop (k : Core) (q : BitVec 3) : Core := if q == 0 then k else k.setTokens q (k.tokens q - 1)
def Core.push (k : Core) (q : BitVec 3) : Core := if q == 0 then k else k.setTokens q (k.tokens q + 1)
/-- Reserve a place for a push made at completion (R15). DESIGN CHOICE (log 14). -/
def Core.reserve (k : Core) (q : BitVec 3) : Core := if q == 0 then k else k.setReserved q (k.reserved q + 1)
/-- The push of a reserved place. DESIGN CHOICE (log 14). -/
def Core.pushReserved (k : Core) (q : BitVec 3) : Core :=
  if q == 0 then k else (k.setReserved q (k.reserved q - 1)).push q

/-- The TQCFG code of an engine (R16). -/
def engCode : Eng → Nat
  | .v => 0 | .m => 1 | .c => 2 | .g => 3 | .x => 4 | .s => 5
def Core.producer (k : Core) (q : BitVec 3) : Nat := wbits k.tqcfg (6 * (q.toNat - 1) + 2) (6 * (q.toNat - 1))
def Core.consumer (k : Core) (q : BitVec 3) : Nat := wbits k.tqcfg (6 * (q.toNat - 1) + 5) (6 * (q.toNat - 1) + 3)
/-- R17: an engine pops only queues it consumes and pushes only queues it produces, or any (code 6). -/
def Core.queuesOk (k : Core) (e : Eng) (pop push : BitVec 3) : Bool :=
  (pop == 0 || k.consumer pop == engCode e) && (push == 0 || k.producer push == engCode e || k.producer push == 6)

/-- The non-blocking form of R99. -/
def isNb (w : Fields) : Bool := !w.en && w.gs

/-- The end of a sequencer instruction: its pop, its push when now is set, the predicate of the non-blocking form, and
the next pc (R14, R99). -/
def Core.finish (k : Core) (w : Fields) (npc : Word) (now : Bool) : Core :=
  let k := k.pop w.pop
  let k := if now then k.push w.push else k
  let k := if isNb w && (w.pop != 0 || w.push != 0) then k.wp w.gp (predOf true) else k
  { k with pc := npc, wait := none, held := 0, took := 0 }
/-- The end of an instruction that S has waited in: its pop was taken when it started, and the place of its push is
reserved (R14, R15). -/
def Core.finishHeld (k : Core) (w : Fields) (npc : Word) : Core :=
  let k := k.pushReserved w.push
  let k := if isNb w && (w.pop != 0 || w.push != 0) then k.wp w.gp (predOf true) else k
  { k with pc := npc, wait := none, held := 0, took := 0 }
/-- An instruction that S has waited in has sent its accesses, which hold the place of its push (R14, R15). -/
def Core.sentHeld (k : Core) (w : Fields) (npc : Word) : Core :=
  let k := k.freeHeld
  let k := if isNb w && (w.pop != 0 || w.push != 0) then k.wp w.gp (predOf true) else k
  { k with pc := npc, wait := none, held := 0, took := 0 }
/-- S now waits in an instruction that has started: its pop is taken, and its push's place is reserved unless its access
holds it (R14, R15). -/
def Core.enterWait (k : Core) (w : Fields) : Core :=
  match k.wait with
  | none | some (.token ..) | some .moving => k
  | some (.home ..) | some (.slot ..) | some (.scDone ..) => { (k.pop w.pop) with took := w.pop }
  | some _ => { ((k.pop w.pop).reserve w.push) with took := w.pop, held := w.push }

/-- The instruction after the 64-bit one at pc (R90). -/
def Core.npc (k : Core) : Word := k.pc + 8

end Sys2Proof.Machine
end

