-- ==== Sys2Proof/Machine/Home.lean ====
section
/-! DEFINITION. The homes (R69, R72 to R76, R80 to R86, R320 to R335): lease tables and stamps, the home directory as
on-die accesses see it, the remote-data cache, answers to the cores, and serving one access of a home queue. -/

namespace Sys2Proof.Machine

open Sys2Proof

/-! Grains, leases and stamps. -/

/-- The bytes of a grain code (R33). -/
def grSize (gr : Nat) : Nat := if gr = 0 then 32 else if gr = 1 then 128 else 512
def grBase (key gr : Nat) : Nat := key / grSize gr * grSize gr
/-- The 32-byte sectors of the grains that bytes lie in, by number. -/
def sectorsOf (key gr : Nat) (len : Nat := 1) : List Nat :=
  let a := grBase key gr
  (List.range ((grBase (key + len - 1) gr + grSize gr - a) / 32)).map (fun i => a / 32 + i)

def Lease.none_ : Lease := { e := 0, m := 0, w := 0, ak := false }
def wmax (a b : Word) : Word := if a.toNat < b.toNat then b else a
def wmin (a b : Word) : Word := if b.toNat < a.toNat then b else a

/-- The lease entry of sectors: held sector by sector, so that ranges of different grains agree (R84). -/
def leaseOver (s : State) (secs : List Nat) : Lease :=
  secs.foldl (fun a n =>
    let l := (tabGet s.leases n).getD Lease.none_
    { e := wmax a.e l.e, m := a.m ||| l.m, w := wmax a.w l.w, ak := a.ak || l.ak }) Lease.none_
/-- The lease entry of the grains that bytes lie in. -/
def leaseAt (s : State) (key gr : Nat) (len : Nat := 1) : Lease := leaseOver s (sectorsOf key gr len)

def State.modSecs (s : State) (secs : List Nat) (f : Lease → Lease) : State :=
  { s with leases := secs.foldl (fun t n => tabSet t n (f ((tabGet t n).getD Lease.none_))) s.leases }
/-- W of sectors becomes a store's Vsystem (R74). -/
def State.setW (s : State) (secs : List Nat) (w : Word) : State := s.modSecs secs (fun l => { l with w := w })
/-- The home takes data that the peer wrote: W is at least the stamp that comes with it. -/
def State.raiseW (s : State) (secs : List Nat) (w : Word) : State := s.modSecs secs (fun l => { l with w := wmax l.w w })

/-- Grant a lease of LEASELEN ticks to a cluster over the sectors copied (R72); ak says that the range is of the AK
class. -/
def State.grantLease (s : State) (secs : List Nat) (cl : Nat) (ak : Bool) : State :=
  let x := s.gtc + s.leaseLen
  s.modSecs secs (fun l =>
    let live := s.gtc.toNat < l.e.toNat && l.m != 0
    { l with e := wmax l.e x, m := l.m ||| BitVec.ofNat 16 (2 ^ cl), ak := ak && (l.ak || !live) })

/-- The stamps of R74 for a store that arrived at time a from cluster cl, as far as the leases go. -/
def stampsAt (l : Lease) (a : Word) (cl : Nat) : Stamps :=
  let d := wmax a l.e + 1
  { core := a + 1, cluster := if l.m.getLsbD cl then d else a + 1, device := d, system := d }

/-- Stamps that all equal one value (R82). -/
def flatStamps (v : Word) : Stamps := { core := v, cluster := v, device := v, system := v }

def minStamps (x : Stamps) (v : Word) : Stamps :=
  { core := wmin x.core v, cluster := wmin x.cluster v, device := wmin x.device v, system := wmin x.system v }
def maxStamps (x y : Stamps) : Stamps :=
  { core := wmax x.core y.core, cluster := wmax x.cluster y.cluster, device := wmax x.device y.device,
    system := wmax x.system y.system }

/-! Engine operations by engine. -/

def Core.queueOf (k : Core) : Eng → List EOp
  | .m => k.mq | .c => k.cq | .g => k.gq | .x => k.xq | _ => []
def Core.setQueue (k : Core) (e : Eng) (q : List EOp) : Core :=
  match e with
  | .m => { k with mq := q } | .c => { k with cq := q } | .g => { k with gq := q } | .x => { k with xq := q } | _ => k
def Core.modOp (k : Core) (e : Eng) (id : Nat) (f : EOp → EOp) : Core :=
  k.setQueue e ((k.queueOf e).map (fun o => if o.id == id then f o else o))

/-! Messages of the link and of the host port (R324, R364). -/

def flit0 : Flit :=
  { msg := 0, port := false, tag := 0, ia := 0, grain := 0, cc := false, conv := false, wbpend := false, dirty := false,
    full := false, wd := false, stamp := 0, mask := 0, opf := 0, val := 0, repl := 0, data := [], w := 0 }

/-- The port of a coherence message: IA[12] while both ports are up (R366). -/
def portOf (s : State) (ia : Nat) : Bool :=
  if s.bridge.port0 && s.bridge.port1 then ia.testBit 12 else s.bridge.port1
def State.send (s : State) (f : Flit) : State := { s with bridge := { s.bridge with out := s.bridge.out ++ [f] } }
def State.snoop (s : State) (msg ia gr : Nat) : State :=
  s.send { flit0 with msg := BitVec.ofNat 8 msg, port := portOf s ia, ia := ia, grain := BitVec.ofNat 2 gr }
def State.toHost (s : State) (m : HostOut) : State := { s with base := { s.base with hostOut := s.base.hostOut ++ [m] } }

/-- Send a link request and keep it as outstanding (R327); none when 64 are outstanding. -/
def State.request (s : State) (f : Flit) (core : CoreId) (eng : Eng) (seq pos : Nat) (cls : Nat := 1) :
    Option State :=
  if s.bridge.reqs.length ≥ 64 then none
  else
    let t := s.bridge.nextTag % 4096
    let f := { f with tag := BitVec.ofNat 12 t, port := portOf s f.ia }
    let r : LinkReq := { flit := f, core := core, eng := eng, seq := seq, pos := pos, cls := cls, arr := s.gtc, k := 0, retry := none }
    some ({ s with bridge := { s.bridge with reqs := tabSet s.bridge.reqs t r, nextTag := s.bridge.nextTag + 1 } }.send f)

/-! Arrivals (R80, R329). -/

/-- Something arrives at a home: its tick, its cycle, and the state that has counted it. rank is its place among the
arrivals of one cycle: 1 on-die, 2 and 3 the ports of the bridge, 4 the host port (R329). What comes after an arrival of a
later place belongs to a later cycle; whether anything else does is a free value, since a tick has two cycles (R2).
DESIGN CHOICE (log 73). -/
def State.arrive (s : State) (rank : Nat) : Word × Nat × State :=
  let now := 2 * s.gtc.toNat
  let c := if s.cyc < now then now else s.cyc + (if rank < s.rank then 1 else 0)
  let later : Nat := if c == now && (Config.freeWord s.free).getLsbD 0 then 1 else 0
  (w64 (c / 2), c + later, { s with cyc := c + later, rank := rank, free := s.free + 1 })

/-! The home directory as an on-die access sees it (R325). -/

/-- The directory entry that covers an IA, with the base of its grain. -/
def dirAt (s : State) (ia : Nat) : Option (Nat × Dir) :=
  s.bridge.dir.find? (fun e => e.1 ≤ ia && ia < e.1 + grSize e.2.gr)
/-- The directory entries that overlap n bytes. -/
def dirIn (s : State) (ia n : Nat) : List (Nat × Dir) :=
  s.bridge.dir.filter (fun e => e.1 < ia + n && ia < e.1 + grSize e.2.gr)
def State.setDir (s : State) (g : Nat) (d : Option Dir) : State :=
  { s with bridge := { s.bridge with dir := tabPut s.bridge.dir g d } }
def isTransient : DirSt → Bool
  | .tFS | .tFX | .tBS | .tInv => true
  | _ => false
def isReserved (s : State) (g : Nat) : Bool := (tabGet s.bridge.resv g).isSome
/-- A grain with bytes in a 512-byte line of these is reserved (R328). -/
def lineReserved (s : State) (key len : Nat) : Bool :=
  s.bridge.resv.any (fun e => e.1 / 512 ≤ (key + len - 1) / 512 && key / 512 ≤ e.1 / 512)
/-- A store of these bytes still waits for its stamps: the home treats the line as transient (R74). -/
def stampsPending (s : State) (key len : Nat) : Bool :=
  s.bridge.swaits.any (fun x => x.secs.any (fun n => n * 32 < key + len && key < n * 32 + 32))

/-- An access goes on, waits with a snoop sent, or goes on with the invalidations of these grains outstanding. -/
inductive DirRes where
  | go (s : State)
  | wait (s : State)
  | inval (s : State) (gs : List Nat)

/-- A transient state that a request of w starts, or an eviction. -/
def Dir.turn (d : Dir) (st : DirSt) (w : Option Who) (needP needH : Bool) : Dir :=
  { d with st := st, needP := needP, needH := needH, req := w, next := none }

/-- Send the invalidations a store or an exclusive request needs, and wait for them. -/
def State.invalidate (s : State) (w : Option Who) (g : Nat) (d : Dir) : State :=
  let p := d.p || d.st == .hO || d.st == .hE
  let h := d.h || d.st == .hA
  let s := if p then s.snoop 0x11 g d.gr else s
  let s := if h then s.toHost (.bisnpInv g) else s
  s.setDir g (some ({ d with p := p, h := h }.turn .tInv w p h))

/-- What one entry asks of an on-die load before it is served: the state in which it waits (R325). -/
def loadPrep (s : State) (w : Who) (e : Nat × Dir) : Option State :=
  let g := e.1
  let d := e.2
  let start (t : State) : Option State := some (if isReserved s g then s else t)
  match d.st with
  | .hS | .hO => none
  | .hE => start ((s.snoop 0x0F g d.gr).setDir g (some (d.turn .tFS (some w) true false)))
  | .hA => start ((s.toHost (.bisnpData g)).setDir g (some (d.turn .tBS (some w) false true)))
  | _ => some s
/-- What one entry asks of an on-die store, atomic or reduction before it is served. -/
def storePrep (s : State) (w : Who) (e : Nat × Dir) : Option State :=
  let g := e.1
  let d := e.2
  let start (t : State) : Option State := some (if isReserved s g then s else t)
  match d.st with
  | .hS | .hO => if isReserved s g then some s else none
  | .hE => start ((s.snoop 0x10 g d.gr).setDir g (some (d.turn .tFX (some w) true false)))
  | .hA => start (s.invalidate (some w) g d)
  | _ => some s

/-- An on-die load at its home, over the entries its bytes overlap. -/
def dirLoads (s : State) (w : Who) (es : List (Nat × Dir)) : DirRes :=
  match es.findSome? (loadPrep s w) with | some t => .wait t | none => .go s
/-- An on-die store at its home: it is performed at once, with the invalidations of H-S and H-O outstanding. -/
def dirStores (s : State) (w : Who) (es : List (Nat × Dir)) : DirRes :=
  match es.findSome? (storePrep s w) with
  | some t => .wait t
  | none => if es.isEmpty then .go s else .inval (es.foldl (fun s e => s.invalidate (some w) e.1 e.2) s) (es.map (·.1))

/-- The L2 evicts the line of a directory entry: it first takes every remote copy back (R320). -/
def State.evictDir (s : State) (g : Nat) (d : Dir) : State :=
  if isReserved s g || isTransient d.st then s
  else if d.st == .hE then (s.snoop 0x10 g d.gr).setDir g (some (d.turn .tFX none true false))
  else s.invalidate none g d

/-! Answers to whoever made an access. -/

/-- Raise the horizons a store fed by its stamps (R70, R75). -/
def Core.raiseHorizons (k : Core) (cls : Nat) (st : Stamps) : Core :=
  if cls == 2 then { k with hz := { k.hz with uo := wmax k.hz.uo st.system } }
  else { k with hz := { k.hz with core := wmax k.hz.core st.core, cluster := wmax k.hz.cluster st.cluster,
                                  device := wmax k.hz.device st.device, system := wmax k.hz.system st.system } }

/-- The stamps of a store of a core enter its stamp-buffer entry, also one that went with its context (R89). -/
def State.toEntry (s : State) (who : Who) (st : Stamps) : State :=
  let mine (e : StampEnt) : Bool := e.core == who.core && e.seq == who.seq
  let fill (k : Core) : Core := { k with stamps := k.stamps.map (fun e => if mine e then { e with stamps := some st } else e) }
  if (s.core who.core).stamps.any mine then s.modCore who.core fill
  else { s with
    cores := s.cores.map (fun (k : Core) => if k.stamps.any mine then fill k else k),
    sched := { s.sched with saved := s.sched.saved.map (fun (v : Saved) => { v with core := fill v.core }) } }

/-- The stamps of a store are known: the stamp-buffer entry, the engine operation or the peer receives them. -/
def State.giveStamps (s : State) (who : Who) (st : Stamps) : State :=
  match who.flit with
  | some f =>
    s.send { flit0 with msg := if f.msg == 0x04#8 then 0x0B#8 else 0x0C#8, port := f.port, tag := f.tag, ia := f.ia,
                        stamp := st.system, mask := if f.msg == 0x05#8 && !f.opf.getLsbD 5 then who.ret else 0,
                        w := who.retw }
  | none =>
    if who.host.isSome then s
    else match who.eng with
    | .s | .v => s.toEntry who st
    | e => s.modCore who.core (fun k =>
        let k := if ((k.queueOf e).find? (fun o => o.id == who.seq)).any (·.so) then
          { k with soFloor := wmax k.soFloor st.system } else k
        k.modOp e who.seq (fun o => { o with owed := o.owed - 1, stamps := maxStamps o.stamps st, so := o.so && o.owed != 1 }))

/-- The last acknowledgement of a store came, or none was needed: W becomes Vsystem, and the stamps go back (R74). -/
def State.endStamps (s : State) (x : StampWait) : State :=
  (s.setW x.secs x.stamps.system).giveStamps x.who x.stamps
/-- A performed store: its stamps go back at once, or wait for acknowledgements. -/
def State.settle (s : State) (x : StampWait) : State :=
  if !x.dirs.isEmpty || !x.left.isEmpty then { s with bridge := { s.bridge with swaits := s.bridge.swaits ++ [x] } }
  else s.endStamps x

/-- A push owed by the instruction of a group. -/
def pushGroup (k : Core) (q : BitVec 3) : Core := k.pushReserved q

/-- S waits for this access at the instruction at pc. -/
def waitsFor (k : Core) (id : Nat) : Option Fields :=
  match k.wait with
  | some (.home n w) => if n == id then some w else none
  | _ => none

/-- Write a scalar register with the value of access group id: the registers kept for a later vector instruction take it
too (R155). -/
def Core.wsAt (k : Core) (id : Nat) (r : BitVec 6) (v : Word) : Core :=
  { (k.ws r v) with vq := k.vq.map (fun e =>
      if id < e.seq && r != 0 then { e with snap := { e.snap with s := e.snap.s.set r.toNat v r.isLt } } else e) }
/-- A write stamp folds into O (R70). -/
def Core.foldObs (k : Core) (seq : Nat) (w : Word) : Core :=
  { k with obs := wmax k.obs w, vq := k.vq.map (fun e =>
      if seq < e.seq then { e with snap := { e.snap with obs := wmax e.snap.obs w } } else e) }

/-- The last part of an access is performed: its value goes to its destination, its push is made, and S goes on when it
waited for it (R112, R124). -/
def State.completeGroup (s : State) (c : CoreId) (g : Group) : State :=
  let k := s.core c
  let k := { k with groups := k.groups.filter (fun x => x.id != g.id) }
  let k := match g.dest with
    | .none => k
    | .sreg r code =>
      let k := { k with busyS := k.busyS.filter (fun n => n != r.toNat) }
      if g.abandoned then k else k.wsAt g.id r (extendLoad code g.buf)
    | .tmpl n => if g.abandoned then k else { k with tmpl := tabSet k.tmpl n (BitVec.ofNat 256 (leNat g.buf)) }
    | .flags r =>
      if g.abandoned then k else { (k.ws r (w64 (leNat g.buf) ||| k.mfail)) with mfail := 0 }
    | .preg r => if g.abandoned then k else k.wp r (predOf (listGet g.buf 0 == 1))
    | .ref l => if g.abandoned then k else { k with wait := some (.refDone (w64 (leNat g.buf)) l), held := g.push }
    | .region off m =>
      if g.abandoned then k
      else { k with landing := k.landing ++ [{ off := off, data := g.buf, mask := m, w := g.w, more := false,
                                               vec := true, push := g.push, op := 0 }] }
  let k := match g.dest with
    | .region _ _ => if g.abandoned then pushGroup k g.push else k
    | .ref _ => k
    | _ => match waitsFor k g.id with
      | some w =>
        if k.stamps.any (fun e => e.sc && e.seq == g.id) then k
        else k.finishHeld w k.npc
      | none => pushGroup k g.push
  let s := s.setCore c k
  if g.poison then s.raisePoison c 7 0 g.pc.toNat else s

/-- Overwrite bytes forwarded from the core's own stores (R71). -/
def applyFwd : List Byte → List (Nat × Byte) → List Byte
  | l, [] => l
  | l, (i, b) :: t => applyFwd (setNth l i b) t

/-- Part pos of access group grp is performed with these bytes, of which W is w. -/
def State.answer (s : State) (a : Acc) (d : List Byte) (w : Word) (poison : Bool) : State :=
  let k := s.core a.core
  let k := k.foldObs a.seq w
  match k.groups.find? (fun g => g.id == a.grp) with
  | none => s.setCore a.core k
  | some g =>
    let g := { g with buf := patch g.buf a.pos (applyFwd d a.fwd), w := wmax g.w w, left := g.left - 1,
                      poison := g.poison || poison }
    let k := { k with groups := k.groups.map (fun x => if x.id == g.id then g else x) }
    let s := s.setCore a.core k
    let s := if poison then { s with free := s.free + 1 } else s
    if g.left == 0 then s.completeGroup a.core g else s

/-- A part that returns no bytes is performed. -/
def State.partDone (s : State) (a : Acc) : State :=
  let k := s.core a.core
  match k.groups.find? (fun g => g.id == a.grp) with
  | none => s
  | some g =>
    let g := { g with left := g.left - 1 }
    let s := s.setCore a.core { k with groups := k.groups.map (fun x => if x.id == g.id then g else x) }
    if g.left == 0 then s.completeGroup a.core g else s

/-! Copies (R72). -/

/-- Fill the 32-byte sectors of a grain of the L1, or of the prefetch buffer, from bytes read at the home. -/
def fillSectors : Table Copy → Nat → List Byte → Word → Word → Bool → Nat → Table Copy
  | t, _, _, _, _, _, 0 => t
  | t, n, d, w, x, pb, m + 1 =>
    fillSectors (tabSet t n { data := d.take 32, w := w, expiry := x, pb := pb }) (n + 1) (d.drop 32) w x pb m

/-- Drop a core's copies of the sectors a range of bytes touches. -/
def dropCopies (t : Table Copy) (key len : Nat) : Table Copy :=
  t.filter (fun e => e.1 * 32 + 32 ≤ key || key + len ≤ e.1 * 32)

/-- The bytes a live copy gives, and its W: every sector of the access must be live (R72). -/
def copyRead (s : State) (k : Core) (key len : Nat) : Option (List Byte × Word) :=
  let sec := (List.range ((key % 32 + len + 31) / 32)).map (fun i => key / 32 + i)
  let cs := sec.map (fun n => (tabGet k.copies n).bind (fun c => if s.gtc.toNat < c.expiry.toNat then some c else none))
  if cs.all Option.isSome then
    let cs := cs.filterMap id
    some (((cs.flatMap (·.data)).drop (key % 32)).take len, cs.foldl (fun w c => wmax w c.w) 0)
  else none

/-- A core's own stored bytes enter its live L1 copies (R70). -/
def copyWrite (s : State) (t : Table Copy) (key : Nat) (d : List Byte) (m : List Bool) : Table Copy :=
  t.map (fun e => if s.gtc.toNat < e.2.expiry.toNat then
    (e.1, { e.2 with data := (List.range 32).map (fun i =>
      let a := e.1 * 32 + i
      if key ≤ a && a < key + d.length && m.getD (a - key) true then d.getD (a - key) 0 else e.2.data.getD i 0) }) else e)

/-! Memory at its home, for whoever accesses it. -/

/-- The outcome of an access at a home: performed, to be tried again, held on a fault, or held on a migration. -/
inductive HRes where
  | done (s : State) (d : List Byte) (w : Word) (poison : Bool)
  | retry (s : State)
  | held (s : State)
  | mig (s : State)

/-- The IA of a byte of this device's memory. -/
def ownIa (s : State) (o : Nat) : Nat := devNat s * 2 ^ 48 + o
/-- The IAs of the plane bytes of a view's bytes (R315). -/
def planeIas (s : State) (n : Nat) (l : List ViewByte) : List Nat :=
  ((l.flatMap ViewByte.offs).map (fun o => ownIa s (n * 65536 + o))).eraseDups
/-- The directory entries of a list of bytes. -/
def dirsOf (s : State) (ias : List Nat) : List (Nat × Dir) :=
  s.bridge.dir.filter (fun e => ias.any (fun a => e.1 ≤ a && a < e.1 + grSize e.2.gr))
/-- The sectors of a list of bytes. -/
def secsOf (ias : List Nat) : List Nat := (ias.map (· / 32)).eraseDups

/-- A view byte read consumes a poisoned word (R255). -/
def viewPoison (s : State) (l : Leaf) (v : ViewByte) : Bool := v.offs.any (fun o => isPoison s (ccKey l o))

/-! Reads of views (R274): the layout engine reads plane word by plane word. -/

/-- The view bytes of n bytes of this device's memory, with the CC page's number and leaf. -/
def viewAt (s : State) (ia n : Nat) : Option (List ViewByte × Nat × Leaf) :=
  if ia / 2 ^ 48 != devNat s then none
  else match pageKeys s ia n false with | .view l p cl => some (l, p, cl) | _ => none

/-- The plane bytes a view read needs, by page offset, in the order of the view bytes. -/
def planeNeeds (l : List ViewByte) : List Nat := (l.flatMap ViewByte.offs).eraseDups

/-- The value of a view byte from plane bytes read. -/
def viewFrom (got : List (Nat × Byte)) : ViewByte → Byte
  | .beyond => 0
  | .byte o => (tabGet got o).getD 0
  | .bits bs => BitVec.ofNat 8 (packBool (bs.map (fun ob => ((tabGet got ob.1).getD 0).getLsbD ob.2)))

/-- What the next step of a view read comes to: it has all its bytes, it waits, or it has those of one more word. -/
inductive PlaneRead where
  | ready
  | wait (s : State)
  | more (s : State) (g : PlaneGot)

/-- Read the next plane word of a view read, in arrival order with the other accesses to that word (R275, R315). -/
def nextPlane (s : State) (who : Who) (l : List ViewByte) (n : Nat) (cl : Leaf) (g : PlaneGot) : PlaneRead :=
  match (planeNeeds l).filter (fun o => (tabGet g.bytes o).isNone) with
  | [] => .ready
  | o :: t =>
    let here := (o :: t).filter (fun x => x / 64 == o / 64)
    let ias := here.map (fun x => ownIa s (n * 65536 + x))
    if ias.any (fun x => stampsPending s x 1) || here.any (fun x => behindWrite s (ccKey cl x)) then .wait s
    else match dirLoads s who (dirsOf s ias) with
    | .wait s | .inval s _ => .wait s
    | .go s =>
      .more s { bytes := here.foldl (fun g x => tabSet g x (homeByte s (ccKey cl x))) g.bytes,
                w := wmax g.w (leaseOver s (secsOf ias)).w, poison := g.poison || here.any (fun x => isPoison s (ccKey cl x)) }

/-- Read own device memory. -/
def ownRead (s : State) (who : Who) (ia len : Nat) (gr : Nat) : HRes :=
  match pageKeys s ia len false with
  | .keys l _ =>
    (match dirLoads s who (dirIn s ia len) with
     | .go s =>
       let s := countAccess s ia false
       .done s (homeBytes s ia l) (leaseAt s ia gr len).w (l.any (isPoison s))
     | .wait s | .inval s _ => .retry s)
  | .view l n cl =>
    let ias := planeIas s n l
    (match dirLoads s who (dirIn s ia len ++ dirsOf s ias) with
     | .go s =>
       if (l.flatMap ViewByte.offs).any (fun o => behindWrite s (ccKey cl o)) then .retry s
       else .done s (l.map (viewRead s cl)) (leaseOver s (secsOf ias)).w (l.any (viewPoison s cl))
     | .wait s | .inval s _ => .retry s)
  | .fault => .held s
  | .mig => .mig s
  | .collapse _ => .retry s

/-- The first store to a page with a replica: the tier becomes HOST and the replica frames are free (R357). -/
def State.collapse (s : State) (n : Nat) : State :=
  match tabGet s.xlat.pages n with
  | none => s
  | some l =>
    let fr := wbits l.w1 45 16
    let l' : Leaf := { w0 := w64 (setBits l.w0.toNat 57 56 1), w1 := 0 }
    { s with xlat := { s.xlat with pages := tabSet s.xlat.pages n l', migFree := setAdd s.xlat.migFree fr } }

/-- Write the bytes of a view into their planes. -/
def putViews (s : State) (cl : Leaf) : List ViewByte → List Byte → State
  | v :: vs, d :: ds => putViews (if v == .beyond then s else s.putView cl d v) cl vs ds
  | _, _ => s

/-- A store to a view (R314, R315): Q8 planes take the bytes; bytes beyond the matrix, and a store to other planes, are
dropped, each with one record. -/
def viewWrite (s : State) (ia : Nat) (cl : Leaf) (l : List ViewByte) (d : List Byte) : State :=
  let drop (s : State) (b : Bool) (code : Nat) : State :=
    if b then s.report { code := code, sev := 2, src := 7, ctx := none, eng := 7, tix := 0, gstat := 0, addr := some ia,
                         data := none, wher := none }
    else s
  let s := drop s (l.any (· == .beyond)) 0x08
  if dFmt cl.w1 == 0 then putViews s cl l d else drop s (l.any (· != .beyond)) 0x09

/-- The clusters whose leased copies an AK store recalls (R335). DEDUCED (log 28). -/
def recallSet (l : Lease) (now : Word) : List Nat :=
  if now.toNat < l.e.toNat then (List.range 16).filter (fun n => l.m.getLsbD n) else []

/-- Stamp a store performed at a home of this device at sectors; dirs are the grains whose invalidation is awaited, and in
the AK class every live leased copy is recalled (R74, R335). floor is the least Vsystem (R324). -/
def State.stampOwn (s : State) (who : Who) (secs : List Nat) (cls : Nat) (arr : Word) (dirs : List Nat) (floor : Word := 0) :
    State :=
  let l := leaseOver s secs
  let st := stampsAt l arr (clusterOf who.core)
  s.settle { who := who, secs := secs, stamps := { st with system := wmax st.system floor }, floor := floor, dirs := dirs,
             ak := cls == 3, left := if cls == 3 then recallSet l s.gtc else [] }

/-- Write the bytes of own device memory that a mask selects (empty: all), and stamp the store. A store to a view is
stamped at its plane words, once their copies are back (R315). -/
def ownWrite (s : State) (who : Who) (ia : Nat) (cls gr : Nat) (arr : Word) (d : List Byte) (m : List Bool := []) : HRes :=
  match pageKeys s ia d.length true with
  | .fault => .held s
  | .mig => .mig s
  | .collapse n => .retry (s.collapse n)
  | .view l n cl =>
    let ias := planeIas s n (pick m l)
    (match dirStores s who (dirsOf s ias) with
     | .go s => .done ((viewWrite s ia cl (pick m l) (pick m d)).stampOwn who (secsOf ias) cls arr []) [] 0 false
     | .wait s | .inval s _ => .retry s)
  | .keys l cc =>
    let put (s : State) (dirs : List Nat) : HRes :=
      let t := countAccess s ia true
      .done ((if who.eng == .g then t.putOrdered (pick m l) (pick m d) else t.putAll cc (pick m l) (pick m d)).stampOwn who (sectorsOf ia gr d.length) cls arr dirs)
        [] 0 false
    match dirStores s who (dirIn s ia d.length) with
    | .wait s => .retry s
    | .go s => put s []
    | .inval s gs => put s gs

/-- One indivisible update of a word of own device memory: the old value, and f gives the new one (R81). Its directory
step is a store's (R325). -/
def ownUpdate (s : State) (who : Who) (ia len : Nat) (cls gr : Nat) (arr : Word) (f : Nat → Nat) : HRes :=
  let old (s : State) : Option (List Byte × Word × Bool) :=
    match pageKeys s ia len true with
    | .keys l _ => some (homeBytes s ia l, (leaseAt s ia gr len).w, l.any (isPoison s))
    | .view l n cl => some (l.map (viewRead s cl), (leaseOver s (secsOf (planeIas s n l))).w, l.any (viewPoison s cl))
    | _ => none
  match old s with
  | none => ownWrite s who ia cls gr arr (List.replicate len 0)
  | some (d, w, p) =>
    (match ownWrite s { who with ret := w64 (leNat d), retw := w } ia cls gr arr (leBytes len (f (leNat d))) with
     | .done s _ _ _ => .done s d w p
     | r => r)

/-- A store that nobody of this device waits for. -/
def whoNone : Who := { core := 0, eng := .s, seq := 2 ^ 80 }
def whoPeer (f : Flit) (cyc : Nat) : Who := { whoNone with flit := some f, strong := f.msg == 0x05#8, cyc := cyc }
def whoHost (q : HostReq) (cyc : Nat) : Who := { whoNone with host := some q, cyc := cyc }

/-! The remote-data cache as this die sees it (R322, R326). -/

def rdcAt (s : State) (ia : Nat) : Option (Nat × RdcGrain) :=
  s.bridge.rdc.find? (fun e => e.1 ≤ ia && ia < e.1 + grSize e.2.gr)
def State.setRdc (s : State) (g : Nat) (d : Option RdcGrain) : State :=
  { s with bridge := { s.bridge with rdc := tabPut s.bridge.rdc g d } }
def isHostIa (ia : Nat) : Bool := ia / 2 ^ 48 == 8
/-- W of a grain as this die's home of it: of its grant, and of the stores made here since. -/
def rdcW (s : State) (g : Nat) (x : RdcGrain) : Word := wmax x.w (leaseAt s g x.gr).w

/-- Write a grain back (R326). -/
def writeBack (s : State) (g : Nat) (x : RdcGrain) : State :=
  if isHostIa g then (s.toHost (.writeBack g x.data)).setRdc g none
  else
    match s.request { flit0 with msg := 0x06, ia := g, grain := BitVec.ofNat 2 x.gr, data := x.data, dirty := true,
                                 w := rdcW s g x } 0 .s 0 0 with
    | some s => s.setRdc g (some { x with st := .xI })
    | none => s

/-! The ways of the RDC (R336): tags of 512 bytes in 4,096 sets of 16. -/

def isTransientRdc : RdcSt → Bool
  | .iS | .iM | .sM => true
  | _ => false
/-- The grains that hold ways of the set of a line: those in the write-back buffer have left theirs. -/
def setGrains (s : State) (ia : Nat) : List (Nat × RdcGrain) :=
  s.bridge.rdc.filter (fun e => e.1 / 512 % 4096 == ia / 512 % 4096 && e.2.st != .xI)
/-- The latest access to a tag. -/
def tagUse (s : State) (t : Nat) : Nat := (tabGet s.bridge.rdcUse t).getD 0
/-- The least recently accessed tag of the set of a line; a tag that waits for data stays. -/
def victimTag (s : State) (ia : Nat) : Option Nat :=
  let l := setGrains s ia
  ((l.map (fun e => e.1 / 512)).eraseDups.filter (fun t => l.all (fun e => e.1 / 512 != t || !isTransientRdc e.2.st))).foldl
    (fun (r : Option Nat) t => match r with
      | some u => if tagUse s t < tagUse s u then some t else some u
      | none => some t) none
/-- Evict the grains of a tag: dirty ones are written back, clean ones dropped (R326). DEDUCED (log 19). -/
def State.evictTag (s : State) (t : Nat) : State :=
  (s.bridge.rdc.filter (fun e => e.1 / 512 == t)).foldl (fun s e =>
    match e.2.st with
    | .m | .o => writeBack s e.1 e.2
    | .e | .s => s.setRdc e.1 none
    | _ => s) s
/-- A way for the tag of a line: its own, a free one, or the victim's, once that has left. -/
def State.takeWay (s : State) (ia : Nat) : Option State :=
  let tags := ((setGrains s ia).map (fun e => e.1 / 512)).eraseDups
  if tags.contains (ia / 512) || tags.length < 16 then some s
  else
    match victimTag s ia with
    | none => none
    | some t =>
      let s := s.evictTag t
      if (setGrains s ia).any (fun e => e.1 / 512 == t) then none else some s

/-- An access to the tag of a line (R336). -/
def State.touchRdc (s : State) (ia : Nat) : State :=
  { s with bridge := { s.bridge with rdcUse := tabSet s.bridge.rdcUse (ia / 512) s.bridge.rdcNo, rdcNo := s.bridge.rdcNo + 1 } }

/-- The access a request is sent for, when it is one of this device. -/
def Who.asks (w : Who) : Option (CoreId × Eng × Nat) :=
  if w.flit.isSome || w.host.isSome then none else some (w.core, w.eng, w.seq)

/-- Ask the home of a grain for it: ReqS, ReqX or ReqU on the link, CXL.cache reads for host memory. A new grain takes
a way first. DEDUCED (log 19). -/
def askGrain (s : State) (who : Who) (msg : Nat) (st : RdcSt) (ia : Nat) (x : RdcGrain) : State :=
  let g := grBase ia x.gr
  let x := { x with st := st, want := who.asks }
  let f : Flit := { flit0 with msg := BitVec.ofNat 8 msg, ia := ia, grain := BitVec.ofNat 2 x.gr }
  if !isHostIa ia && s.bridge.reqs.length ≥ 64 then s
  else match s.takeWay g with
    | none => s
    | some s =>
      let s := s.touchRdc g
      if isHostIa ia then (s.toHost (if msg = 1 then .rdShared g else .rdOwn g)).setRdc g (some x)
      else match s.request f 0 .s 0 0 with
        | some s => s.setRdc g (some x)
        | none => s

/-- A new grain for an IA: of the size of its range, or smaller where the RDC holds a part of that. -/
def freshGrain (s : State) (ia gr : Nat) : RdcGrain :=
  let fits (c : Nat) : Bool := s.bridge.rdc.all (fun e => e.1 + grSize e.2.gr ≤ grBase ia c || grBase ia c + grSize c ≤ e.1)
  { gr := (([gr, 1, 0].filter (· ≤ gr)).find? fits).getD 0, st := .iS, data := [], w := 0, floor := 0, cc := false,
    want := none }

/-- Whether an access takes the grain as it stands here: a strong access to host memory takes only what the host has just
answered to it (R80, R334). DEDUCED (log 74). -/
def takesHere (who : Who) (g : Nat) (x : RdcGrain) : Bool := !(who.strong && isHostIa g) || x.want == who.asks

/-- Read bytes through the RDC. -/
def rdcRead (s : State) (who : Who) (ia len gr : Nat) : HRes :=
  match rdcAt s ia with
  | none => .retry (askGrain s who 0x01 .iS ia (freshGrain s ia gr))
  | some (g, x) =>
    match x.st with
    | .m | .o | .e | .s =>
      if takesHere who g x then
        .done ((s.setRdc g (some { x with want := none })).touchRdc g) ((x.data.drop (ia - g)).take len) (rdcW s g x) false
      else .retry (if x.st == .m || x.st == .o then writeBack s g x else s.setRdc g none)
    | _ => .retry s

/-- Make a grain writable here, or answer the state that asked for it. DEDUCED (log 19). -/
def rdcOwn (s : State) (who : Who) (ia gr : Nat) : Option (Nat × RdcGrain) × State :=
  match rdcAt s ia with
  | none => (none, askGrain s who 0x02 .iM ia (freshGrain s ia gr))
  | some (g, x) =>
    match x.st with
    | .m | .e =>
      if takesHere who g x || x.st == .m then (some (g, { x with want := none }), s.touchRdc g)
      else (none, s.setRdc g none)
    | .s => (none, askGrain s who 0x03 .sM g x)
    | .o => (none, writeBack s g x)
    | _ => (none, s)

/-- Store into an owned grain: Vsystem is max(Vdevice, X + 2) (R324), and in the AK class this die's leased copies are
recalled (R335). -/
def rdcPut (s : State) (who : Who) (ia cls gr : Nat) (arr : Word) (g : Nat) (x : RdcGrain) (d : List Byte)
    (m : List Bool := []) : State :=
  (s.setRdc g (some { x with st := .m, data := patchM x.data (ia - g) d m })).stampOwn who (sectorsOf ia gr d.length) cls arr []
    (x.floor + 2)

/-! Read-modify-write (R125). -/

/-- The new value of a location for an operation code of R125 at a size in bytes. -/
def rmwNew (code size : Nat) (old x y : Nat) : Nat :=
  let n := 8 * size
  let x := x % 2 ^ n
  match code with
  | 0 => x
  | 1 => (old + x) % 2 ^ n
  | 2 => old &&& x
  | 3 => old ||| x
  | 4 => old ^^^ x
  | 5 => if toS n x < toS n old then x else old
  | 6 => if toS n old < toS n x then x else old
  | 7 => min old x
  | 8 => max old x
  | 9 => if old = x then y % 2 ^ n else old
  | _ => fEnc fp32 .rne (fAdd .rne (fDec fp32 old) (fDec fp32 x))

/-- FLAGADD's update (R129): the new word, and whether it sets the word full. -/
def flagNew (old x : Nat) : Nat × Bool :=
  let lo := (old % 2 ^ 32 + x) % 2 ^ 32
  (old / 2 ^ 32 * 2 ^ 32 + lo, lo == old / 2 ^ 32)

/-! Scratchpads and staging slices (R82, R31). -/

/-- The place of scratchpad bytes, none when they lie beyond the part or the core is fenced (R32, R121). -/
def spadPlace (s : State) (l off len : Nat) : Option Nat :=
  let c := s.byLid l
  if off + len ≤ spadSize (s.core c) then some (spadKey s c off) else none

/-- The record of an access that is dropped: one of the peer or of the host has no core of this device. -/
def State.whoRecord (s : State) (who : Who) (code : Nat) (addr wher : Option Nat) : State :=
  if who.flit.isSome || who.host.isSome then
    s.report { code := code, sev := 2, src := 0, ctx := none, eng := 7, tix := 0, gstat := 0, addr := addr, data := none, wher := wher }
  else
    let r := coreRec s who.core code 2 addr
    s.report { r with wher := if wher.isSome then wher else r.wher }

/-- An access in flight that its target drops: the record names FENCED or RANGE_FAULT (R32, R121). -/
def State.dropAt (s : State) (who : Who) (l off : Nat) : State :=
  let t := s.byLid l
  if (s.core t).fenced then s.whoRecord who 0x0101 none (some ((s.core t).lid.toNat + 64 * t.toNat))
  else s.whoRecord who (causeCode .rangeFault) (some off) none

/-! The MMIO registers as reads see them (R375, R376). -/

/-- DEDUCED (log 41). -/
def mmioRead (s : State) (off : Nat) : Word :=
  let b := s.base
  let common : Option Word := match off with
    | 0x0 => some (w64 (0x7400 * 2 ^ 32))
    | 0x8 => some (w64 (b.err * 256 + (if b.ready then 8 else 0) + b.stg))
    | 0x10 => some b.fwver
    | 0x18 => some (if s.devnum then 1 else 0)
    | 0x100 => some b.chanok0
    | 0x108 => some b.chanok1
    | _ => if 0x4000 ≤ off ∧ off < 0x5000 ∧ b.stg ≠ 0 then some (Config.cxlReg off s.free) else none
  match common with
  | some v => v
  | none =>
    if b.stg < 3 then 0
    else match off with
      | 0x200 => b.cr.base | 0x208 => b.cr.size | 0x210 => b.crtail | 0x218 => b.cr.head
      | 0x240 => b.cq.base | 0x248 => b.cq.size | 0x250 => b.cq.head | 0x258 => b.cq.tail
      | 0x280 => b.eq.base | 0x288 => b.eq.size | 0x290 => b.eq.head | 0x298 => b.eq.tail
      | 0x300 => b.bwdog | 0x308 => b.migcfg
      | 0x400 => s.bridge.brstat0 | 0x408 => s.bridge.brstat1
      | 0x1000 => s.gtc
      | _ =>
        if 0x800 ≤ off ∧ off < 0x900 ∧ off % 8 = 0 then s.stgb[(off - 0x800) / 8]?.getD 0
        else if 0x10000 ≤ off ∧ off < 0x20000 ∧ off % 0x1000 = 8 then
          let x := s.ctxs[(off - 0x10000) / 0x1000]?.getD Ctx.reset
          w64 ((if x.isOpen then 2 ^ 63 else 0) + (s.sched.nodes.filter (fun e => e.2.ctx == (off - 0x10000) / 0x1000)).length * 2 ^ 32 + x.refused)
        else 0

/-- Bytes of MMIO registers. -/
def mmioBytes (s : State) (off len : Nat) : List Byte :=
  (List.range len).map (fun i => BitVec.ofNat 8 (leNat (((leBytes 8 (mmioRead s ((off + i) / 8 * 8)).toNat)).drop ((off + i) % 8))))

/-! Reading and writing any place, for a core or an engine of this device. -/

/-- Where an IA's home lies. -/
inductive HomeAt where
  | own | peer | host | mmio | peerUncached
  deriving DecidableEq, Repr

def homeAt (s : State) (ia : Nat) : HomeAt :=
  match ia / 2 ^ 48 with
  | 0 => if s.devnum then .peer else .own
  | 1 => if s.devnum then .own else .peer
  | 8 => .host
  | 15 => if bits ia 29 29 == devNat s then .mmio else .peerUncached
  | _ => .peerUncached

/-- The size code of a naturally aligned length, 7 for any other (R365). -/
def linkSize (ia len : Nat) : Nat :=
  if len = 8 ∧ ia % 8 = 0 then 3 else if len = 4 ∧ ia % 4 = 0 then 2 else if len = 2 ∧ ia % 2 = 0 then 1
  else if len = 1 then 0 else 7

/-- The byte mask of len bytes at an IA inside its 64-byte block (R364). -/
def linkMask (ia len : Nat) : BitVec 64 := BitVec.ofNat 64 ((2 ^ len - 1) * 2 ^ (ia % 64))

/-- A read sent to the peer as ReqStrong (R364, R365). -/
def strongRead (ia len : Nat) : Flit :=
  let z := linkSize ia len
  { flit0 with msg := 0x05, ia := if z = 7 then ia / 64 * 64 else ia, opf := BitVec.ofNat 16 (z * 64 + 0x0F),
               mask := if z = 7 then linkMask ia len else 0 }

/-- A write sent to the peer as ReqWT (R324). -/
def linkWrite (ia : Nat) (d : List Byte) (m : List Bool := []) : Flit :=
  { flit0 with msg := 0x04, ia := ia / 64 * 64,
               mask := linkMask ia d.length &&& (if m.isEmpty then BitVec.allOnes 64 else BitVec.ofNat 64 (packBool m * 2 ^ (ia % 64))),
               data := List.replicate (ia % 64) 0 ++ d ++ List.replicate (64 - ia % 64 - d.length) 0 }

/-- Read an IA, at its home or through the RDC. -/
def readIa (s : State) (who : Who) (a len gr : Nat) : HRes :=
  match homeAt s a with
  | .own => ownRead s who a len gr
  | .mmio => .done s (mmioBytes s (a % 2 ^ 24) len) 0 false
  | .peer | .host => rdcRead s who a len gr
  | .peerUncached => .retry s

/-- Read a place of this device, or a remote line through the RDC. A heap object without frames reads as zero (R227); a
scratchpad that no longer has the bytes drops the access with a record (R32, R121). -/
def readAt (s : State) (who : Who) (loc : Loc) (len gr : Nat) : HRes :=
  match loc with
  | .heap x o =>
    if (s.obj x).st = .absent then .done s (List.replicate len 0) 0 false
    else (match (s.obj x).place o with | some a => readIa s who a len gr | none => .retry s)
  | .spad l o =>
    (match spadPlace s l o len with
     | some k => .done s (s.readMem k len) (leaseAt s loc.key 0 len).w false
     | none => .done (s.dropAt who l o) (List.replicate len 0) 0 false)
  | .stg sl o => .done s (s.readMem (stgKey sl o) len) (leaseAt s loc.key 0 len).w false
  | .ia a => readIa s who a len gr

/-- Read n sectors of 32 bytes from an aligned place on. -/
def readSectors (s : State) (who : Who) (l : Loc) (gr : Nat) : Nat → HRes
  | 0 => .done s [] 0 false
  | n + 1 =>
    match readAt s who l 32 gr with
    | .done s d w p =>
      (match readSectors s who (l.plus 32) gr n with
       | .done s e v q => .done s (d ++ e) (wmax w v) (p || q)
       | r => r)
    | r => r

/-- A store with stamps at one time, at sectors that keep no leases (R82). -/
def State.settleFlat (s : State) (who : Who) (secs : List Nat) (v : Word) : State :=
  s.settle { who := who, secs := secs, stamps := flatStamps v, floor := 0, dirs := [], ak := false, left := [] }

/-- A grain of the RDC that this die owns is written by f; else the state that asks for it. -/
def rdcWith (s : State) (who : Who) (a gr : Nat) (f : State → Nat → RdcGrain → HRes) : HRes :=
  match rdcOwn s who a gr with
  | (some (g, x), s) => f s g x
  | (none, s) => .retry s

/-- Store at an IA. -/
def writeIa (s : State) (who : Who) (a : Nat) (cls gr : Nat) (arr : Word) (d : List Byte) (m : List Bool := []) : HRes :=
  let put : HRes := rdcWith s who a gr (fun s g x => .done (rdcPut s who a cls gr arr g x d m) [] 0 false)
  let through : HRes := match s.request (linkWrite a d m) who.core who.eng who.seq 0 cls with
    | some s => .done s [] 0 false
    | none => .retry s
  match homeAt s a with
  | .own => ownWrite s who a cls gr arr d m
  | .mmio =>
    .done ((s.whoRecord who (causeCode .permFault) (some a) none).settleFlat who [] (arr + 1)) [] 0 false
  | .host => put
  | .peer => (match rdcAt s a with | some (_, x) => if x.st == .s && x.cc then through else put | none => put)
  | .peerUncached => through

/-- Store the bytes of a mask (empty: all) at a place. done answers with the store's stamps already settled for who. -/
def writeAt (s : State) (who : Who) (loc : Loc) (cls gr : Nat) (arr : Word) (d : List Byte) (m : List Bool := []) : HRes :=
  match loc with
  | .spad l o =>
    let s := s.settleFlat who (sectorsOf loc.key 0 d.length) (arr + 1)
    (match spadPlace s l o d.length with
     | some k => .done (s.writeMemM k d m) [] 0 false
     | none => .done (s.dropAt who l o) [] 0 false)
  | .stg sl o => .done ((s.writeMemM (stgKey sl o) d m).stampOwn who (sectorsOf loc.key 0 d.length) cls arr []) [] 0 false
  | .ia a => writeIa s who a cls gr arr d m
  | .heap x o =>
    let t := if (s.obj x).st = .absent then s.firstTouch x else some s
    match t with
    | none => .held s
    | some s => (match (s.obj x).place o with | some a => writeIa s who a cls gr arr d m | none => .retry s)

/-- One indivisible update of a word at its home: old value to the answer, f giving the new one (R81). -/
def updateAt (s : State) (who : Who) (loc : Loc) (len cls gr : Nat) (arr : Word) (f : Nat → Nat) : HRes :=
  let update (s : State) (loc : Loc) : HRes :=
    match readAt s who loc len gr with
    | .done s d w p =>
      (match writeAt s { who with ret := w64 (leNat d), retw := w } loc cls gr arr (leBytes len (f (leNat d))) with
       | .done s _ _ _ => .done s d w p
       | r => r)
    | r => r
  let atIa (s : State) (a : Nat) : HRes :=
    match homeAt s a with
    | .own => ownUpdate s who a len cls gr arr f
    | .host | .peer =>
      rdcWith s who a gr (fun s g x =>
        let d := (x.data.drop (a - g)).take len
        .done (rdcPut s { who with ret := w64 (leNat d), retw := rdcW s g x } a cls gr arr g x (leBytes len (f (leNat d)))) d
          (rdcW s g x) false)
    | _ => update s (.ia a)
  match loc with
  | .ia a => atIa s a
  | .heap x o =>
    let t := if (s.obj x).st = .absent then s.firstTouch x else some s
    (match t with
     | none => .held s
     | some s => (match (s.obj x).place o with | some a => atIa s a | none => .retry s))
  | _ => update s loc

end Sys2Proof.Machine
end

