-- ==== Sys2Proof/Machine/Flags.lean ====
section
/-! DEFINITION. The horizon registers, their pending bits and fences (R75, R77, R128, R140), and the conditions of the
compare instructions (R115). -/

namespace Sys2Proof.Machine

open Sys2Proof

/-- Whether an access writes: it feeds the horizons (R75). -/
def AccOp.writes : AccOp → Bool
  | .store _ | .storeM .. | .rmw .. | .ste _ | .stf _ | .flagadd _ | .vste .. => true
  | _ => false
/-- Whether an access fixes a value for its core: a fence waits for it (R77). -/
def AccOp.reads : AccOp → Bool
  | .load | .ldf _ | .feq | .wload .. | .vldf .. | .feclr _ => true
  | .rmw _ _ _ _ ret => ret
  | .flagadd _ => true
  | _ => false

/-- The accesses of a core that are issued and not performed, in the queue of the core and at the homes. -/
def unperformed (s : State) (c : CoreId) : List Acc :=
  s.homeQ.filter (fun a => a.core == c) ++ (s.core c).pend

/-- The stamps of store n of a core go to a saved context, or to a core where it runs again (R89). -/
def heldElsewhere (s : State) (c : CoreId) (n : Nat) : Bool :=
  let has (k : Core) : Bool := k.stamps.any (fun e => e.core == c && e.seq == n)
  s.sched.saved.any (fun v => has v.core) || coreIds.any (fun d => d != c && has (s.core d))
/-- The side-log entries of a core's own iteration: those of an iteration that has left stay in the memory unit (R89). -/
def ownSide (s : State) (c : CoreId) : List Acc := (s.core c).sidelog.filter (fun a => !heldElsewhere s c a.seq)

/-- Whether something that feeds H.uo (uo = true) or H.core to H.system (uo = false) is outstanding (R75, R88). DEDUCED (log 22). A
store counts from its issue on. DESIGN CHOICE (log 63). -/
def feeding (s : State) (c : CoreId) (uo : Bool) : Bool :=
  let k := s.core c
  let cls (n : Nat) : Bool := (n == 2) == uo
  k.stamps.any (fun e => cls e.cls) || (ownSide s c).any (fun a => cls a.cls)
    || k.pend.any (fun a => a.op.writes && cls a.cls)
    || (k.mq ++ k.cq ++ k.gq ++ k.xq).any (fun o => o.uoOnly == uo)

/-- Which horizons a scope code of R127 waits on: H.core to H.system by number, 4 for H.uo. -/
def scopeSet : Nat → List Nat
  | 0 => [0] | 1 => [1] | 2 => [2] | 3 => [3] | 4 => [3, 4] | _ => [4]

def hzGet (h : Horizons) : Nat → Word
  | 0 => h.core | 1 => h.cluster | 2 => h.device | 3 => h.system | _ => h.uo
def hzSet (h : Horizons) (n : Nat) (v : Word) : Horizons :=
  match n with
  | 0 => { h with core := v } | 1 => { h with cluster := v } | 2 => { h with device := v }
  | 3 => { h with system := v } | _ => { h with uo := v }

def hzPending (s : State) (c : CoreId) (n : Nat) : Bool := feeding s c (n == 4)

/-- The time a fence of a scope waits for (R77). -/
def fenceTime (k : Core) (scope : Nat) : Word :=
  (scopeSet scope).foldl (fun h n => wmax h (hzGet k.hz n)) k.obs

/-- FenceRetires of R77, for the accesses numbered below seq; an entry of the side log is waited for at every scope (R85).
DEDUCED (log 13). -/
def fenceReady (s : State) (c : CoreId) (scope seq : Nat) : Bool :=
  (unperformed s c).all (fun a => !a.op.reads || seq ≤ a.seq)
    && (scopeSet scope).all (fun n => !hzPending s c n)
    && (ownSide s c).all (fun a => seq ≤ a.seq) && (fenceTime (s.core c) scope).toNat ≤ s.gtc.toNat

/-- The effect of a fence's retirement (R77). -/
def Core.retireFence (k : Core) (scope : Nat) : Core :=
  let h := fenceTime k scope
  { k with hz := (scopeSet scope).foldl (fun z n => hzSet z n h) k.hz, obs := 0 }

/-- The granules with a vector load on the way (R25). -/
def pendingGranules (k : Core) : List Nat :=
  (k.landing.filter (·.vec)).map (·.off) ++ k.groups.filterMap (fun g =>
    match g.dest with | .region o _ => some o | _ => none)
/-- A vector load is on its way to one of n bytes of the register region. -/
def granulePending (k : Core) (off n : Nat) : Bool := (pendingGranules k).any (fun o => o < off + n && off < o + 256)

/-- The condition of CMP and CMPI (R115). -/
def cmpCond (f : Nat) (a b : Word) : Bool :=
  match f with
  | 0 => a == b
  | 1 => a != b
  | 2 => a.slt b
  | 3 => !a.slt b
  | 4 => a.ult b
  | 5 => !a.ult b
  | _ => (a &&& b) != 0

/-- The effect of F[5:3] on the predicate (R115). -/
def cmpCombine (mode : Nat) (p : Pred) (c : Bool) : Pred :=
  match mode with
  | 0 => predOf c
  | 1 => p &&& predOf c
  | _ => p ||| predOf c

end Sys2Proof.Machine
end

