-- ==== Sys2Proof/Machine/Serve.lean ====
section
/-! DEFINITION. Accesses from issue to completion (R70, R71, R80 to R85, R124): the order rules, forwarding, sending a
store, serving the queues of the homes, and requests to the peer (R324, R365). -/

namespace Sys2Proof.Machine

open Sys2Proof

/-- Where the bytes of a place lie now: a heap object that has got its frames has an IA (R227). -/
def State.now (s : State) (l : Loc) : Loc :=
  match l with
  | .heap x o => if (s.obj x).st = .absent then l else (match (s.obj x).place o with | some a => .ia a | none => l)
  | l => l
def State.keyNow (s : State) (l : Loc) : Nat := (s.now l).key

/-- Two runs of bytes share one (R84). -/
def bytesMeet (a n b m : Nat) : Bool := a < b + m && b < a + n
/-- Two accesses share a byte. -/
def overlaps (s : State) (a b : Acc) : Bool := bytesMeet (s.keyNow a.loc) a.len (s.keyNow b.loc) b.len

def whoOf (a : Acc) : Who := { core := a.core, eng := a.eng, seq := a.seq, strong := a.strong, cyc := a.cyc }

/-- Whether an access writes its byte i. -/
def AccOp.putsByte (o : AccOp) (i : Nat) : Bool :=
  match o with
  | .storeM _ m => m.getD i false
  | .vste m _ => m.testBit (i / 8)
  | o => o.writes

/-- The value a write gives its byte i, none when only the home knows it (R71). -/
def knownByte (a : Acc) (i : Nat) : Option Byte :=
  match a.op with
  | .store d | .storeM d _ | .vste _ d => d[i]?
  | .ste v | .stf v => (leBytes 8 v.toNat)[i]?
  | _ => none

/-- Older accesses of the core: issued before a, not yet performed, with the side log. -/
def olderThan (s : State) (a : Acc) : List Acc :=
  (unperformed s a.core ++ (s.core a.core).sidelog).filter (fun e => e.seq < a.seq)

/-- The SO rule of R83 for an access with a number: after every earlier SO access, and after the Vsystem of earlier SO
stores, those of engine operations with them. -/
def soAfter (s : State) (c : CoreId) (seq : Nat) : Bool :=
  let k := s.core c
  (unperformed s c ++ k.sidelog).all (fun e => seq ≤ e.seq || e.cls != 0)
    && k.stamps.all (fun e => e.core != c || e.cls != 0 || seq ≤ e.seq)
    && (k.mq ++ k.cq ++ k.gq ++ k.xq).all (fun o => !o.so || seq < o.id) && k.soFloor.toNat ≤ s.gtc.toNat
def soReady (s : State) (a : Acc) : Bool := a.cls != 0 || soAfter s a.core a.seq

/-- An access of S behind vector instructions that have not passed their start checks (R155). -/
def isAhead (s : State) (a : Acc) : Bool := a.eng == .s && (s.core a.core).vq.any (fun e => e.seq ≤ a.seq)
/-- What such an access does at its home only once they have: t, else s. -/
def State.unlessAhead (s t : State) (a : Acc) : State := if isAhead s a then s else t

/-- The order table of R71 for a load. A load over bytes that an AMO or a RED of the core will write waits for the home. DESIGN CHOICE (log 64). -/
def loadReady (s : State) (a : Acc) : Bool :=
  soReady s a && (!isAhead s a || a.cls != 0) && (s.core a.core).vq.all (fun e => a.seq < e.seq || !e.holds) && (olderThan s a).all (fun e =>
    !overlaps s e a || (if e.op.writes then !a.strong && (knownByte e 0).isSome else !(a.strong && e.strong)))

/-- Bytes of a weak load that earlier writes of the core supply, by position in the access's group (R71). -/
def forwardsOf (s : State) (a : Acc) : List (Nat × Byte) :=
  let old := (olderThan s a).filter (fun e => e.op.writes && overlaps s e a)
  (List.range a.len).filterMap (fun i =>
    let key := s.keyNow a.loc + i
    let at_ (e : Acc) : Nat := s.keyNow e.loc
    let best := old.foldl (fun (b : Option Acc) e =>
      if at_ e ≤ key && key < at_ e + e.len && e.op.putsByte (key - at_ e) then
        (match b with | some x => if x.seq < e.seq then some e else b | none => some e) else b) none
    best.bind (fun e => (knownByte e (key - at_ e)).map (fun v => (i, v))))

/-- Words of one FECLR are emptied in ascending order (R124). -/
def isNextWord (e a : Acc) : Bool := match a.op with | .feclr _ => e.grp == a.grp | _ => false

/-- The order table of R71 for a store, an atomic, a reduction or a full/empty write. -/
def storeReady (s : State) (a : Acc) : Bool :=
  soReady s a && !isAhead s a
    && (s.core a.core).pend.all (fun e => a.seq ≤ e.seq || !(overlaps s e a || isNextWord e a))
    && s.homeQ.all (fun e => e.core != a.core || a.seq ≤ e.seq || !overlaps s e a || (e.op.writes && e.waiting.isNone))
    && (s.core a.core).sidelog.all (fun e => a.seq ≤ e.seq || !overlaps s e a)

/-- An access joins the queue of its home (R70). -/
def State.joinHome (s : State) (a : Acc) : State :=
  let (t, n, s) := s.arrive 1
  { s with homeQ := s.homeQ ++ [{ a with arr := t, cyc := n }] }

/-- PERFORM_A_LOAD: from a live copy, or by joining the queue of its home (R70). -/
def State.performLoad (s : State) (c : CoreId) (i : Nat) (copy : Bool) : State :=
  let k := s.core c
  match k.pend[i]? with
  | none => s
  | some a =>
    match a.op with
    | .load | .wload .. =>
      if !loadReady s a then s
      else
        let fwd := if a.strong || a.op != AccOp.load then [] else forwardsOf s a
        let gone := s.setCore c { k with pend := delNth k.pend i }
        if fwd.length == a.len && a.op == AccOp.load then
          gone.answer { a with fwd := fwd } (List.replicate a.len 0) 0 false
        else if copy then
          match (if a.strong || a.cls == 0 || a.op != AccOp.load then none else copyRead s k (s.keyNow a.loc) a.len) with
          | some (d, w) => gone.answer { a with fwd := fwd } d w false
          | none => s
        else gone.joinHome { a with fwd := fwd }
    | _ => s

/-- The core's own live L1 copies take the bytes of a store that is sent (R70); those of an atomic's bytes are dropped,
since only the home knows them (R76). -/
def Core.ownCopies (k : Core) (s : State) (a : Acc) : Table Copy :=
  match a.op with
  | .store d => copyWrite s k.copies (s.keyNow a.loc) d []
  | .storeM d m => copyWrite s k.copies (s.keyNow a.loc) d m
  | .rmw .. => dropCopies k.copies (s.keyNow a.loc) a.len
  | _ => k.copies

/-- SEND_A_STORE (R70): the store joins its home's queue, a stamp-buffer entry opens, and the core's own live L1 copy
takes the bytes. -/
def State.sendStore (s : State) (c : CoreId) (i : Nat) : State :=
  let k := s.core c
  match k.pend[i]? with
  | none => s
  | some a =>
    match a.op with
    | .load | .wload .. => s
    | _ =>
      if !storeReady s a || (a.op.writes && k.stamps.length ≥ 64) then s
      else
        let k := { k with
          pend := delNth k.pend i,
          stamps := if a.op.writes then k.stamps ++ [{ core := c, seq := a.seq, cls := a.cls, sc := a.sc, stamps := none }]
            else k.stamps,
          copies := k.ownCopies s a }
        (s.setCore c k).joinHome a

/-- RETURN_A_STAMP (R70): the entry closes and the horizons rise; a sequentially consistent store waits for its
Vsystem (R86). -/
def State.returnStamp (s : State) (c : CoreId) (i : Nat) : State :=
  let k := s.core c
  match k.stamps[i]? with
  | some e =>
    (match e.stamps with
     | some st =>
       let k := { (k.raiseHorizons e.cls st) with stamps := delNth k.stamps i }
       let k := if e.cls == 0 then { k with soFloor := wmax k.soFloor st.system } else k
       let k := match k.wait with
         | some (.home n w) => if e.sc && n == e.seq then { k with wait := some (.scDone st.system w) } else k
         | _ => k
       s.setCore c k
     | none => s)
  | none => s

/-- The scratchpad of a logical id that a migration is moving: the NoC holds what is addressed to it (R295). -/
def isMoving (s : State) : Loc → Bool
  | .spad l _ => s.sched.moves.any (fun m => (s.core m.src).lid.toNat == l || (s.core m.dst).lid.toNat == l)
  | _ => false

/-! The order of the queues (R31, R69, R80, R329). -/

/-- The full/empty words of a mask (R174): all full, or all empty. -/
def wordsAre (s : State) (key mask : Nat) (full : Bool) : Bool :=
  (List.range 32).all (fun i => !mask.testBit i || isFull s (key + 8 * i) == full)
def State.setWords (s : State) (key mask : Nat) (full : Bool) : State :=
  (List.range 32).foldl (fun s i => if mask.testBit i then s.setFull (key + 8 * i) full else s) s
/-- Write the words of a mask from 256 bytes. -/
def maskBytes (mask : Nat) : List Bool := (List.range 256).map (fun i => mask.testBit (i / 8))

/-- Whether a full/empty access finds its word in the state it needs (R31, R174). -/
def feReady (s : State) (op : AccOp) (key : Nat) : Bool :=
  match op with
  | .ldf _ => isFull s key
  | .ste _ => !isFull s key
  | .vldf m _ => wordsAre s key m true
  | .vste m _ => wordsAre s key m false
  | _ => true
/-- The same for an operation of the peer (R365). -/
def peerFeReady (s : State) (opn key : Nat) : Bool :=
  if opn = 0x11 || opn = 0x12 then isFull s key else if opn = 0x13 then !isFull s key else true
def opn (f : Flit) : Nat := f.opf.toNat % 32
def opSize (f : Flit) : Nat := match bits f.opf.toNat 8 6 with | 0 => 1 | 1 => 2 | 2 => 4 | _ => 8
def isBlock (f : Flit) : Bool := bits f.opf.toNat 8 6 == 7

/-- What waits in the queue of a home: its bytes, its cycle, its place among the arrivals of that, and its core. stuck says
that nothing waits for it; atWord that only accesses to its bytes do. -/
structure Claim where
  loc : Loc
  len : Nat
  cyc : Nat
  rank : Nat
  core : Option CoreId
  stuck : Bool
  atWord : Bool
  deriving DecidableEq, Repr

/-- The order S, V, M, C, G, X of R80. -/
def engRank : Eng → Nat
  | .s => 0 | .v => 1 | .m => 2 | .c => 3 | .g => 4 | .x => 5

/-- A line of this device that is reserved holds up nothing but its own request (R328). -/
def heldByResv (s : State) (l : Loc) (len : Nat) : Bool :=
  match l with | .ia a => homeAt s a == .own && lineReserved s a len | _ => false

/-- An access of this device. One that waits at its word holds its place there (R31). -/
def accClaim (s : State) (a : Acc) : Claim :=
  let l := s.now a.loc
  let ready := match l with
    | .spad n o => (match spadPlace s n o a.len with | some key => feReady s a.op key | none => false)
    | _ => false
  { loc := l, len := a.len, cyc := a.cyc, rank := 6 * (s.core a.core).lid.toNat + engRank a.eng, core := some a.core,
    stuck := a.asked || (a.waiting.isSome && !ready) || heldByResv s l a.len, atWord := a.waiting.isSome }

/-- A message of the peer. -/
def linkClaim (s : State) (x : LinkWait) : Claim :=
  let f := x.flit
  let gone : Claim := { loc := .ia f.ia, len := 0, cyc := x.cyc, rank := 1000, core := none, stuck := true, atWord := false }
  let here (l : Loc) (n : Nat) (stuck fe : Bool) : Claim :=
    { loc := l, len := n, cyc := x.cyc, rank := if f.port then 1001 else 1000, core := none,
      stuck := stuck || heldByResv s l n, atWord := fe }
  match f.msg.toNat with
  | 0x01 | 0x02 | 0x03 => here (.ia (grBase f.ia f.grain.toNat)) (grSize f.grain.toNat) false false
  | 0x04 => (match locOfIa s f.ia 0 with | some l => here l 64 false false | none => gone)
  | 0x05 =>
    (match locOfIa s f.ia 0 with
     | none => gone
     | some l =>
       let fe := 0x11 ≤ opn f
       let ready := match l with
         | .spad n o => (match spadPlace s n o 8 with | some key => peerFeReady s (opn f) key | none => true)
         | _ => true
       here l (if isBlock f then 64 else opSize f) (fe && !ready) fe)
  | _ => gone

def lineBase (h : HostMsg) : Nat := h.ia / 64 * 64
def lineOfReq : HostReq → Nat
  | .memRd h | .memRdData h | .memInv h | .memWr h | .snoop h => lineBase h
/-- A request of the host. -/
def hostClaim (s : State) (x : HostWait) : Claim :=
  let ia := lineOfReq x.req
  { loc := .ia ia, len := 64, cyc := x.cyc, rank := 1002, core := none, atWord := false,
    stuck := x.since.isSome || heldByResv s (.ia ia) 64 || (match x.req with | .snoop _ => true | _ => false) }

/-- Everything that waits at the homes: on-die accesses, messages of the peer, requests of the host. -/
def claims (s : State) : List Claim :=
  s.homeQ.map (accClaim s) ++ s.bridge.linkHeld.map (linkClaim s) ++ s.bridge.hostWait.map (hostClaim s)

/-- One queue for each scratchpad (R69); the hash that gives a line its slice is not stated, so elsewhere one for each
512-byte line. DESIGN CHOICE (log 9). -/
def oneQueue (a : Loc) (n : Nat) (b : Loc) (m : Nat) : Bool :=
  match a, b with
  | .spad l _, .spad k _ => l == k
  | .spad .., _ | _, .spad .. => false
  | _, _ => a.key / 512 ≤ (b.key + m - 1) / 512 && b.key / 512 ≤ (a.key + n - 1) / 512

/-- e is taken before a at their home; listed says that it joined first. Accesses of one core to one byte keep their
order (R71). -/
def Claim.isBefore (e a : Claim) (listed : Bool) : Bool :=
  if e.core.isSome && e.core == a.core && bytesMeet e.loc.key e.len a.loc.key a.len then listed
  else if e.cyc != a.cyc then e.cyc < a.cyc
  else if e.rank != a.rank then e.rank < a.rank
  else listed
def Claim.blocks (e a : Claim) (listed : Bool) : Bool :=
  !e.stuck && (if e.atWord then bytesMeet e.loc.key e.len a.loc.key a.len else oneQueue e.loc e.len a.loc a.len)
    && e.isBefore a listed

/-- The n-th of what waits at the homes heads its queue. -/
def headsQueue (s : State) (n : Nat) : Bool :=
  let l := claims s
  match l[n]? with
  | none => false
  | some a => l.zipIdx.all (fun x => x.2 == n || !x.1.blocks a (x.2 < n))

/-- Entry i of the home queues may be served (R31, R70, R74, R80). DESIGN CHOICE (log 9). -/
def mayServe (s : State) (i : Nat) : Bool :=
  match s.homeQ[i]? with
  | none => false
  | some a => !a.asked && !isMoving s a.loc && a.arr.toNat ≤ s.gtc.toNat && !stampsPending s (s.keyNow a.loc) a.len
      && headsQueue s i

def State.dropEntry (s : State) (i : Nat) : State := { s with homeQ := delNth s.homeQ i }
def State.setEntry (s : State) (i : Nat) (a : Acc) : State := { s with homeQ := setNth s.homeQ i a }

def ctxOf (s : State) (c : CoreId) : Option (Nat × Nat) := (s.core c).iter.map (fun i => (i.ctx, i.node))

/-- An access that meets a page fault at its home: loads are held, stores and reductions go to the side log (R353). -/
def State.faulted (s : State) (i : Nat) (a : Acc) (note : Bool) : State :=
  let ia := match a.loc with | .ia x => x | l => l.key
  let logs := match a.op with | .store _ | .storeM .. => true | .rmw _ _ _ _ ret => !ret | _ => false
  let s := if note then s.noteFault ia (ctxOf s a.core) (if logs then 1 else 0) else s
  if logs then
    let k := s.core a.core
    if k.sidelog.length ≥ 32 then s
    else
      (s.setCore a.core { k with sidelog := k.sidelog ++ [a], stamps := k.stamps.filter (fun e => e.seq != a.seq) }).dropEntry i
  else if a.waiting.isSome then s
  else match a.op with
    | .fill _ => s.dropEntry i
    | _ => if note then s.setEntry i { a with waiting := some s.gtc } else s

/-- The bytes of a store and the mask of those it stores, empty for all. -/
def storeOf : AccOp → Option (List Byte × List Bool)
  | .store d => some (d, [])
  | .storeM d m => some (d, m)
  | _ => none

/-- The bytes that fill copies: a grain at its home, as far as it can be read without messages. -/
def grainBytes (s : State) (key gr : Nat) : Option (Nat × List Byte × Word) :=
  let b := grBase key gr
  match homeAt s key with
  | .own => (match ownRead s { core := 0, eng := .s, seq := 0 } b (grSize gr) gr with
      | .done _ d w false => some (b, d, w)
      | _ => none)
  | .peer | .host => (match rdcAt s key with
      | some (g, x) => (match x.st with | .m | .o | .e | .s => some (g, x.data, rdcW s g x) | _ => none)
      | none => none)
  | _ => none

/-- The core's own stores on the way to their home lie over the copies it fills; sectors that an atomic or an engine will
change stay out (R76, R88). -/
def ownOver (s : State) (c : CoreId) (t : Table Copy) : Table Copy :=
  ((s.core c).sidelog ++ s.homeQ.filter (fun a => a.core == c)).foldl (fun t a =>
    let key := s.keyNow a.loc
    if !a.op.writes then t
    else match (if engRank a.eng < 2 then storeOf a.op else none) with
      | some (d, m) => copyWrite s t key d m
      | none => dropCopies t key a.len) t

/-- Fill the core's copies of a grain and grant the lease (R72). -/
def State.fillCopies (s : State) (c : CoreId) (loc : Loc) (cls gr : Nat) (pb : Bool) : State :=
  match s.now loc with
  | .ia key =>
    let k := s.core c
    let isView := match leafOf s key with | some (_, l) => homeAt s key == .own && lView l | none => false
    if cls == 0 || isView || (k.pbcache == 0 && !pb) then s
    else match grainBytes s key gr with
      | some (b, d, w) =>
        let n := d.length / 32
        let s := s.grantLease ((List.range n).map (fun i => b / 32 + i)) (clusterOf c) (cls == 3)
        s.setCore c { k with copies := ownOver s c (fillSectors k.copies (b / 32) d w (s.gtc + s.leaseLen) pb n) }
      | none => s
  | _ => s

/-- The operation field of a ReqStrong for an access (R365), with its size code, value and replacement. -/
def strongFlit (a : Acc) (ia : Nat) : Flit :=
  let mods := (if a.sc then 2048 else 0) + a.mods.toNat * 512
  let f (opn size : Nat) (nrv : Bool) (v y : Word) : Flit :=
    { flit0 with msg := 0x05, ia := ia, grain := BitVec.ofNat 2 a.gr, val := v, repl := y,
                 opf := BitVec.ofNat 16 (mods + size * 64 + (if nrv then 32 else 0) + opn) }
  match a.op with
  | .load | .wload .. => let q := strongRead ia a.len; { q with opf := q.opf ||| BitVec.ofNat 16 mods }
  | .store d => f 0x10 (linkSize ia d.length) true (w64 (leNat d)) 0
  | .rmw code size x y ret => f code (if size = 4 then 2 else 3) (!ret) x y
  | .ldf c => f (if c then 0x12 else 0x11) 3 false 0 0
  | .ste v => f 0x13 3 true v 0
  | .stf v => f 0x14 3 true v 0
  | .feq => f 0x15 3 false 0 0
  | .feclr _ => f 0x16 3 true 0 0
  | .flagadd x => f 0x17 3 false (w64 x) 0
  | .storeM .. | .fill _ | .vldf .. | .vste .. => f 0x0F 3 false 0 0

/-- Whether an access travels to the peer as ReqStrong: strong accesses to peer memory, and reads and strong accesses
of the peer's scratchpads, staging and registers (R324, R364). -/
def goesStrong (s : State) (a : Acc) : Option Nat :=
  match a.loc with
  | .ia x =>
    (match homeAt s x with
     | .peer => if a.strong then some x else none
     | .peerUncached => (match a.op with
         | .store _ => if a.strong then some x else none
         | .storeM .. | .fill _ | .vldf .. | .vste .. => none
         | _ => some x)
     | _ => none)
  | _ => none

/-- A weak store that travels to the peer as ReqWT (R324, R332): to a line of a CC page held shared, and to the peer's
scratchpads, staging and registers. It is performed when its CmpWT returns. -/
def goesWt (s : State) (a : Acc) : Option Flit :=
  match a.loc, storeOf a.op with
  | .ia x, some (d, m) =>
    (match homeAt s x with
     | .peer => if a.strong then none else (match rdcAt s x with
         | some (_, r) => if r.st == .s && r.cc then some (linkWrite x d m) else none
         | none => none)
     | .peerUncached => if a.strong then none else some (linkWrite x d m)
     | _ => none)
  | _, _ => none

/-- V's head instruction waits for this access: VLDF and VSTE pass their start checks once performed (R155). -/
def State.vecPerformed (s : State) (a : Acc) : State :=
  match a.op with
  | .vldf .. | .vste .. => s.modCore a.core (fun k => { k with vq := k.vq.filter (fun e => e.fe != some a.seq) })
  | _ => s

/-- The sectors of a full/empty write. -/
def feSecs (key : Nat) : AccOp → List Nat
  | .vste m _ => (((List.range 32).filter m.testBit).map (fun i => (key + 8 * i) / 32)).eraseDups
  | _ => [key / 32]

/-- Perform a full/empty access at its word (R124, R129, R174) and answer it. -/
def State.performFe (s : State) (a : Acc) (key : Nat) : State :=
  let old := s.readMem key 8
  let st := s.settleFlat (whoOf a) (feSecs a.loc.key a.op) (a.arr + 1)
  let w := (leaseAt s a.loc.key 0 a.len).w
  match a.op with
  | .ldf c => (if c then s.setFull key false else s).answer a old w false
  | .ste v | .stf v => ((st.writeMem key (leBytes 8 v.toNat)).setFull key true).partDone a
  | .feclr n => ((List.range n).foldl (fun s i => s.setFull (key + 8 * i) false) s).partDone a
  | .feq => s.answer a [if isFull s key then 1 else 0] w false
  | .flagadd x =>
    let (v, f) := flagNew (leNat old) x
    let st := st.writeMem key (leBytes 8 v)
    (if f then st.setFull key true else st).answer a old w false
  | .vldf m c => ((if c then s.setWords key m false else s).answer a (s.readMem key 256) w false).vecPerformed a
  | .vste m d =>
    let st := { st with mem := writeMasked st.mem key d (maskBytes m) }
    ((st.setWords key m true).partDone a).vecPerformed a
  | _ => s

/-- A FLAGSET destination that failed (R130). DEDUCED (log 57). -/
def State.failFlag (s : State) (a : Acc) (l : Nat) : State :=
  s.modCore a.core (fun k => { k with groups := k.groups.map (fun g =>
    match g.dest with
    | .flags _ => if g.id == a.grp then { g with buf := leBytes 8 (leNat g.buf ||| 2 ^ l) } else g
    | _ => g) })

/-- A full/empty access ends without an effect: zero data, its stamps closed. -/
def State.voidFe (s : State) (a : Acc) (l : Nat) : State :=
  let s := s.giveStamps (whoOf a) (flatStamps (a.arr + 1))
  match a.op with
  | .ldf _ | .flagadd _ => s.answer a (List.replicate 8 0) 0 false
  | .feq => s.answer a [0] 0 false
  | .vldf .. => (s.answer a (List.replicate 256 0) 0 false).vecPerformed a
  | .vste .. => (s.partDone a).vecPerformed a
  | .stf _ => (s.failFlag a l).partDone a
  | _ => s.partDone a

/-- A full/empty access whose target dropped it in flight (R32, R121). -/
def State.dropFe (s : State) (a : Acc) (l o : Nat) : State := (s.dropAt (whoOf a) l o).voidFe a l

/-- Serve a full/empty access: perform it, or let it wait at the word. -/
def State.serveFe (s : State) (i : Nat) (a : Acc) : State :=
  match a.loc with
  | .spad l o =>
    (match spadPlace s l o a.len with
     | none => (s.dropEntry i).dropFe a l o
     | some key =>
       if feReady s a.op key then (s.dropEntry i).performFe a key
       else if a.waiting.isSome then s else s.setEntry i { a with waiting := some s.gtc })
  | _ => if a.waiting.isSome then s else s.setEntry i { a with waiting := some s.gtc }

/-- A load or a window fill of a view, which the layout engine serves (R274). -/
def isViewLoad (s : State) (a : Acc) : Bool :=
  match a.op, s.now a.loc with
  | .load, .ia ia | .wload .., .ia ia => homeAt s ia == .own && (match leafOf s ia with | some (_, l) => lView l | none => false)
  | _, _ => false

/-- An older write of the same core to the same bytes is in the side log: this one follows it (R71, R85). -/
def behindLog (s : State) (a : Acc) : Bool :=
  a.op.writes && (s.core a.core).sidelog.any (fun e => e.seq < a.seq && overlaps s e a)
/-- An earlier word of the same FECLR has not been asked for (R365). -/
def behindWord (s : State) (i : Nat) (a : Acc) : Bool :=
  (s.homeQ.take i).any (fun e => e.core == a.core && !e.asked && isNextWord e a)

/-- Send an access to the peer; it keeps its place until it is answered. -/
def State.askPeer (s : State) (i : Nat) (a : Acc) (f : Flit) : State :=
  match s.request f a.core a.eng a.seq a.pos with
  | some s => s.setEntry i { a with asked := true }
  | none => s

/-- What performing a write of entry i came to. -/
def State.wrote (s : State) (i : Nat) (a : Acc) (r : HRes) (go : State → List Byte → Word → Bool → State) : State :=
  match r with
  | .done t d w p => if behindLog s a then s else go (t.dropEntry i) d w p
  | .retry t => t
  | .held t => t.faulted i a true
  | .mig t => t.faulted i a false
/-- What performing a read of entry i came to. A fault or poison of a load that is ahead of an unstarted vector instruction
waits for that (R155). -/
def State.readHome (s : State) (i : Nat) (a : Acc) (r : HRes) (go : State → List Byte → Word → Bool → State) : State :=
  match r with
  | .done t d w p => let u := go (t.dropEntry i) d w p; if p then s.unlessAhead u a else u
  | .retry t => t
  | .held t => s.unlessAhead (t.faulted i a true) a
  | .mig t => s.unlessAhead (t.faulted i a false) a

/-- A store of entry i at its home. -/
def State.serveStore (s : State) (i : Nat) (a : Acc) (d : List Byte) (m : List Bool) : State :=
  s.wrote i a (writeAt s (whoOf a) a.loc a.cls a.gr a.arr d m) (fun s _ _ _ => s.partDone a)

/-- The bytes of a load, or of a line of the window cache, have been read at their home. -/
def State.loaded (s : State) (a : Acc) (d : List Byte) (w : Word) (p : Bool) : State :=
  match a.op with
  | .wload line skip take =>
    (s.modCore a.core (fun k => { k with wcache := ((line, d) :: k.wcache.filter (fun e => e.1 != line)).take 64 })).answer a
      ((d.drop skip).take take) w p
  | _ => (if a.strong || p then s else s.fillCopies a.core a.loc a.cls a.gr false).answer a d w p

/-- SERVE_AT_A_HOME for entry i of the home queues (R70). A load of a view is served by VIEW_READ. -/
def State.serve (s : State) (i : Nat) : State :=
  match s.homeQ[i]? with
  | none => s
  | some a =>
    if !mayServe s i || isViewLoad s a then s
    else match goesStrong s a, goesWt s a with
    | some x, _ => if behindWord s i a then s else s.askPeer i a (strongFlit a x)
    | none, some q => s.askPeer i a q
    | none, none =>
      match a.op with
      | .load =>
        s.readHome i a (readAt s (whoOf a) a.loc a.len a.gr) (fun t d w p => t.loaded a d w p)
      | .wload .. =>
        s.readHome i a (readSectors s (whoOf a) a.loc a.gr 2) (fun t d w p => t.loaded a d w p)
      | .fill pb =>
        (match a.loc with
         | .ia x =>
           if homeAt s x == .peerUncached || homeAt s x == .mmio then s.dropEntry i
           else (match readAt s (whoOf a) a.loc 1 a.gr with
             | .done s _ _ _ => (s.dropEntry i).fillCopies a.core a.loc a.cls a.gr pb
             | .retry s => s
             | .held _ | .mig _ => s.dropEntry i)
         | _ => s.dropEntry i)
      | .store d => s.serveStore i a d []
      | .storeM d m => s.serveStore i a d m
      | .rmw code size x y ret =>
        s.wrote i a (updateAt s (whoOf a) a.loc size a.cls a.gr a.arr (fun o => rmwNew code size o x.toNat y.toNat))
          (fun s d w p =>
            let s := s.modCore a.core (fun k => { k with copies := dropCopies k.copies (s.keyNow a.loc) a.len })
            if ret then s.answer a d w p else s.partDone a)
      | _ => s.serveFe i a

/-- SERVE_AT_A_HOME (R70): entry i, or past the queues the L2 evicts the line of a directory entry (R320). DEDUCED
(log 75). -/
def State.serveOrEvict (s : State) (i : Nat) : State :=
  if i < s.homeQ.length then s.serve i
  else match s.bridge.dir[i - s.homeQ.length]? with
    | some e => s.evictDir e.1 e.2
    | none => s

/-- The core's own copies of what an engine or an atomic wrote are gone once that is performed (R76, R88). -/
def State.dropOwn (s : State) (c : CoreId) (l : Loc) (gr len : Nat) : State :=
  match s.now l with
  | .ia a => s.modCore c (fun k => { k with copies := dropCopies k.copies (grBase a gr) (grBase (a + len - 1) gr + grSize gr - grBase a gr) })
  | _ => s

/-- A side-log entry leaves the log, and its stamps are awaited: where its context has gone, or here (R85, R89). -/
def State.reopen (s : State) (c : CoreId) (a : Acc) : State :=
  let ent : StampEnt := { core := c, seq := a.seq, cls := a.cls, sc := a.sc, stamps := none }
  let here := engRank a.eng < 2 && !heldElsewhere s c a.seq
  s.modCore c (fun k => { k with
    sidelog := k.sidelog.filter (fun e => e != a), stamps := if here then k.stamps ++ [ent] else k.stamps })

/-- SIDE_LOG_REPLAY (R85): the first entry is served at its home, stamped and closed, once nothing is held there. -/
def State.replay (s : State) (c : CoreId) : State :=
  let k := s.core c
  match k.sidelog with
  | [] => s
  | a :: _ =>
    if s.homeQ.any (fun e => overlaps s e a && e.waiting.isSome) || stampsPending s (s.keyNow a.loc) a.len then s
    else
      let s' := s.reopen c a
      let r := match a.op with
        | .rmw code size x y _ =>
          updateAt s' (whoOf a) a.loc size a.cls a.gr s.gtc (fun o => rmwNew code size o x.toNat y.toNat)
        | op => (match storeOf op with
          | some (d, m) => writeAt s' (whoOf a) a.loc a.cls a.gr s.gtc d m
          | none => .held s)
      match r with
      | .done s _ _ _ => if engRank a.eng < 2 then s.partDone a else (s.dropOwn c a.loc a.gr a.len).partDone a
      | .retry s'' => s''.modCore c (fun x => { x with sidelog := k.sidelog, stamps := k.stamps })
      | _ => s

/-- FE_WAIT_END (R31): entry i, which waits, is performed once its word is in the state it needs. -/
def State.feWaitEnd (s : State) (i : Nat) : State :=
  match s.homeQ[i]? with
  | some a => if a.waiting.isSome && mayServe s i then s.serveFe i a else s
  | none => s

end Sys2Proof.Machine
end

