-- ==== Sys2Proof/Machine/Seq.lean ====
section
/-! DEFINITION. How every sequencer instruction runs (R98, R99, R112), and what it needs to issue accesses to memory
(R119 to R121). -/

namespace Sys2Proof.Machine

open Sys2Proof

/-- What the body of a sequencer instruction answers. -/
inductive SRes where
  /-- Complete: its push is made now. -/
  | done (s : State) (npc : Word)
  /-- Issued: its group makes the push when its last access is performed. -/
  | later (s : State) (npc : Word)
  /-- S stays at the instruction. -/
  | hold (s : State)
  | trap (x : Cause) (tval : Word)
  /-- A trap without a faulting address or operand. -/
  | trapFree (x : Cause)

/-- The guard of R98: whether a scalar instruction executes. -/
def guardOk (k : Core) (w : Fields) : Bool := !w.en || ((k.rp w.gp).getLsbD 0 != w.gs)

/-- The registers an instruction names: the s registers it reads or writes, the p registers it reads beside its guard, and
those it writes; ahead says that it changes nothing but s and p registers, O and the core's issued accesses, so that it may
issue past a vector instruction that has not started (R155). DEDUCED (log 12). -/
structure Use where
  s : List (BitVec 6)
  pr : List (BitVec 4) := []
  pw : List (BitVec 4) := []
  ahead : Bool := false
  deriving DecidableEq, Repr

/-- D, A and B name s registers; s0 never has a result on the way. -/
def useOf (w : Fields) : Use := { s := [w.d, w.a, w.b] }
def useAhead (w : Fields) : Use := { useOf w with ahead := true }
/-- D and A name s registers. -/
def useDA (w : Fields) : Use := { s := [w.d, w.a] }
/-- A and B name s registers. -/
def useAB (w : Fields) : Use := { s := [w.a, w.b] }

/-- A register with a result on the way is among those an instruction reads or writes (R112). -/
def isBusy (k : Core) (l : List (BitVec 6)) : Bool := k.busyS.any (fun n => l.any (fun r => r.toNat == n))

/-- The queue a mismatch of R17 names, as TVAL. -/
def badQueue (k : Core) (e : Eng) (w : Fields) : Word :=
  if k.queuesOk e w.pop 0 then w.push.zeroExtend 64 else w.pop.zeroExtend 64

/-! Vector instructions that have not passed their start checks (R154, R155). -/

/-- A register of the instruction waits for one of them: it reads or writes what they write, or writes what they read. -/
def vecClash (k : Core) (w : Fields) (u : Use) : Bool :=
  k.vq.any (fun e => u.s.any (fun r => e.dst == some r)
    || e.pw.any (fun p => u.pr.contains p || u.pw.contains p || (w.en && w.gp == p))
    || e.pr.any (fun p => u.pw.contains p))

/-- S holds 32 instructions behind one of them (R155). -/
def aheadFull (k : Core) : Bool := k.vq.any (fun e => 32 ≤ e.after)
/-- One more instruction of S stands behind them. -/
def Core.countAhead (k : Core) : Core := { k with vq := k.vq.map (fun e => { e with after := e.after + 1 }) }
/-- The number of the next access: each of them keeps 512 numbers for its own. -/
def nextSeq (k : Core) : Nat := k.vq.foldl (fun n e => max n (e.seq + 512)) k.seq

/-! Running. -/

/-- S waits inside an instruction that it has started and looks at again. -/
def isInside : Option Wait → Bool
  | some .lease | some (.unseal ..) | some (.refDone ..) | some (.touch _) | some (.phretry _) | some (.again _) => true
  | _ => false
/-- S has started the instruction and looks at it again. -/
def State.holdAgain (s : State) (c : CoreId) (yields : Bool) : SRes :=
  .hold (s.modCore c (fun k => if isInside k.wait then k else { k with wait := some (.again yields) }))

/-- What the body of an instruction answered takes effect. -/
def SRes.out (s : State) (c : CoreId) (w : Fields) : SRes → Out
  | .done s npc => .next (s.modCore c (fun k => k.finish w npc true))
  | .later s npc => .next (s.modCore c (fun k => k.finish w npc false))
  | .hold s => .next (s.modCore c (·.enterWait w))
  | .trap x v => .next (s.trapNow c x v)
  | .trapFree x => .next (s.trapFree c x)

/-- S looks again at the instruction it waits in. Once it has sent its accesses, they hold the place of its push. -/
def sAgain (s : State) (w : Fields) (body : State → CoreId → SRes) : Out :=
  let c := s.cur
  match body s c with
  | .done s npc => .next (s.modCore c (fun k => k.finishHeld w npc))
  | .later s npc => .next (s.modCore c (fun k => k.sentHeld w npc))
  | .hold s => .next (s.modCore c (fun k => match k.wait with | some (.home ..) => k.freeHeld | _ => k))
  | r => r.out s c w

/-- S issues an instruction behind vector instructions that have not started: when it would trap, move a token or raise
a flag, or names a register of theirs, it waits for them (R154, R155). DEDUCED (log 12). -/
def sAhead (s : State) (w : Fields) (u : Use) (body : State → CoreId → SRes) : Out :=
  let c := s.cur
  let k := s.core c
  if !u.ahead || w.pop != 0 || w.push != 0 || isNb w || aheadFull k || vecClash k w u then .next s
  else if !guardOk k w then .next (s.modCore c (fun k => (k.finish w k.npc false).countAhead))
  else if isBusy k u.s then .next s
  else match body (s.modCore c (fun k => { k with seq := nextSeq k })) c with
    | .done t npc | .later t npc =>
      if (t.core c).status = k.status then .next (t.modCore c (fun k => (k.finish w npc false).countAhead)) else .next s
    | _ => .next s

/-- Run a sequencer instruction on the current core: it checks its queues (R17), decides the non-blocking form (R99),
waits for its tokens (R15), tests its guard (R98), waits for registers with a result on the way (R112), and then runs its
body. -/
def sRun (s : State) (w : Fields) (body : State → CoreId → SRes) (u : Use := useOf w) : Out :=
  let c := s.cur
  let k := s.core c
  if isInside k.wait then sAgain s w body
  else if !k.vq.isEmpty then sAhead s w u body
  else if !k.queuesOk .s w.pop w.push then .next (s.trapNow c .illOperand (badQueue k .s w))
  else if !(k.popReady w.pop && k.pushReady w.push) then
    if isNb w then .next (s.setCore c { (k.wp w.gp (predOf false)) with pc := k.npc, wait := none })
    else .next (s.setCore c { k with wait := some (.token s.gtc (if k.popReady w.pop then w.push else w.pop) (k.popReady w.pop)) })
  else if !guardOk k w then .next (s.setCore c (k.finish w k.npc true))
  else if isBusy k u.s then .next s
  else (body s c).out s c w

/-- An instruction that only computes a scalar register from the core's state. -/
def aluRun (s : State) (w : Fields) (f : Core → Word) (u : Use := useAhead w) : Out :=
  sRun s w (fun s c => .done (s.modCore c (fun k => k.ws w.d (f k))) (s.core c).npc) u

/-- An instruction that only changes the s and p registers of the core. -/
def coreRun (s : State) (w : Fields) (f : Core → Core) (u : Use := useAhead w) : Out :=
  sRun s w (fun s c => .done (s.modCore c f) (s.core c).npc) u

/-- Branch to a target: its low two bits must be zero (R91). -/
def jumpTo (s : State) (t : Word) : SRes := if t.toNat % 4 = 0 then .done s t else .trap .misaligned t

/-! Issuing accesses. -/

/-- The target of a relative branch (R95, R118). -/
def relTarget (k : Core) (w : Fields) : Word := k.pc + 4 * se20 w.imm

/-- Room for a store: the stamp buffer and the side log are not full (R69, R85). -/
def storeRoom (k : Core) : Bool := k.stamps.length < 64 && k.sidelog.length < 32

/-- Fixed attributes of an access. -/
structure Attr where
  eng : Eng := .s
  strong : Bool := false
  acq : Bool := false
  sc : Bool := false
  /-- `.rel` and `.system` (R365). -/
  mods : BitVec 2 := 0

/-- Enqueue the parts of an access, with a group whose bytes so far are buf and go to dest. -/
def State.issueAccess (s : State) (c : CoreId) (at_ : Attr) (pc : Word) (dest : Dest) (push : BitVec 3)
    (buf : List Byte) (parts : List (Part × AccOp)) : State :=
  let k := s.core c
  let id := k.seq
  let g : Group := { id := id, pc := pc, dest := dest, buf := buf, w := 0, left := parts.length, push := push,
                     poison := false, abandoned := false }
  let accs := (List.range parts.length).zipWith (fun i (q : Part × AccOp) =>
    ({ core := c, seq := id + i, loc := q.1.loc, len := q.1.len, op := q.2, strong := at_.strong, acq := at_.acq,
       sc := at_.sc, eng := at_.eng, cls := q.1.cls, gr := q.1.gr, grp := id, pos := q.1.pos, arr := 0, cyc := 0, mods := at_.mods,
       waiting := none, asked := false, plane := [], planeW := 0, planeP := false, fwd := [] } : Acc)) parts
  let busy := match dest with | .sreg r _ => if r = 0 then k.busyS else r.toNat :: k.busyS | _ => k.busyS
  let k := { (k.reserve push) with seq := id + parts.length + 1, pend := k.pend ++ accs, groups := k.groups ++ [g],
                                    busyS := busy }
  let s := s.setCore c k
  if parts.isEmpty then s.completeGroup c g else s

/-- S waits at the instruction until its group, the next to be numbered, completes. DEDUCED (log 23). -/
def waitOn (s : State) (c : CoreId) (id : Nat) (w : Fields) : SRes :=
  .hold (s.modCore c (fun k =>
    if k.groups.any (fun g => g.id == id) then { k with wait := some (.home id w) } else k))

/-- Begin with a fence of a scope (R78, R129): run the rest with the fence retired, or hold. DEDUCED (log 13). -/
def afterFence (s : State) (c : CoreId) (scope : Option Nat) (rest : State → SRes) : SRes :=
  match scope with
  | none => rest s
  | some sc =>
    if fenceReady s c sc (s.core c).seq then rest (s.modCore c (·.retireFence sc)) else .hold s

/-- The start of the core's next slot of the wheel that lies wholly after now, in a later revolution than that of its last
sequentially consistent operation (R86). -/
def nextSlot (s : State) (c : CoreId) : Word :=
  let k := s.core c
  let rev := 4 * s.bridge.wheel
  let p := 4 * ((if s.bridge.wheel = 128 then 64 * devNat s else 0) + k.lid.toNat)
  let now := s.gtc.toNat
  let n := if now ≤ now / rev * rev + p then now / rev else now / rev + 1
  let n := match k.scRev with | some t => max n (t / rev + 1) | none => n
  w64 (n * rev + p)

end Sys2Proof.Machine
end

