-- ==== Sys2Proof/Machine/MemIns.lean ====
section
/-! DEFINITION. Loads and stores, full/empty words, atomics, fences, flags and seals of the sequencer (R119 to R132). -/

namespace Sys2Proof.Machine

open Sys2Proof

/-- sA + SE(imm), and with the index sB (R119). -/
def eaOf (k : Core) (w : Fields) : Word := k.rs w.a + se20 w.imm
def eaIdx (k : Core) (w : Fields) : Word := k.rs w.a + k.rs w.b + se20 w.imm

/-- The low n bytes of a register. -/
def lowBytes (n : Nat) (v : Word) : List Byte := leBytes n v.toNat

/-! Window reads (R27, R122). -/

/-- A line of the window cache an access needs: the position of its first byte, the line number, the place of the line,
the bytes of it before that byte, and how many are used. -/
structure WLine where
  pos : Nat
  line : Nat
  loc : Loc
  skip : Nat
  take : Nat
  cls : Nat
  gr : Nat
  deriving DecidableEq, Repr

/-- A place some bytes before another. -/
def Loc.minus : Loc → Nat → Loc
  | .ia a, n => .ia (a - n)
  | .spad c o, n => .spad c (o - n)
  | .stg sl o, n => .stg sl (o - n)
  | .heap x o, n => .heap x (o - n)

def windowLines (va : Nat) : List AtByte → List WLine
  | [] => []
  | b :: t =>
    let a := va + b.pos
    let here : WLine := { pos := b.pos, line := a / 64, loc := b.loc.minus (a % 64), skip := a % 64, take := 1,
                          cls := b.cls, gr := b.gr }
    match windowLines va t with
    | x :: u => if a / 64 = x.line then { here with take := x.take + 1 } :: u else here :: x :: u
    | [] => [here]

/-- The line in a window cache. -/
def wcacheGet (k : Core) (line : Nat) : Option (List Byte) := (k.wcache.find? (fun e => e.1 == line)).map (·.2)

/-- What a read of a window needs (R27): a fault, or the bytes the window cache has, the fills that miss, the lines
used, and whether any byte lies at LEN or beyond. -/
inductive WPlan where
  | bad (x : Cause)
  | ok (buf : List Byte) (parts : List (Part × AccOp)) (used : List (Nat × List Byte)) (beyond : Bool)

/-- The plan for the selected positions below n at window win and offset o. -/
def windowPlan (s : State) (c : CoreId) (win o n : Nat) (sel : List Nat) : WPlan :=
  let k := s.core c
  match checkBytes s (sel.map (fun i => (i, byteWindow s k win (o + i)))) .r with
  | .bad x => .bad x
  | .ok bytes beyond =>
    let lines := windowLines (wbits (k.win[win]?.getD (0, 0)).1 55 0 + o) bytes
    let buf := lines.foldl (fun b (x : WLine) =>
      match wcacheGet k x.line with | some d => patch b x.pos ((d.drop x.skip).take x.take) | none => b)
      (List.replicate n 0)
    let parts := (lines.filter (fun x => (wcacheGet k x.line).isNone)).map (fun x =>
      (({ pos := x.pos, loc := x.loc, len := 64, cls := x.cls, gr := x.gr } : Part), AccOp.wload x.line x.skip x.take))
    .ok buf parts (lines.filterMap (fun x => (wcacheGet k x.line).map (fun d => (x.line, d)))) beyond

/-- The window and offset a space-4 address names; an address with a bit above 22 set lies beyond LEN (R32). -/
def windowOf (ea : Word) : Nat × Nat :=
  (bits ea.toNat 22 20, if ea.toNat < 2 ^ 23 then ea.toNat % 2 ^ 20 else 2 ^ 20)

/-- Use lines of the window cache: they become the most recent. -/
def Core.touchLines (k : Core) (used : List (Nat × List Byte)) : Core :=
  { k with wcache := used ++ k.wcache.filter (fun e => !(used.any (fun u => u.1 == e.1))) }

/-- Read a window for a load of a size code: hits come from the window cache, misses fill it. -/
def windowLoad (s : State) (c : CoreId) (w : Fields) (win : Nat) (o : Nat) (code : Nat) : SRes :=
  let k := s.core c
  let n := sizeBytes code
  match windowPlan s c win o n (List.range n) with
  | .bad x => .trap x (w64 o)
  | .ok buf parts used beyond =>
      let s := s.setCore c (k.touchLines used)
      let s := if beyond then s.raisePwoob c 7 0 k.pc.toNat else s
      .later (s.issueAccess c {} k.pc (.sreg w.d code) w.push buf parts) k.npc

def execLdp (w : Fields) (s : State) : Out := sRun s w (fun s c =>
  windowLoad s c w w.b.toNat (eaOf (s.core c) w).toNat (fLo w)) { useDA w with ahead := true }

/-! LD, ST, LDS and STS (R120). -/

/-- A weak load. -/
def execLd (w : Fields) (s : State) : Out := sRun s w (fun s c =>
  let k := s.core c
  let ea := eaIdx k w
  let n := sizeBytes (fLo w)
  if fHi w = 4 then
    windowLoad s c w (windowOf ea).1 (windowOf ea).2 (fLo w)
  else match checkAccess s c (fHi w) ea (List.range n) .r with
    | .bad x => .trap x ea
    | .ok bytes _ =>
      .later (s.issueAccess c {} k.pc (.sreg w.d (fLo w)) w.push (List.replicate n 0)
        ((scalarParts ea n bytes).map (fun p => (p, AccOp.load)))) k.npc) (useAhead w)

/-- Store parts with their bytes. -/
def storeParts (d : List Byte) (l : List Part) : List (Part × AccOp) :=
  l.map (fun p => (p, AccOp.store ((d.drop p.pos).take p.len)))

/-- A weak store. -/
def execSt (w : Fields) (s : State) : Out := sRun s w (fun s c =>
  let k := s.core c
  let ea := eaIdx k w
  let n := sizeBytes (fLo w)
  match checkAccess s c (fHi w) ea (List.range n) .w with
  | .bad x => .trap x ea
  | .ok bytes _ =>
    if !storeRoom k then .hold s
    else .later (s.issueAccess c {} k.pc .none w.push []
      (storeParts (lowBytes n (k.rs w.d)) (scalarParts ea n bytes))) k.npc) (useAhead w)

/-- A sequentially consistent access (R86): after its FENCE.system it waits for the core's next slot. -/
def scIssue (s : State) (c : CoreId) (w : Fields) (pc : Word) (dest : Dest) (buf : List Byte) (p : Part) (op : AccOp) :
    SRes :=
  afterFence s c (some 3) (fun s =>
    let k := s.core c
    let id := k.seq
    let a : Acc := { core := c, seq := id, loc := p.loc, len := p.len, op := op, strong := true, acq := true, sc := true,
                     eng := .s, cls := p.cls, gr := p.gr, grp := id, pos := p.pos, arr := 0, cyc := 0, mods := 0, waiting := none,
                     asked := false, plane := [], planeW := 0, planeP := false, fwd := [] }
    let g : Group := { id := id, pc := pc, dest := dest, buf := buf, w := 0, left := 1, push := w.push, poison := false,
                       abandoned := false }
    .hold (s.setCore c { (k.reserve w.push) with seq := id + 1, wait := some (.slot (nextSlot s c) a g w) }))

/-- The one part of a naturally aligned access. -/
def onePart (n : Nat) : List AtByte → Part
  | b :: _ => { pos := 0, loc := b.loc, len := n, cls := b.cls, gr := b.gr }
  | [] => { pos := 0, loc := .ia 0, len := n, cls := 1, gr := 0 }

/-- A strong load; .acq holds S until it is performed, .sc takes a slot. DEDUCED (log 23). -/
def execLds (w : Fields) (s : State) : Out := sRun s w (fun s c =>
  let k := s.core c
  let ea := eaOf k w
  let n := sizeBytes (fLo w)
  if ea.toNat % n ≠ 0 then .trap .misaligned ea
  else match checkAccess s c (fHi w) ea (List.range n) .r with
    | .bad x => .trap x ea
    | .ok bytes _ =>
      let p := onePart n bytes
      if w.b = 2 then scIssue s c w k.pc (.sreg w.d (fLo w)) (List.replicate n 0) p .load
      else
        let s' := s.issueAccess c { strong := true, acq := w.b == 1 } k.pc (.sreg w.d (fLo w)) w.push
          (List.replicate n 0) [(p, .load)]
        if w.b = 1 then waitOn s' c k.seq w else .later s' k.npc) (useDA w)

/-- A strong store; .rel begins with FENCE.device or FENCE.system (R78). -/
def execSts (w : Fields) (s : State) : Out := sRun s w (fun s c =>
  let k := s.core c
  let ea := eaOf k w
  let n := sizeBytes (fLo w)
  if ea.toNat % n ≠ 0 then .trap .misaligned ea
  else match checkAccess s c (fHi w) ea (List.range n) .w with
    | .bad x => .trap x ea
    | .ok bytes _ =>
      let p := onePart n bytes
      let op := AccOp.store (lowBytes n (k.rs w.d))
      if !storeRoom k then .hold s
      else if w.b = 2 then scIssue s c w k.pc .none [] p op
      else afterFence s c (if w.b = 5 then some 3 else if w.b = 1 then some 2 else none) (fun s =>
        .later (s.issueAccess c { strong := true, mods := if w.b = 5 then 3 else if w.b = 1 then 1 else 0 } k.pc .none w.push []
          [(p, op)]) k.npc)) (useDA w)

/-! Full/empty words (R124). -/

/-- Whether a place is a scratchpad word: of this device, or of the peer through home node 0x4. DEDUCED (log 17). -/
def isSpad (l : Loc) : Bool :=
  match l with
  | .spad _ _ => true
  | .ia a => a / 2 ^ 48 == 4
  | .stg _ _ | .heap _ _ => false

/-- A global address whose IA names another home node than 0x4: RANGE_FAULT, which comes before a fault of permission
(R35, R124). -/
def isElsewhere (k : Core) (space : Nat) (ea : Word) : Bool :=
  space == 0 && (match rangeOf k ea.toNat with | some r => rangeIa r ea.toNat / 2 ^ 48 != 4 | none => false)

/-- The checks of a full/empty word and its issue. DEDUCED (log 17). -/
def feIssue (s : State) (c : CoreId) (w : Fields) (pm : Perm) (dest : Dest) (buf : List Byte) (op : AccOp)
    (block : Bool) : SRes :=
  let k := s.core c
  let ea := eaOf k w
  if ea.toNat % 8 ≠ 0 then .trap .misaligned ea
  else if isElsewhere k (fHi w) ea then .trap .rangeFault ea
  else match checkAccess s c (fHi w) ea (List.range 8) pm with
    | .bad x => .trap x ea
    | .ok bytes _ =>
      let p := onePart 8 bytes
      if !isSpad p.loc then .trap .rangeFault ea
      else if (op.writes && !storeRoom k) then .hold s
      else
        let s' := s.issueAccess c { strong := true, acq := block } k.pc dest w.push buf [(p, op)]
        if block then waitOn s' c k.seq w else .later s' k.npc

def execLdf (w : Fields) (s : State) : Out := sRun s w (fun s c =>
  feIssue s c w .r (.sreg w.d 3) (List.replicate 8 0) (.ldf (w.b == 1)) true) (useDA w)
def execSte (w : Fields) (s : State) : Out := sRun s w (fun s c =>
  feIssue s c w .w .none [] (.ste ((s.core c).rs w.d)) true) (useDA w)
def execStf (w : Fields) (s : State) : Out := sRun s w (fun s c =>
  feIssue s c w .w .none [] (.stf ((s.core c).rs w.d)) false) (useDA w)
def execFeq (w : Fields) (s : State) : Out := sRun s w (fun s c =>
  feIssue s c w .r (.preg (r4 w.d)) [0] .feq true) { s := [w.a], pw := [r4 w.d] }

/-- FECLR: the range is checked at its ends; each word is emptied in its turn (R124, R365). -/
def execFeclr (w : Fields) (s : State) : Out := sRun s w (fun s c =>
  let k := s.core c
  let ea := eaOf k w
  let len := (k.rs w.b).toNat
  if ea.toNat % 8 ≠ 0 then .trap .misaligned ea
  else if len % 8 ≠ 0 then .trap .misaligned (k.rs w.b)
  else if len = 0 then .done s k.npc
  else if isElsewhere k (fHi w) ea then .trap .rangeFault ea
  else match checkAccess s c (fHi w) ea [0, len - 1] .w with
    | .ok (b :: e :: _) _ =>
      if !isSpad b.loc || e.loc != b.loc.plus (len - 1) then .trap .rangeFault ea
      else waitOn (s.issueAccess c { strong := true } k.pc .none w.push []
        ((List.range (len / 8)).map (fun i =>
          (({ pos := 0, loc := b.loc.plus (8 * i), len := 8, cls := b.cls, gr := b.gr } : Part), AccOp.feclr 1)))) c k.seq w
    | .ok _ _ => .trap .rangeFault ea
    | .bad x => .trap x ea)

/-! PREF (R123). -/

def execPref (w : Fields) (s : State) : Out := sRun s w (fun s c =>
  let k := s.core c
  match checkAccess s c 0 (eaIdx k w) [0] .r with
  | .ok [b] _ =>
    if b.cls == 0 then .done s k.npc
    else
      let a : Acc := { core := c, seq := k.seq, loc := b.loc, len := 1, op := .fill (fLo w == 1), strong := false,
                       acq := false, sc := false, eng := .s, cls := b.cls, gr := b.gr, grp := k.seq, pos := 0,
                       arr := 0, cyc := 0, mods := 0, waiting := none, asked := false, plane := [], planeW := 0, planeP := false, fwd := [] }
      .done ((s.setCore c { k with seq := k.seq + 1 }).joinHome a) k.npc
  | _ => .done s k.npc)

/-! Atomics and reductions (R125, R126). -/

/-- `.rel` and `.system` of AMO and RED (R125). -/
def relMods (w : Fields) : BitVec 2 :=
  (if w.b.getLsbD 4 || w.b.getLsbD 5 then 1#2 else 0#2) ||| (if w.b.getLsbD 5 then 2#2 else 0#2)

/-- The access of AMO, AMOSC and RED. -/
def amoIssue (s : State) (c : CoreId) (w : Fields) (ret sc : Bool) : SRes :=
  let k := s.core c
  let ea := eaOf k w
  let n := if fLo w = 2 then 4 else 8
  let d1 := w.d + 1
  if ea.toNat % n ≠ 0 then .trap .misaligned ea
  else match checkAccess s c (fHi w) ea (List.range n) .rw with
    | .bad x => .trap x ea
    | .ok bytes _ =>
      let p := onePart n bytes
      let op := AccOp.rmw (w.b.toNat % 16) n (k.rs w.d) (k.rs d1) ret
      let dest := if ret then Dest.sreg w.d (if n = 4 then 2 else 3) else .none
      let buf : List Byte := if ret then List.replicate n 0 else []
      if !storeRoom k then .hold s
      else if sc then scIssue s c w k.pc dest buf p op
      else afterFence s c (if w.b.getLsbD 5 then some 3 else if w.b.getLsbD 4 then some 2 else none) (fun s =>
        .later (s.issueAccess c { strong := true, mods := relMods w } k.pc dest w.push buf [(p, op)]) k.npc)

/-- sD, sA, and s(D+1) of a compare-and-swap. -/
def useAmo (w : Fields) : Use := { s := w.d :: w.a :: (if w.b.toNat % 16 = 9 then [w.d + 1] else []) }
def execAmo (w : Fields) (s : State) : Out := sRun s w (fun s c => amoIssue s c w true false) (useAmo w)
def execAmosc (w : Fields) (s : State) : Out := sRun s w (fun s c => amoIssue s c w true true) (useAmo w)
def execRed (w : Fields) (s : State) : Out := sRun s w (fun s c => amoIssue s c w false false) (useAmo w)

/-! Fences and flags (R128 to R130). -/

/-- FENCE: S waits in it until RETIRE_A_FENCE (R128, R152), which may come at once. DEDUCED (log 13). -/
def execFence (w : Fields) (s : State) : Out := sRun s w (fun s c =>
  let k := s.core c
  if fenceReady s c w.f.toNat k.seq then .done (s.modCore c (·.retireFence w.f.toNat)) k.npc
  else .hold (s.setCore c { k with wait := some (.fence w.f.toNat k.seq w) }))

def execFlagadd (w : Fields) (s : State) : Out := sRun s w (fun s c =>
  let k := s.core c
  let ea := eaOf k w
  if ea.toNat % 8 ≠ 0 then .trap .misaligned ea
  else match checkAccess s c 2 ea (List.range 8) .rw with
    | .bad x => .trap x ea
    | .ok bytes _ =>
      if !storeRoom k then .hold s
      else afterFence s c (some w.f.toNat) (fun s =>
        .later (s.issueAccess c { strong := true } k.pc (.sreg w.d 3) w.push (List.replicate 8 0)
          [(onePart 8 bytes, .flagadd (wbits (k.rs w.b) 31 0))]) k.npc))

/-- The logical cores a mask names, in ascending order. -/
def maskCores (m : Word) : List Nat := (List.range 64).filter (fun l => m.getLsbD l)

/-- Whether a multicast destination fails, with its record (R130, R207). DEDUCED (log 57). -/
def mcFails (s : State) (l off len : Nat) : Option Nat :=
  let t := s.core (s.byLid l)
  if t.fenced then some 0x0101 else if off + len > t.pbsp.toNat * 16384 then some 0x08 else none

/-- The record of a failing destination: WHERE names the core. -/
def State.mcRecord (s : State) (c : CoreId) (l code : Nat) : State :=
  let t := s.byLid l
  s.report { coreRec s c code 2 none with wher := some ((s.core t).lid.toNat + 64 * t.toNat), data := some (2 ^ l) }

/-- FLAGSET: S goes on once every destination has acknowledged. -/
def execFlagset (w : Fields) (s : State) : Out := sRun s w (fun s c =>
  let k := s.core c
  let v := k.rs w.b
  if fHi w = 0 then
    let ea := eaOf k w
    if ea.toNat % 8 ≠ 0 then .trap .misaligned ea
    else match checkAccess s c 2 ea (List.range 8) .w with
      | .bad x => .trap x ea
      | .ok bytes _ =>
        if !storeRoom k then .hold s
        else afterFence s c (some (fLo w)) (fun s =>
          waitOn (s.issueAccess c { strong := true } k.pc (.flags w.d) w.push (List.replicate 8 0)
            [(onePart 8 bytes, .stf v)]) c k.seq w)
  else
    let off := w.imm.toNat
    if off % 8 ≠ 0 then .trap .misaligned (ze20 w.imm)
    else if !storeRoom k then .hold s
    else afterFence s c (some (fLo w)) (fun s =>
      let ls := maskCores (k.rs w.a)
      let bad := ls.filterMap (fun l => (mcFails s l off 8).map (fun x => (l, x)))
      let s := bad.foldl (fun s b => s.mcRecord c b.1 b.2) s
      let fail := bad.foldl (fun m b => m ||| 2 ^ b.1) 0
      let parts := (ls.filter (fun l => (mcFails s l off 8).isNone)).map (fun l =>
        (({ pos := 0, loc := .spad l off, len := 8, cls := 1, gr := 0 } : Part), AccOp.stf v))
      let s' := s.issueAccess c { strong := true } k.pc (.flags w.d) w.push (leBytes 8 fail) parts
      if parts.isEmpty then .later s' k.npc else waitOn s' c k.seq w))

/-! Sealing (R131, R132). -/

/-- The slice and offset a space-3 address names, when every other bit is zero (R32). -/
def stgAddr (v : Word) : Option (Nat × Nat) :=
  if v.toNat ≥ 2 ^ 29 || bits v.toNat 23 23 ≠ 0 then none else some (bits v.toNat 28 24, v.toNat % 2 ^ 23)

/-- Whether a buffer overlaps a descriptor's. -/
def sealOverlaps (s : State) (sl o n : Nat) : Bool :=
  s.seals.any (fun d => d.slice == sl && d.off < o + n && o < d.off + d.len)
/-- A slice has a free descriptor: it holds 16. -/
def sealFree (s : State) (sl : Nat) : Bool := (s.seals.filter (fun d => d.slice == sl)).length < 16

def coreCtx (k : Core) : Nat := match k.iter with | some i => i.ctx | none => bits k.taskid.toNat 47 44

def execSeal (w : Fields) (s : State) : Out := sRun s w (fun s c =>
  let k := s.core c
  let n := (k.rs w.b).toNat
  match stgAddr (k.rs w.a) with
  | none => .trap .illOperand (k.rs w.a)
  | some (sl, o) =>
    if o % 512 ≠ 0 || n % 512 ≠ 0 || n < 512 || o + n > stgSize s sl then .trap .illOperand (k.rs w.a)
    else afterFence s c (some 2) (fun s =>
      if !sealFree s sl || sealOverlaps s sl o n then .trap .illOperand (k.rs w.a)
      else
        let d : SealDesc := { slice := sl, off := o, len := n, ctx := coreCtx k, count := 0, closing := false,
                              staging := false }
        .done { s with seals := s.seals ++ [d] } k.npc))

/-- UNSEAL marks the descriptor closing at once and frees it when its count is zero. -/
def execUnseal (w : Fields) (s : State) : Out := sRun s w (fun s c =>
  let k := s.core c
  match stgAddr (k.rs w.a) with
  | none => .trap .illOperand (k.rs w.a)
  | some (sl, o) =>
    match s.seals.find? (fun d => d.slice == sl && d.off == o && d.ctx == coreCtx k && !d.staging) with
    | none => .trap .illOperand (k.rs w.a)
    | some d =>
      if d.count == 0 then .done { s with seals := s.seals.filter (fun x => !(x.slice == sl && x.off == o)) } k.npc
      else
        let s := { s with seals := s.seals.map (fun (x : SealDesc) =>
          if x.slice == sl && x.off == o then { x with closing := true } else x) }
        .hold (s.setCore c { k with wait := some (.unseal sl o w) }))

/-- RETIRE_A_FENCE (R77), and the end of a sequentially consistent operation once it is visible (R86). DEDUCED (log 13). -/
def execRetireAFence (c : CoreId) (s : State) : Out :=
  let k := s.core c
  match k.wait with
  | some (.scDone vs w) =>
    if vs.toNat ≤ s.gtc.toNat then .next (s.setCore c (k.finishHeld w k.npc)) else .next s
  | some (.fence sc q w) =>
    if fenceReady s c sc q then .next (s.setCore c ((k.retireFence sc).finishHeld w k.npc)) else .next s
  | _ => .next s

/-- The order table lets an access be performed now (R71). -/
def mayPerform (s : State) (a : Acc) : Bool := match a.op with | .load => loadReady s a | _ => storeReady s a

/-- SC_SLOT (R86): the operation issues at the start of the core's slot and joins its home's queue; one that R71 still
holds back takes the next slot. -/
def execScSlot (c : CoreId) (s : State) : Out :=
  let k := s.core c
  match k.wait with
  | some (.slot t a g w) =>
    if s.gtc.toNat < t.toNat then .next s
    else if t.toNat < s.gtc.toNat then .next (s.setCore c { k with wait := some (.slot (nextSlot s c) a g w) })
    else if !mayPerform s a || (a.op.writes && k.stamps.length ≥ 64) then .next s
    else
      let ent : List StampEnt := if a.op.writes then [{ core := c, seq := a.seq, cls := a.cls, sc := true, stamps := none }] else []
      let k := { k with wait := some (.home a.seq w), groups := k.groups ++ [g], stamps := k.stamps ++ ent,
                        scRev := some t.toNat,
                        copies := k.ownCopies s a }
      .next ((s.setCore c k).joinHome a)
  | _ => .next s

/-! The ordering machine's own steps (R70). -/

def execPerformALoad (c : CoreId) (i : Nat) (copy : Bool) (s : State) : Out := .next (s.performLoad c i copy)
def execSendAStore (c : CoreId) (i : Nat) (s : State) : Out := .next (s.sendStore c i)
/-- DESIGN CHOICE (log 8). DESIGN CHOICE (log 9). -/
def execServeAtAHome (i : Nat) (s : State) : Out := .next (s.serveOrEvict i)
def execReturnAStamp (c : CoreId) (i : Nat) (s : State) : Out := .next (s.returnStamp c i)
def execSideLogReplay (c : CoreId) (s : State) : Out := .next (s.replay c)
def execFeWaitEnd (i : Nat) (s : State) : Out := .next (s.feWaitEnd i)

/-- EXPIRE_A_LEASE (R70): copy i of a core is dead once the GTC has reached its expiry. -/
def execExpireALease (c : CoreId) (i : Nat) (s : State) : Out :=
  let k := s.core c
  match k.copies[i]? with
  | some e =>
    if e.2.expiry.toNat ≤ s.gtc.toNat then .next (s.setCore c { k with copies := delNth k.copies i }) else .next s
  | none => .next s

/-- LEASE_TABLE_CLEAR (R72): at E the home clears M; g is the entry's sector number. -/
def execLeaseTableClear (g : Nat) (s : State) : Out :=
  match tabGet s.leases g with
  | some l => if l.e.toNat ≤ s.gtc.toNat then .next { s with leases := tabSet s.leases g { l with m := 0 } } else .next s
  | none => .next s


/-- 2^20 ticks, the time limit of token and full/empty waits (R15, R31). -/
def waitLimit : Nat := 2 ^ 20

end Sys2Proof.Machine
end

