-- ==== Sys2Proof/Machine/Lease.lean ====
section
/-! DEFINITION. The matrix-array lease and the working bank (R28, R29, R144, R145). -/

namespace Sys2Proof.Machine

open Sys2Proof

/-- Whether a core holds its cluster's array. -/
def holdsLease (s : State) (c : CoreId) : Bool :=
  (s.cluster (clusterOf c)).holder == some (BitVec.ofNat 2 (positionOf c))
/-- Any core whose M queue is not empty, or that waits in MLEASE, is a requester (R28). -/
def requests (s : State) (c : CoreId) : Bool := !(s.core c).mq.isEmpty || (s.core c).wait == some .lease

/-- The positions of a cluster in round-robin order after the one last served. -/
def rrOrder (last : BitVec 2) : List Nat := (List.range 4).map (fun i => (last.toNat + 1 + i) % 4)

/-- The array of a cluster works on an M command: whoever holds the lease, it finishes it before it arbitrates again (R28). -/
def arrayBusy (s : State) (cl : Nat) : Bool :=
  (List.range 4).any (fun p => match (s.core (coreAt cl p)).mq.head? with | some o => o.started && !o.fin | none => false)

/-- The next requester of a free array; extra adds a core that requests for this arbitration only. -/
def nextHolder (s : State) (cl : Nat) (extra : Option CoreId) : Option Nat :=
  let a := s.cluster cl
  if a.holder.isSome || arrayBusy s cl then none
  else (rrOrder a.last).find? (fun p => let c := coreAt cl p; requests s c || extra == some c)

def State.grantArray (s : State) (cl pos : Nat) : State :=
  s.setCluster cl { holder := some (BitVec.ofNat 2 pos), grantTick := s.gtc, cmds := 0, idle := none,
                    last := BitVec.ofNat 2 pos }

/-- MATRIX_LEASE_GRANT (R28). -/
def execMatrixLeaseGrant (cl : BitVec 4) (s : State) : Out :=
  match nextHolder s cl.toNat none with
  | some p =>
    .next (s.grantArray cl.toNat p)
  | none => .next s

/-- Cycles since the grant: two to a tick (R2), saturating at 4,096 (R145). -/
def leaseCycles (s : State) (a : Cluster) : Nat := min 4096 (2 * (s.gtc.toNat - a.grantTick.toNat))

/-- Whether a lease has come to its end (R28). -/
def arrayOver (s : State) (a : Cluster) : Bool :=
  64 ≤ a.cmds || 4096 ≤ leaseCycles s a ||
    (match a.idle with | some t => 64 ≤ 2 * (s.gtc.toNat - t.toNat) | none => false)

/-- MATRIX_LEASE_EXPIRY (R28): the array re-arbitrates at its next grant. -/
def execMatrixLeaseExpiry (cl : BitVec 4) (s : State) : Out :=
  let a := s.cluster cl.toNat
  if a.holder.isSome && arrayOver s a then .next (s.setCluster cl.toNat { a with holder := none, idle := none })
  else .next s

/-- Start, keep or restart the idle count of a cluster (R28). -/
def idleCount (s : State) (cl : Nat) (a : Cluster) : Cluster :=
  match a.holder with
  | none => { a with idle := none }
  | some p =>
    let me := coreAt cl p.toNat
    let other := (List.range 4).any (fun q => q != p.toNat && requests s (coreAt cl q))
    if (s.core me).mq.isEmpty && other then { a with idle := some (a.idle.getD s.gtc) } else { a with idle := none }

def State.countIdle (s : State) : State :=
  { s with clusters := Vector.ofFn (fun i => idleCount s i.val s.clusters[i]) }

/-- TICK (R37): the GTC advances by one. DESIGN CHOICE (log 6). -/
def execTick (s : State) : Out := let s := s.countIdle; .next { s with gtc := s.gtc + 1 }

/-- MLEASE waits for the grant; the non-blocking form takes part in one arbitration and writes its predicate (R28). -/
def execMlease (w : Fields) (s : State) : Out := sRun s w (fun s c =>
  let k := s.core c
  let cl := clusterOf c
  if isNb w then
    let s := if holdsLease s c then s
      else if nextHolder s cl (some c) == some (positionOf c) then s.grantArray cl (positionOf c) else s
    .hold (s.modCore c (fun k' => (k'.finish w k.npc true).wp w.gp (predOf (holdsLease s c))))
  else if holdsLease s c then .done s k.npc
  else .hold (s.setCore c { k with wait := some .lease }))

/-- MREL ends the lease; without it, it does nothing (R144). -/
def execMrel (w : Fields) (s : State) : Out := sRun s w (fun s c => .done (s.dropLease c) (s.core c).npc)

/-- MSTAT (R145). -/
def mstat (s : State) (c : CoreId) : Word :=
  let a := s.cluster (clusterOf c)
  let h := holdsLease s c
  w64 ((if h then 1 + a.cmds * 2 + leaseCycles s a * 256 else 0)
    + (s.core c).mq.length * 2 ^ 21 + (if requests s c then 2 ^ 26 else 0))
def execMstat (w : Fields) (s : State) : Out := sRun s w (fun s c =>
  .done (s.modCore c (fun k => k.ws w.d (mstat s c))) (s.core c).npc)

/-- Offset and size of an accumulator view's part of the working bank, and its visible bytes (R24). -/
def avOff (v : Word) : Nat := wbits v 23 22 * 16384
def avSize (v : Word) : Nat := match wbits v 21 20 with | 0 => 65536 | n => n * 16384
def avBase (v : Word) : Nat := wbits v 18 0

/-- The kind code of an operation (R101). -/
def opk (b : BitVec 256) : Nat := (b.extractLsb' 0 7).toNat

/-- The part of the working bank an M operation works on: its accumulator view in the snapshot. -/
def EOp.part (o : EOp) : Option (Nat × Nat) :=
  if opk o.bits = 3 then none else (o.views[2]?).map (fun v => (avOff v, avSize v))

/-- ASWAP (R29): once no M operation overlaps the part and no vector load of the visible bytes is on its way (R25), it
exchanges the part with the visible bytes. -/
def execAswap (w : Fields) (s : State) : Out := sRun s w (fun s c =>
  let k := s.core c
  let v := k.aview[w.d.toNat % 4]'(Nat.mod_lt _ (by decide))
  let clash := k.mq.any (fun o => match o.part with
    | some (f, n) => f < avOff v + avSize v && avOff v < f + n
    | none => false)
  if clash || granulePending k (avBase v) (avSize v) then s.holdAgain c false
  else
    let n := avSize v
    let part := s.readMem (wbankKey c (avOff v)) n
    let vis := s.readMem (regionKey c (avBase v)) n
    .done ((s.writeMem (wbankKey c (avOff v)) vis).writeMem (regionKey c (avBase v)) part) k.npc) { s := [] }

end Sys2Proof.Machine
end

