-- ==== Sys2Proof/WellFormed.lean ====
section
/-! DEFINITION. Well-formed instructions: those whose fields their entries admit (R111). -/

namespace Sys2Proof

/-- The instruction is one the decoder may answer: its fields pass every check R111 makes at decode. -/
def Instr.wellFormed (i : Instr) : Bool := Machine.legal i

end Sys2Proof
end

