-- ==== Sys2Proof/Decode.lean ====
section
/-! DEFINITION. Decoding (R90, R93, R94, R100, R108, R109, R111) and, after it, encoding. -/

namespace Sys2Proof

open Machine (cfgKind CfgKind)

/-- What a decoder answers: an instruction, or the trap the encoding raises (R111). -/
inductive Decoded where
  | ok (i : Instr)
  | illOp
  | illField
  deriving DecidableEq, Repr

/-- The fields of a 64-bit instruction (R93). -/
def fieldsOf (x : BitVec 64) : Fields :=
  { b := x.extractLsb' 58 6, f := x.extractLsb' 52 6, imm := x.extractLsb' 32 20, en := x.getLsbD 23,
    gp := x.extractLsb' 19 4, gs := x.getLsbD 18, pop := x.extractLsb' 15 3, push := x.extractLsb' 12 3,
    d := x.extractLsb' 6 6, a := x.extractLsb' 0 6 }

/-- The row of the opcode table a CFGW is (R16, R19, R41, R141, R195). -/
def cfgwInstr (w : Fields) : Instr :=
  match cfgKind w with
  | .tqcfg => .cfgwTqcfg w
  | .pool => .cfgwPoolBoundary w
  | .lseed => .cfgwLseed w
  | .status => .cfgwStatus w
  | .view => .cfgwView w
  | .other => .cfgw w

/-- The instructions the sequencer executes itself (R94). -/
def seqInstr (op : Nat) (w : Fields) : Option Instr :=
  match op with
  | 0x00 => some (.add w)
  | 0x01 => some (.sub w)
  | 0x02 => some (.mul w)
  | 0x03 => some (.mulh w)
  | 0x04 => some (.div w)
  | 0x05 => some (.rem w)
  | 0x06 => some (.and w)
  | 0x07 => some (.or w)
  | 0x08 => some (.xor w)
  | 0x09 => some (.andn w)
  | 0x0A => some (.shl w)
  | 0x0B => some (.shr w)
  | 0x0C => some (.sra w)
  | 0x0D => some (.min w)
  | 0x0E => some (.max w)
  | 0x0F => some (.clz w)
  | 0x10 => some (.popc w)
  | 0x11 => some (.bfx w)
  | 0x12 => some (.bfi w)
  | 0x13 => some (.sel w)
  | 0x14 => some (.addi w)
  | 0x15 => some (.andi w)
  | 0x16 => some (.ori w)
  | 0x17 => some (.xori w)
  | 0x18 => some (.shli w)
  | 0x19 => some (.shri w)
  | 0x1A => some (.srai w)
  | 0x1B => some (.movi w)
  | 0x1C => some (.lui w)
  | 0x1D => some (.cmp w)
  | 0x1E => some (.cmpi w)
  | 0x1F => some (.pmov w)
  | 0x20 => some (.lea w)
  | 0x21 => some (.lea2 w)
  | 0x22 => some (.b w)
  | 0x23 => some (.bi w)
  | 0x24 => some (.call w)
  | 0x25 => some (.ret w)
  | 0x26 => some (.loopn w)
  | 0x28 => some (.ld w)
  | 0x29 => some (.st w)
  | 0x2A => some (.lds w)
  | 0x2B => some (.sts w)
  | 0x2C => some (.ldf w)
  | 0x2D => some (.ste w)
  | 0x2E => some (.stf w)
  | 0x2F => some (.feclr w)
  | 0x30 => some (.feq w)
  | 0x31 => some (.pref w)
  | 0x32 => some (.ldp w)
  | 0x34 => some (.amo w)
  | 0x35 => some (.amosc w)
  | 0x36 => some (.red w)
  | 0x37 => some (.fence w)
  | 0x38 => some (.flagadd w)
  | 0x39 => some (.flagset w)
  | 0x3A => some (.seal w)
  | 0x3B => some (.unseal w)
  | 0x3C => some (.ballot w)
  | 0x3D => some (.canchk w)
  | 0x3E => some (.phbegin w)
  | 0x3F => some (.phcommit w)
  | 0x40 => some (.tkpop w)
  | 0x41 => some (.tkpush w)
  | 0x42 => some (.tkq w)
  | 0x43 => some (.rdtime w)
  | 0x44 => some (.sleept w)
  | 0x45 => some (.hzn w)
  | 0x46 => some (.rte w)
  | 0x47 => some (.kill w)
  | 0x48 => some (.cfgr w)
  | 0x49 => some (cfgwInstr w)
  | 0x4A => some (.view w)
  | 0x4B => some (.tset w)
  | 0x4C => some (.tload w)
  | 0x4D => some (.tsave w)
  | 0x4E => some (.mlease w)
  | 0x4F => some (.mrel w)
  | 0x50 => some (.aswap w)
  | 0x51 => some (.mstat w)
  | 0x54 => some (.refld w)
  | 0x55 => some (.refst w)
  | 0x56 => some (.hld w)
  | 0x57 => some (.hst w)
  | 0x58 => some (.refpin w)
  | 0x59 => some (.refunpin w)
  | 0x5A => some (.kvag w)
  | 0x5B => some (.kvaddr w)
  | 0x5C => some (.endIter w)
  | 0x5D => some (.yield w)
  | 0x5E => some (.spawn w)
  | 0x5F => some (.trap w)
  | _ => none

/-- The vector instructions (R94). -/
def vecInstr (op : Nat) (w : Fields) : Option Instr :=
  match op with
  | 0x60 => some (.vadd w)
  | 0x61 => some (.vsub w)
  | 0x62 => some (.vmul w)
  | 0x63 => some (.vfma w)
  | 0x64 => some (.vmin w)
  | 0x65 => some (.vmax w)
  | 0x66 => some (.vun w)
  | 0x67 => some (.vcmp w)
  | 0x68 => some (.vsel w)
  | 0x69 => some (.vlog w)
  | 0x6A => some (.vsh w)
  | 0x6B => some (.vcvt w)
  | 0x6C => some (.vred w)
  | 0x6D => some (.vscan w)
  | 0x6E => some (.vperm w)
  | 0x6F => some (.vbcast w)
  | 0x70 => some (.vext w)
  | 0x71 => some (.vins w)
  | 0x72 => some (.vld w)
  | 0x73 => some (.vst w)
  | 0x74 => some (.vldg w)
  | 0x75 => some (.vsts w)
  | 0x76 => some (.vldf w)
  | 0x77 => some (.vste w)
  | 0x78 => some (.vqnt w)
  | 0x79 => some (.vdqnt w)
  | 0x7A => some (.vlogc w)
  | 0x7B => some (.vdot w)
  | 0x7C => some (.vpm w)
  | 0x7D => some (.viota w)
  | 0x7E => some (.vtopk w)
  | 0x7F => some (.vrand w)
  | _ => none

/-- The instruction of an opcode, none where it is reserved (R94). -/
def instrOf (op : Nat) (w : Fields) : Option Instr := if op < 0x60 then seqInstr op w else vecInstr op w

/-- Decode a 64-bit instruction (R93, R94, R111). -/
def decode64 (x : BitVec 64) : Decoded :=
  match instrOf (x.extractLsb' 24 7).toNat (fieldsOf x) with
  | none => .illOp
  | some i => if i.wellFormed then .ok i else .illField

/-- The fields of a patch word (R100). -/
def patchOf (x : BitVec 32) : PatchWord :=
  { eng := x.extractLsb' 28 3, tix := x.extractLsb' 22 6, fsel := x.extractLsb' 17 5, go := x.getLsbD 16,
    val := x.extractLsb' 0 16 }

/-- Decode a patch word (R100, R103, R111). -/
def decodePatch (x : BitVec 32) : Decoded :=
  let p := patchOf x
  if 5 ≤ p.eng.toNat then .illOp
  else if (Instr.patchWord p).wellFormed then .ok (.patchWord p) else .illField

/-- The number of bytes of the instruction that begins with a parcel (R90). -/
def parcelBytes (first : BitVec 32) : Nat := if first.getLsbD 31 then 4 else 8

/-- Decode what begins at two parcels; the second counts only for a 64-bit instruction (R90). -/
def decodeParcels (first second : BitVec 32) : Decoded :=
  if first.getLsbD 31 then decodePatch first else decode64 (second ++ first)

/-- The fields of a Lanem-B word (R108). -/
def bankOf (x : BitVec 32) : BankWord :=
  { d := x.extractLsb' 22 5, a := x.extractLsb' 17 5, b := x.extractLsb' 12 5, imm := x.extractLsb' 0 12 }

/-- The Lanem-B opcodes (R109). -/
def bankInstr (op : Nat) (w : BankWord) : Option Instr :=
  match op with
  | 0x00 => some (.bankNop w)
  | 0x01 => some (.bankLdr w)
  | 0x02 => some (.bankStr w)
  | 0x03 => some (.bankLdi w)
  | 0x04 => some (.bankMov w)
  | 0x05 => some (.bankAdd w)
  | 0x06 => some (.bankSub w)
  | 0x07 => some (.bankMul w)
  | 0x08 => some (.bankMin w)
  | 0x09 => some (.bankMax w)
  | 0x0A => some (.bankCmp w)
  | 0x0B => some (.bankSel w)
  | 0x0C => some (.bankShl w)
  | 0x0D => some (.bankShr w)
  | 0x0E => some (.bankLogb w)
  | 0x0F => some (.bankQmac w)
  | 0x10 => some (.bankLmac w)
  | 0x11 => some (.bankKclr w)
  | 0x12 => some (.bankKmov w)
  | 0x13 => some (.bankRidge w)
  | 0x14 => some (.bankLoop w)
  | 0x15 => some (.bankSafe w)
  | 0x16 => some (.bankExit w)
  | _ => none

/-- Decode a Lanem-B word; none is what BLOAD refuses (R110). -/
def decodeBank (x : BitVec 32) : Option Instr :=
  match bankInstr (x.extractLsb' 27 5).toNat (bankOf x) with
  | some i => if i.wellFormed then some i else none
  | none => none

/-- The instruction the decoder reads from a row's bits: 64 bits are a Lanem-T instruction, 32 bits a Lanem-B word
where they are one and a patch word otherwise. DESIGN CHOICE (log 7). -/
def decodeTableWord (nbits w : Nat) : Option Instr :=
  if nbits = 64 then
    match decodeParcels (BitVec.ofNat 32 w) (BitVec.ofNat 32 (w / 2 ^ 32)) with
    | .ok i => some i
    | _ => none
  else if nbits = 32 then
    match decodeBank (BitVec.ofNat 32 w) with
    | some i => some i
    | none => match decodePatch (BitVec.ofNat 32 w) with
      | .ok i => if (BitVec.ofNat 32 w).getLsbD 31 then some i else none
      | _ => none
  else none

/-! Encoding. -/

/-- The 64 bits of an opcode and its fields (R93). -/
def pack64 (op : BitVec 7) (w : Fields) : BitVec 64 :=
  w.b ++ w.f ++ w.imm ++ 0#1 ++ op ++ BitVec.ofBool w.en ++ w.gp ++ BitVec.ofBool w.gs ++ w.pop ++ w.push ++ w.d ++ w.a
/-- The 32 bits of a patch word (R100). -/
def packPatch (p : PatchWord) : BitVec 32 := 1#1 ++ p.eng ++ p.tix ++ p.fsel ++ BitVec.ofBool p.go ++ p.val
/-- The 32 bits of a Lanem-B word (R108). -/
def packBank (op : BitVec 5) (w : BankWord) : BitVec 32 := op ++ w.d ++ w.a ++ w.b ++ w.imm

/-- An encoded instruction. -/
inductive Encoded where
  | word64 (x : BitVec 64)
  | patch (x : BitVec 32)
  | bank (x : BitVec 32)
  | none
  deriving DecidableEq, Repr

/-- The words of an instruction; a step of the device has none. -/
def encode : Instr → Encoded
  | .add w => .word64 (pack64 0x00 w)
  | .sub w => .word64 (pack64 0x01 w)
  | .mul w => .word64 (pack64 0x02 w)
  | .mulh w => .word64 (pack64 0x03 w)
  | .div w => .word64 (pack64 0x04 w)
  | .rem w => .word64 (pack64 0x05 w)
  | .and w => .word64 (pack64 0x06 w)
  | .or w => .word64 (pack64 0x07 w)
  | .xor w => .word64 (pack64 0x08 w)
  | .andn w => .word64 (pack64 0x09 w)
  | .shl w => .word64 (pack64 0x0A w)
  | .shr w => .word64 (pack64 0x0B w)
  | .sra w => .word64 (pack64 0x0C w)
  | .min w => .word64 (pack64 0x0D w)
  | .max w => .word64 (pack64 0x0E w)
  | .clz w => .word64 (pack64 0x0F w)
  | .popc w => .word64 (pack64 0x10 w)
  | .bfx w => .word64 (pack64 0x11 w)
  | .bfi w => .word64 (pack64 0x12 w)
  | .sel w => .word64 (pack64 0x13 w)
  | .addi w => .word64 (pack64 0x14 w)
  | .andi w => .word64 (pack64 0x15 w)
  | .ori w => .word64 (pack64 0x16 w)
  | .xori w => .word64 (pack64 0x17 w)
  | .shli w => .word64 (pack64 0x18 w)
  | .shri w => .word64 (pack64 0x19 w)
  | .srai w => .word64 (pack64 0x1A w)
  | .movi w => .word64 (pack64 0x1B w)
  | .lui w => .word64 (pack64 0x1C w)
  | .cmp w => .word64 (pack64 0x1D w)
  | .cmpi w => .word64 (pack64 0x1E w)
  | .pmov w => .word64 (pack64 0x1F w)
  | .lea w => .word64 (pack64 0x20 w)
  | .lea2 w => .word64 (pack64 0x21 w)
  | .b w => .word64 (pack64 0x22 w)
  | .bi w => .word64 (pack64 0x23 w)
  | .call w => .word64 (pack64 0x24 w)
  | .ret w => .word64 (pack64 0x25 w)
  | .loopn w => .word64 (pack64 0x26 w)
  | .ld w => .word64 (pack64 0x28 w)
  | .st w => .word64 (pack64 0x29 w)
  | .lds w => .word64 (pack64 0x2A w)
  | .sts w => .word64 (pack64 0x2B w)
  | .ldf w => .word64 (pack64 0x2C w)
  | .ste w => .word64 (pack64 0x2D w)
  | .stf w => .word64 (pack64 0x2E w)
  | .feclr w => .word64 (pack64 0x2F w)
  | .feq w => .word64 (pack64 0x30 w)
  | .pref w => .word64 (pack64 0x31 w)
  | .ldp w => .word64 (pack64 0x32 w)
  | .amo w => .word64 (pack64 0x34 w)
  | .amosc w => .word64 (pack64 0x35 w)
  | .red w => .word64 (pack64 0x36 w)
  | .fence w => .word64 (pack64 0x37 w)
  | .flagadd w => .word64 (pack64 0x38 w)
  | .flagset w => .word64 (pack64 0x39 w)
  | .seal w => .word64 (pack64 0x3A w)
  | .unseal w => .word64 (pack64 0x3B w)
  | .ballot w => .word64 (pack64 0x3C w)
  | .canchk w => .word64 (pack64 0x3D w)
  | .phbegin w => .word64 (pack64 0x3E w)
  | .phcommit w => .word64 (pack64 0x3F w)
  | .tkpop w => .word64 (pack64 0x40 w)
  | .tkpush w => .word64 (pack64 0x41 w)
  | .tkq w => .word64 (pack64 0x42 w)
  | .rdtime w => .word64 (pack64 0x43 w)
  | .sleept w => .word64 (pack64 0x44 w)
  | .hzn w => .word64 (pack64 0x45 w)
  | .rte w => .word64 (pack64 0x46 w)
  | .kill w => .word64 (pack64 0x47 w)
  | .cfgr w => .word64 (pack64 0x48 w)
  | .cfgw w => .word64 (pack64 0x49 w)
  | .cfgwTqcfg w => .word64 (pack64 0x49 w)
  | .cfgwPoolBoundary w => .word64 (pack64 0x49 w)
  | .cfgwLseed w => .word64 (pack64 0x49 w)
  | .cfgwStatus w => .word64 (pack64 0x49 w)
  | .cfgwView w => .word64 (pack64 0x49 w)
  | .view w => .word64 (pack64 0x4A w)
  | .tset w => .word64 (pack64 0x4B w)
  | .tload w => .word64 (pack64 0x4C w)
  | .tsave w => .word64 (pack64 0x4D w)
  | .mlease w => .word64 (pack64 0x4E w)
  | .mrel w => .word64 (pack64 0x4F w)
  | .aswap w => .word64 (pack64 0x50 w)
  | .mstat w => .word64 (pack64 0x51 w)
  | .refld w => .word64 (pack64 0x54 w)
  | .refst w => .word64 (pack64 0x55 w)
  | .hld w => .word64 (pack64 0x56 w)
  | .hst w => .word64 (pack64 0x57 w)
  | .refpin w => .word64 (pack64 0x58 w)
  | .refunpin w => .word64 (pack64 0x59 w)
  | .kvag w => .word64 (pack64 0x5A w)
  | .kvaddr w => .word64 (pack64 0x5B w)
  | .endIter w => .word64 (pack64 0x5C w)
  | .yield w => .word64 (pack64 0x5D w)
  | .spawn w => .word64 (pack64 0x5E w)
  | .trap w => .word64 (pack64 0x5F w)
  | .vadd w => .word64 (pack64 0x60 w)
  | .vsub w => .word64 (pack64 0x61 w)
  | .vmul w => .word64 (pack64 0x62 w)
  | .vfma w => .word64 (pack64 0x63 w)
  | .vmin w => .word64 (pack64 0x64 w)
  | .vmax w => .word64 (pack64 0x65 w)
  | .vun w => .word64 (pack64 0x66 w)
  | .vcmp w => .word64 (pack64 0x67 w)
  | .vsel w => .word64 (pack64 0x68 w)
  | .vlog w => .word64 (pack64 0x69 w)
  | .vsh w => .word64 (pack64 0x6A w)
  | .vcvt w => .word64 (pack64 0x6B w)
  | .vred w => .word64 (pack64 0x6C w)
  | .vscan w => .word64 (pack64 0x6D w)
  | .vperm w => .word64 (pack64 0x6E w)
  | .vbcast w => .word64 (pack64 0x6F w)
  | .vext w => .word64 (pack64 0x70 w)
  | .vins w => .word64 (pack64 0x71 w)
  | .vld w => .word64 (pack64 0x72 w)
  | .vst w => .word64 (pack64 0x73 w)
  | .vldg w => .word64 (pack64 0x74 w)
  | .vsts w => .word64 (pack64 0x75 w)
  | .vldf w => .word64 (pack64 0x76 w)
  | .vste w => .word64 (pack64 0x77 w)
  | .vqnt w => .word64 (pack64 0x78 w)
  | .vdqnt w => .word64 (pack64 0x79 w)
  | .vlogc w => .word64 (pack64 0x7A w)
  | .vdot w => .word64 (pack64 0x7B w)
  | .vpm w => .word64 (pack64 0x7C w)
  | .viota w => .word64 (pack64 0x7D w)
  | .vtopk w => .word64 (pack64 0x7E w)
  | .vrand w => .word64 (pack64 0x7F w)
  | .patchWord p => .patch (packPatch p)
  | .bankNop w => .bank (packBank 0x00 w)
  | .bankLdr w => .bank (packBank 0x01 w)
  | .bankStr w => .bank (packBank 0x02 w)
  | .bankLdi w => .bank (packBank 0x03 w)
  | .bankMov w => .bank (packBank 0x04 w)
  | .bankAdd w => .bank (packBank 0x05 w)
  | .bankSub w => .bank (packBank 0x06 w)
  | .bankMul w => .bank (packBank 0x07 w)
  | .bankMin w => .bank (packBank 0x08 w)
  | .bankMax w => .bank (packBank 0x09 w)
  | .bankCmp w => .bank (packBank 0x0A w)
  | .bankSel w => .bank (packBank 0x0B w)
  | .bankShl w => .bank (packBank 0x0C w)
  | .bankShr w => .bank (packBank 0x0D w)
  | .bankLogb w => .bank (packBank 0x0E w)
  | .bankQmac w => .bank (packBank 0x0F w)
  | .bankLmac w => .bank (packBank 0x10 w)
  | .bankKclr w => .bank (packBank 0x11 w)
  | .bankKmov w => .bank (packBank 0x12 w)
  | .bankRidge w => .bank (packBank 0x13 w)
  | .bankLoop w => .bank (packBank 0x14 w)
  | .bankSafe w => .bank (packBank 0x15 w)
  | .bankExit w => .bank (packBank 0x16 w)
  | _ => .none

/-- Decode what the encoder wrote. -/
def decodeEncoded : Encoded → Option Instr
  | .word64 x => (match decode64 x with | .ok i => some i | _ => Option.none)
  | .patch x => (match decodePatch x with | .ok i => some i | _ => Option.none)
  | .bank x => decodeBank x
  | .none => Option.none

/-- Whether an instruction has an encoding; every other constructor is a step of the device. -/
def hasEncoding (i : Instr) : Bool := encode i != .none

end Sys2Proof
end

