-- ==== Sys2Proof/Machine/System.lean ====
section
/-! DEFINITION. Configuration registers and the pool (R16 to R24, R33, R40, R41, R141), templates (R142, R143), tokens
and time (R138 to R140), phases (R136, R137), traps (R151) and cancellation checks (R134). -/

namespace Sys2Proof.Machine

open Sys2Proof

/-! Reading configuration registers (R40). -/

/-- The value of a configuration register's word, none when the number or the word is unassigned. -/
def cfgRead (s : State) (k : Core) (c : CoreId) (n word : Nat) : Option Word :=
  let one (v : Word) : Option Word := if word = 0 then some v else none
  match n with
  | 0x000 => one k.taskid
  | 0x001 => one (w64 ((if s.devnum then 64 else 0) + k.lid.toNat))
  | 0x002 => one (w64 c.toNat)
  | 0x010 => one k.pbreg
  | 0x011 => one k.pbsp
  | 0x012 => one k.pbcache
  | 0x020 => one k.vview
  | 0x050 => one k.tqcfg
  | 0x060 => one k.ae
  | 0x061 => one k.fmode
  | 0x070 => one s.leaseLen
  | 0x090 => one k.tvec
  | 0x091 => one k.tcause
  | 0x092 => one k.tepc
  | 0x093 => one k.tval
  | 0x0A0 => one k.status
  | 0x0B0 => one k.lseed
  | 0x0C0 => one k.phstate
  | _ =>
    if 0x030 ≤ n ∧ n < 0x040 then one (k.tview[n - 0x030]?.getD 0)
    else if 0x040 ≤ n ∧ n < 0x044 then one (k.aview[n - 0x040]?.getD 0)
    else if 0x080 ≤ n ∧ n < 0x088 then
      let x := k.win[n - 0x080]?.getD (0, 0)
      (match word with | 0 => some x.1 | 1 => some x.2 | _ => none)
    else if 0x100 ≤ n ∧ n < 0x108 then
      let r := k.range[n - 0x100]?.getD Range.reset
      (match word with | 0 => some r.w0 | 1 => some r.w1 | 2 => some r.w2 | _ => some r.w3)
    else if 0x110 ≤ n ∧ n < 0x118 then one (k.kvgen[n - 0x110]?.getD 0)
    else none

def cfgNum (w : Fields) : Nat := w.imm.toNat % 4096
def cfgWord (w : Fields) : Nat := w.imm.toNat / 4096 % 4

def execCfgr (w : Fields) (s : State) : Out := sRun s w (fun s c =>
  let k := s.core c
  match cfgRead s k c (cfgNum w) (cfgWord w) with
  | some v => .done (s.setCore c (k.ws w.d v)) k.npc
  | none => .trap .illOperand (ze20 w.imm)) { s := [w.d] }

/-! Writing them. -/

/-- The checks of a tile view (R23). -/
def tviewOk (k : Core) (v : Word) : Bool :=
  let w := 2 ^ wbits v 24 22
  wbits v 63 58 == 0 && wbits v 21 19 == 0 && wbits v 24 22 < 4 && wbits v 18 0 % 32 == 0 && wbits v 57 39 % 32 == 0
    && (wbits v 31 25 == 0 || (wbits v 38 32 + 1) * w ≤ wbits v 57 39)
    && wbits v 18 0 + wbits v 31 25 * wbits v 57 39 + (wbits v 38 32 + 1) * w ≤ regionSize k
/-- The checks of an accumulator view (R24). -/
def aviewOk (k : Core) (v : Word) : Bool :=
  wbits v 63 24 == 0 && !v.getLsbD 19 && avBase v % 16384 == 0 && avOff v + avSize v ≤ 65536
    && avBase v + avSize v ≤ regionSize k
/-- The checks of VVIEW (R22). -/
def vviewOk (k : Core) (v : Word) : Bool :=
  wbits v 63 19 == 0 && v.toNat % 256 == 0 && v.toNat + 16384 ≤ regionSize k
/-- The codes of TQCFG (R17). -/
def tqcfgOk (v : Word) : Bool :=
  wbits v 63 42 == 0 && (List.range 7).all (fun i => bits v.toNat (6 * i + 2) (6 * i) != 7
    && bits v.toNat (6 * i + 5) (6 * i + 3) < 6)
/-- The reserved bits and codes of a range word (R33). -/
def rangeWordOk (word : Nat) (v : Word) : Bool :=
  match word with
  | 3 => wbits v 63 12 == 0 && wbits v 11 10 != 3 && wbits v 9 7 ≤ 4 && wbits v 6 4 == 0
  | 2 => wbits v 63 52 == 0 && wbits v 15 0 == 0
  | _ => wbits v 63 56 == 0 && wbits v 15 0 == 0

/-- Whether a value may be written to a register that is not checked elsewhere: its reserved bits are zero (R40). -/
def cfgValueOk (k : Core) (n word : Nat) (v : Word) : Bool :=
  match n with
  | 0x000 => wbits v 63 48 == 0
  | 0x001 => wbits v 63 7 == 0
  | 0x002 => wbits v 63 6 == 0
  | 0x020 => vviewOk k v
  | 0x060 => wbits v 63 8 == 0
  | 0x061 => wbits v 63 2 == 0
  | 0x070 => wbits v 63 13 == 0
  | 0x091 => wbits v 63 9 == 0
  | 0x0B0 => wbits v 63 18 == 0
  | 0x0C0 => wbits v 58 40 == 0
  | _ =>
    if 0x030 ≤ n ∧ n < 0x040 then tviewOk k v
    else if 0x040 ≤ n ∧ n < 0x044 then aviewOk k v
    else if 0x080 ≤ n ∧ n < 0x088 then (if word = 0 then wbits v 63 56 == 0 else wbits v 62 21 == 0)
    else if 0x100 ≤ n ∧ n < 0x108 then rangeWordOk word v
    else if 0x110 ≤ n ∧ n < 0x118 then wbits v 44 40 == 0
    else true

/-- Registers that task mode may write (R40). -/
def taskWritable (n : Nat) : Bool :=
  n == 0x020 || n == 0x050 || n == 0x060 || n == 0x061 || n == 0x0A0 || n == 0x0B0 || (0x030 ≤ n && n < 0x044)
/-- CORELOG, COREPHY and LEASELEN are written in neither mode (R40). -/
def neverWritable (n : Nat) : Bool := n == 0x001 || n == 0x002 || n == 0x070

/-- The effect of writing a register. -/
def cfgApply (k : Core) (n word : Nat) (v : Word) : Core :=
  match n with
  | 0x000 => { k with taskid := v }
  | 0x020 => { k with vview := v }
  | 0x060 => { k with ae := v }
  | 0x061 => { k with fmode := v }
  | 0x090 => { k with tvec := v }
  | 0x091 => { k with tcause := v }
  | 0x092 => { k with tepc := v }
  | 0x093 => { k with tval := v }
  | 0x0C0 => { k with phstate := v }
  | _ =>
    if 0x030 ≤ n ∧ n < 0x040 then { k with tview := k.tview.setIfInBounds (n - 0x030) v }
    else if 0x040 ≤ n ∧ n < 0x044 then { k with aview := k.aview.setIfInBounds (n - 0x040) v }
    else if 0x080 ≤ n ∧ n < 0x088 then
      let x := k.win[n - 0x080]?.getD (0, 0)
      { k with win := k.win.setIfInBounds (n - 0x080) (if word = 0 then (v, x.2) else (x.1, v)) }
    else if 0x100 ≤ n ∧ n < 0x108 then
      let r := k.range[n - 0x100]?.getD Range.reset
      let r := match word with
        | 0 => { r with w0 := v } | 1 => { r with w1 := v } | 2 => { r with w2 := v } | _ => { r with w3 := v }
      { k with range := k.range.setIfInBounds (n - 0x100) r }
    else if 0x110 ≤ n ∧ n < 0x118 then { k with kvgen := k.kvgen.setIfInBounds (n - 0x110) v }
    else k

/-- The common checks of CFGW in the order of R35, then its effect. -/
def cfgWrite (s : State) (w : Fields) (ok : Core → Word → Bool) (act : State → CoreId → Word → SRes) : Out :=
  sRun s w (fun s c =>
    let k := s.core c
    let n := cfgNum w
    let v := k.rs w.a
    match cfgRead s k c n (cfgWord w) with
    | none => .trap .illOperand (ze20 w.imm)
    | some _ =>
      if !ok k v then .trap .illOperand v
      else if neverWritable n || (!k.handler && !taskWritable n) then .trap .permFault (ze20 w.imm)
      else act s c v) { s := [w.a] }

/-- CFGW to a register without a rule of its own. -/
def execCfgw (w : Fields) (s : State) : Out :=
  cfgWrite s w (fun k v => cfgValueOk k (cfgNum w) (cfgWord w) v) (fun s c v =>
    .done (s.modCore c (fun k => cfgApply k (cfgNum w) (cfgWord w) v)) (s.core c).npc)

/-- CFGW to VVIEW, a tile view, an accumulator view or FMODE: earlier vector instructions have started (R141). -/
def execCfgwView (w : Fields) (s : State) : Out :=
  cfgWrite s w (fun k v => cfgValueOk k (cfgNum w) (cfgWord w) v) (fun s c v =>
    .done (s.modCore c (fun k => cfgApply k (cfgNum w) (cfgWord w) v)) (s.core c).npc)

/-- Every engine queue of a core is empty and every operation has completed. -/
def drained (k : Core) : Bool := k.vq.isEmpty && k.mq.isEmpty && k.cq.isEmpty && k.gq.isEmpty && k.xq.isEmpty

/-- CFGW to TQCFG (R17): the token queues are empty when it starts. -/
def execCfgwTqcfg (w : Fields) (s : State) : Out :=
  cfgWrite s w (fun k v => tqcfgOk v && (isInside k.wait || k.tok.toList.all (· == 0))) (fun s c v =>
    let k := s.core c
    if !drained k then s.holdAgain c false else .done (s.setCore c { k with tqcfg := v }) k.npc)

/-- CFGW to STATUS clears the flags written with 1; reserved bits are ignored (R41). -/
def execCfgwStatus (w : Fields) (s : State) : Out :=
  cfgWrite s w (fun _ _ => true) (fun s c v =>
    .done (s.modCore c (fun k => { k with status := k.status &&& ~~~(v &&& 7#64) })) (s.core c).npc)

/-- The lantern state a seed gives (R195). -/
def lanternOf (v : Word) : BitVec 16 := let x := v.truncate 16; if x = 0 then 0xACE1 else x

/-- CFGW to LSEED also sets the lantern (R195). -/
def execCfgwLseed (w : Fields) (s : State) : Out :=
  cfgWrite s w (fun k v => cfgValueOk k 0x0B0 0 v) (fun s c v =>
    .done (s.modCore c (fun k => { k with lseed := v, lantern := lanternOf v })) (s.core c).npc)

/-! The pool (R18 to R20). -/

/-- The sizes of R18, in granules. -/
def poolOk (reg sp ca : Nat) : Bool :=
  8 ≤ reg && reg ≤ 32 && 1 ≤ sp && sp ≤ 64 && ca ≤ 64 && reg + sp + ca ≤ 80

/-- Re-cut a pool: a byte that stays in its part keeps its value and its full/empty state, every other byte reads zero
and its word is empty, and the L1 is invalidated (R20). -/
def State.recut (s : State) (c : CoreId) (reg sp ca : Nat) : State :=
  let k := s.core c
  let g := 16384
  let r0 := k.pbreg.toNat * g
  let r1 := reg * g
  let lo := max r0 r1
  let hi := min (r0 + k.pbsp.toNat * g) (r1 + sp * g)
  let base := poolBase + c.toNat * 2 ^ 21
  let keep (p : Nat) : Bool := p < min r0 r1 || (lo ≤ p && p < hi)
  let mine (a : Nat) : Bool := base ≤ a && a < base + 2 ^ 21
  let s := { s with mem := s.mem.filter (fun e => !mine e.1 || keep (e.1 - base)),
                    full := s.full.filter (fun n => !mine (8 * n) || (lo ≤ 8 * n - base && 8 * n - base < hi)) }
  s.setCore c { k with pbreg := w64 reg, pbsp := w64 sp, pbcache := w64 ca,
                       copies := k.copies.filter (fun e => e.2.pb) }

/-- CFGW to PBREG, PBSP or PBCACHE by a handler: it drains the core, then re-cuts (R19). -/
def execCfgwPoolBoundary (w : Fields) (s : State) : Out :=
  cfgWrite s w (fun _ v => wbits v 63 7 == 0) (fun s c v =>
    let k := s.core c
    let pick (n : Nat) (old : Word) : Nat := if cfgNum w = n then v.toNat else old.toNat
    let reg := pick 0x010 k.pbreg
    let sp := pick 0x011 k.pbsp
    let ca := pick 0x012 k.pbcache
    if !drained k || !k.landing.isEmpty || !k.groups.isEmpty then s.holdAgain c false
    else if !poolOk reg sp ca then .trap .illOperand v
    else .done (s.recut c reg sp ca) k.npc)

/-- VIEW (R142): a CFGW to TVIEW(D). -/
def execView (w : Fields) (s : State) : Out := sRun s w (fun s c =>
  let k := s.core c
  let v := k.rs w.a
  if !tviewOk k v then .trap .illOperand v
  else .done (s.setCore c { k with tview := k.tview.setIfInBounds w.d.toNat v }) k.npc) { s := [w.a] }

/-! Templates (R143). -/

def tmplKey (eng tix : Nat) : Nat := 64 * eng + tix
def tmplGet (k : Core) (eng tix : Nat) : BitVec 256 := (tabGet k.tmpl (tmplKey eng tix)).getD 0
/-- A template with a field replaced (R101). -/
def amend (b : BitVec 256) (eng fsel val : Nat) : BitVec 256 :=
  match fieldAt eng fsel with
  | some (lo, w) => BitVec.ofNat 256 (setBits b.toNat (lo + w - 1) lo val)
  | none => b
/-- The value of a field of a template. -/
def fieldOf (b : BitVec 256) (eng fsel : Nat) : Nat :=
  match fieldAt eng fsel with
  | some (lo, w) => bits b.toNat (lo + w - 1) lo
  | none => 0

def execTset (w : Fields) (s : State) : Out := sRun s w (fun s c =>
  let k := s.core c
  let eng := immBits w 2 0
  let tix := immBits w 8 3
  let fsel := immBits w 13 9
  let v := (k.rs w.a).toNat
  match fieldAt eng fsel with
  | some (_, n) =>
    if v ≥ 2 ^ n then .trap .illOperand (k.rs w.a)
    else .done (s.setCore c { k with tmpl := tabSet k.tmpl (tmplKey eng tix) (amend (tmplGet k eng tix) eng fsel v) }) k.npc
  | none => .trap .illField (ze20 w.imm))

/-- TLOAD reads 32 bytes by weak accesses; S waits for them. -/
def execTload (w : Fields) (s : State) : Out := sRun s w (fun s c =>
  let k := s.core c
  let ea := k.rs w.a
  let dest := Dest.tmpl (tmplKey (immBits w 2 0) (immBits w 8 3))
  let go (s : State) (buf : List Byte) (parts : List (Part × AccOp)) : SRes :=
    let s' := s.issueAccess c {} k.pc dest w.push buf parts
    if parts.isEmpty then .later s' k.npc else waitOn s' c k.seq w
  if ea.toNat % 32 ≠ 0 then .trap .misaligned ea
  else if fHi w = 4 then
    match windowPlan s c (windowOf ea).1 (windowOf ea).2 32 (List.range 32) with
    | .bad x => .trap x ea
    | .ok buf parts used beyond =>
        let s := s.setCore c (k.touchLines used)
        go (if beyond then s.raisePwoob c 7 0 k.pc.toNat else s) buf parts
  else match checkAccess s c (fHi w) ea (List.range 32) .r with
    | .bad x => .trap x ea
    | .ok bytes _ =>
      go s (List.replicate 32 0) ((partsOf 8 bytes).map (fun p => (p, AccOp.load))))

/-- TSAVE writes 32 bytes by weak accesses. -/
def execTsave (w : Fields) (s : State) : Out := sRun s w (fun s c =>
  let k := s.core c
  let ea := k.rs w.a
  if ea.toNat % 32 ≠ 0 then .trap .misaligned ea
  else match checkAccess s c (fHi w) ea (List.range 32) .w with
    | .bad x => .trap x ea
    | .ok bytes _ =>
      if !storeRoom k then .hold s
      else .later (s.issueAccess c {} k.pc .none w.push []
        (storeParts (leBytes 32 (tmplGet k (immBits w 2 0) (immBits w 8 3)).toNat) (partsOf 8 bytes))) k.npc)

/-! Tokens and time (R138 to R140). -/

def execTkpop (w : Fields) (s : State) : Out := coreRun s w id
def execTkpush (w : Fields) (s : State) : Out := coreRun s w id
def execTkq (w : Fields) (s : State) : Out := aluRun s w (fun k => w64 (k.tokens (w.imm.truncate 3))) (useOf w)

/-- The promise of the latest C operation (R139). -/
def promiseOf (k : Core) : Word := match k.lastCopy with | some (_, p) => p | none => 0
def execRdtime (w : Fields) (s : State) : Out := sRun s w (fun s c =>
  .done (s.modCore c (fun k => k.ws w.d (if w.f = 1 then promiseOf k else s.gtc))) (s.core c).npc) (useAhead w)

/-- Whether the latest C operation is still queued or running. -/
def copyOpen (k : Core) : Bool := match k.lastCopy with | some (id, _) => k.cq.any (fun o => o.id == id) | none => false

def execSleept (w : Fields) (s : State) : Out := sRun s w (fun s c =>
  let k := s.core c
  let t := if w.f = 1 then promiseOf k else k.rs w.a
  if s.gtc.toNat < t.toNat then .hold (s.setCore c { k with wait := some (.sleep t w) })
  else if w.f = 1 && copyOpen k then .trap .missedPromise t
  else .done s k.npc)

/-- SLEEPT_WAKE (R139). -/
def execSleeptWake (c : CoreId) (s : State) : Out :=
  let k := s.core c
  match k.wait with
  | some (.sleep t w) =>
    if s.gtc.toNat < t.toNat then .next s
    else if w.f = 1 && copyOpen k then .next (s.trapNow c .missedPromise t)
    else .next (s.setCore c (k.finishHeld w k.npc))
  | _ => .next s

/-- HZN (R140). -/
def hznValue (s : State) (c : CoreId) (f : Nat) : Word :=
  let k := s.core c
  let mk (v : Word) (p : Bool) : Word := (v &&& 0x7FFFFFFFFFFFFFFF#64) ||| (if p then w64 (2 ^ 63) else 0)
  match f with
  | 4 => mk (wmax k.hz.system k.hz.uo) (hzPending s c 3 || hzPending s c 4)
  | 5 => mk k.hz.uo (hzPending s c 4)
  | 6 => mk k.obs false
  | n => mk (hzGet k.hz n) (hzPending s c n)
def execHzn (w : Fields) (s : State) : Out := sRun s w (fun s c =>
  .done (s.modCore c (fun k => k.ws w.d (hznValue s c w.f.toNat))) (s.core c).npc)

/-- TOKEN_WAIT_END (R15) of S: it proceeds, by issuing again, once a token or room appears. -/
def tokenReady (k : Core) (pop push : BitVec 3) : Bool := k.popReady pop && k.pushReady push

/-! Traps and cancellation (R134, R151). -/

def execTrap (w : Fields) (s : State) : Out := sRun s w (fun _ _ => .trap .swTrap (ze20 w.imm))

/-- RTE: only in handler mode. -/
def execRte (w : Fields) (s : State) : Out := sRun s w (fun s c =>
  let k := s.core c
  if k.handler then .done (s.setCore c k.returnFromTrap) k.tepc else .trapFree .permFault)

def isCancelled (k : Core) : Bool := match k.iter with | some i => i.cancelled | none => false

def execCanchk (w : Fields) (s : State) : Out := sRun s w (fun s c =>
  let k := s.core c
  if w.f = 1 then .done (s.setCore c (k.wp (r4 w.d) (predOf (isCancelled k)))) k.npc
  else if isCancelled k then .hold (s.abandon c)
  else .done s k.npc) { s := [], pw := [r4 w.d] }

/-- DEFERRED_TRAP (R185, R354): taken at an instruction boundary in task mode; a load's page fault in either mode. -/
def execDeferredTrap (c : CoreId) (s : State) : Out :=
  let k := s.core c
  match k.deferred with
  | [] => .next s
  | d :: t =>
    if k.iter.isNone || (k.handler && !d.page) || k.wait.isSome || !k.vq.isEmpty then .next s
    else .next ((s.setCore c { k with deferred := t }).takeTrap c d.cause true k.pc d.tval)

/-! Phases (R135 to R137). -/

def phActive (v : Word) : Bool := v.getLsbD 63
def phTries (v : Word) : Nat := wbits v 62 61
def phPois (v : Word) : Bool := v.getLsbD 60
def phSel (v : Word) : Nat := wbits v 59 59
def phHalf (v : Word) : Nat := wbits v 39 20
def phBase (v : Word) : Nat := wbits v 19 0
def phMake (active pois : Bool) (tries sel half base : Nat) : Word :=
  w64 ((if active then 2 ^ 63 else 0) + tries * 2 ^ 61 + (if pois then 2 ^ 60 else 0) + sel * 2 ^ 59 + half * 2 ^ 20 + base)

def execPhbegin (w : Fields) (s : State) : Out := sRun s w (fun s c =>
  let k := s.core c
  let a := (k.rs w.a).toNat
  let b := (k.rs w.b).toNat
  let protected_ := match k.iter with | some i => i.phase | none => false
  if !protected_ || phActive k.phstate || a % 256 ≠ 0 || b % 256 ≠ 0 || b = 0 || a + 2 * b > spadSize k then
    .trap .illOperand (k.rs w.a)
  else if !drained k then s.holdAgain c false
  else .done (s.setCore c { k with phstate := phMake true false 0 (phSel k.phstate) b a, phentry := k.npc }) k.npc)

/-- PHCOMMIT: commit, give up, or retry; a retry reissues the PHFETCH of the input half and waits for it. DEDUCED (log 24). -/
def execPhcommit (w : Fields) (s : State) : Out := sRun s w (fun s c =>
  let k := s.core c
  let p := k.phstate
  match k.wait with
  | some (.phretry id) =>
    if k.cq.any (fun o => o.id == id) then .hold s else .done s k.phentry
  | _ =>
    if !phActive p then .trapFree .illOperand
    else if !drained k then s.holdAgain c false
    else if !phPois p then
      .done (s.setCore c { k with phstate := phMake false false 0 (1 - phSel p) (phHalf p) (phBase p) }) k.npc
    else if phTries p = 2 then .trapFree .phaseExhausted
    else
      let s := s.bump 5
      let fresh : Core := { k with phstate := phMake true false (phTries p + 1) (phSel p) (phHalf p) (phBase p),
                                   tok := Vector.replicate 8 0, rsv := Vector.replicate 8 0, took := 0 }
      let k := fresh.reserve k.held
      match k.phsnap[phSel p]?.getD none with
      | some o =>
        let id := k.seq
        let o := { o with id := id, started := false, popped := true, prog := 0, aux := 0, status := 0 }
        .hold (s.setCore c { k with seq := id + 1, cq := k.cq ++ [o], wait := some (.phretry id) })
      | none => .done (s.setCore c k) k.phentry)

end Sys2Proof.Machine
end

