-- ==== Sys2Proof/Machine/Lanes.lean ====
section
/-! DEFINITION. Lanes, guards and rounding of vector instructions (R11, R96, R153, R157), and the lane functions of
R159 to R181. -/

namespace Sys2Proof.Machine

open Sys2Proof

/-- The lanes of w bytes in a byte string. -/
def lanesOf (w : Nat) : Nat → List Byte → List Nat
  | 0, _ => []
  | n + 1, l => leNat (l.take w) :: lanesOf w n (l.drop w)
def bytesOf (w : Nat) : List Nat → List Byte
  | [] => []
  | x :: t => leBytes w x ++ bytesOf w t

/-- The place of a vector register (R22). -/
def vKey (s : State) (c : CoreId) (r : BitVec 6) : Nat := regionKey c ((s.core c).vview.toNat + 256 * r.toNat)
def readV (s : State) (c : CoreId) (r : BitVec 6) : List Byte := s.readMem (vKey s c r) 256
def State.writeV (s : State) (c : CoreId) (r : BitVec 6) (d : List Byte) : State := s.writeMem (vKey s c r) d
def vLanes (s : State) (c : CoreId) (r : BitVec 6) (w : Nat) : List Nat := lanesOf w (256 / w) (readV s c r)

/-- The guard of lane j at width w (R11, R98). -/
def laneOn (k : Core) (w : Fields) (width j : Nat) : Bool := !w.en || ((k.rp w.gp).getLsbD (j * width) != w.gs)

/-- Keep the old lane where the guard excludes it. -/
def mergeLanes (on : Nat → Bool) (old new : List Nat) : List Nat :=
  (List.range old.length).map (fun j => if on j then new.getD j 0 else old.getD j 0)

/-- Write the lanes of a register that a guard admits. -/
def State.putLanes (s : State) (c : CoreId) (r : BitVec 6) (width : Nat) (on : Nat → Bool) (new : List Nat) : State :=
  s.writeV c r (bytesOf width (mergeLanes on (vLanes s c r width) new))

/-- Set the w bits of lane j of a predicate (R11). -/
def setLanePred (p : Pred) (w j : Nat) (b : Bool) : Pred :=
  let m := BitVec.ofNat 256 ((2 ^ w - 1) * 2 ^ (j * w))
  if b then p ||| m else p &&& ~~~m
/-- Write the lanes of a predicate that a guard admits (R161). -/
def putPred (p : Pred) (w : Nat) (on : Nat → Bool) (v : List Bool) : Pred :=
  (List.range v.length).foldl (fun p j => if on j then setLanePred p w j (v.getD j false) else p) p

/-- The rounding direction of a vector instruction (R46, R96). -/
def rmV (k : Core) (w : Fields) : Rm :=
  match fHi w with
  | 0 => rmOf (wbits k.fmode 1 0)
  | 1 => .rne
  | 2 => .rz
  | 3 => .ru
  | _ => .rd

/-! Integer lanes. -/

def isSigned (et : Nat) : Bool := et < 4
/-- The value of a lane by its type's signedness. -/
def laneInt (et x : Nat) : Int := if isSigned et then toS (8 * etWidth et) x else (x : Int)
def typeMin (et : Nat) : Int := if isSigned et then -(2 ^ (8 * etWidth et - 1)) else 0
def typeMax (et : Nat) : Int := if isSigned et then 2 ^ (8 * etWidth et - 1) - 1 else 2 ^ (8 * etWidth et) - 1
def intLane (et : Nat) (x : Int) : Nat := ofS (8 * etWidth et) x
def satLane (et : Nat) (x : Int) : Nat := intLane et (max (typeMin et) (min (typeMax et) x))

/-! R159. -/

def laneAdd (et f : Nat) (rm : Rm) (sub : Bool) (a b : Nat) : Nat :=
  if isI et then
    let v := if sub then laneInt et a - laneInt et b else laneInt et a + laneInt et b
    if f = 1 then satLane et v else intLane et v
  else
    let t := fmtOf et
    let y := fDec t b
    fEnc t rm (fAdd rm (fDec t a) (if sub then fNeg y else y))

def laneMul (et f : Nat) (rm : Rm) (a b : Nat) : Nat :=
  if isI et then
    let v := laneInt et a * laneInt et b
    match f with
    | 0 => intLane et v
    | 1 => satLane et v
    | _ => intLane et (v / 2 ^ (8 * etWidth et))
  else let t := fmtOf et; fEnc t rm (fMul (fDec t a) (fDec t b))

def laneFma (et f : Nat) (rm : Rm) (a b d : Nat) : Nat :=
  if isI et then
    let p := laneInt et a * laneInt et b
    intLane et (match f with | 0 => p + laneInt et d | 1 => -p + laneInt et d | _ => p - laneInt et d)
  else
    let t := fmtOf et
    let p := fMul (fDec t a) (fDec t b)
    let z := fDec t d
    fEnc t rm (fAdd rm (if f = 1 then fNeg p else p) (if f = 2 then fNeg z else z))

def laneMinMax (et f : Nat) (isMax : Bool) (a b : Nat) : Nat :=
  if isI et then
    let less := laneInt et a < laneInt et b
    if isMax then (if less then b else a) else (if less then a else b)
  else let t := fmtOf et; fEnc t .rne (fMinMax isMax (f == 1) (fDec t a) (fDec t b))

/-! R160. -/

def laneUn (et f : Nat) (rm : Rm) (x : Nat) : Nat :=
  if isI et then
    let v := laneInt et x
    intLane et (if f = 0 then (if v < 0 then -v else v) else -v)
  else
    let t := fmtOf et
    let v := fDec t x
    match f with
    | 0 => fEnc t rm (fAbs v)
    | 1 => fEnc t rm (fNeg v)
    | 2 => fRcp t rm v
    | 3 => fRsqrt t rm v
    | 4 => exp2 t rm v
    | 5 => log2F t rm v
    | _ => sigmoid t rm v

/-! R162. -/

def laneCmp (et f a b : Nat) : Bool :=
  if isI et then
    let x := laneInt et a
    let y := laneInt et b
    match f with
    | 0 => x == y | 1 => x != y | 2 => x < y | 3 => x ≤ y | 4 => y < x | _ => y ≤ x
  else
    let t := fmtOf et
    let x := fDec t a
    let y := fDec t b
    match f with
    | 0 => fEq x y
    | 1 => !fEq x y
    | 2 => fLt x y
    | 3 => fLt x y || fEq x y
    | 4 => fLt y x
    | 5 => fLt y x || fEq x y
    | _ => fIsNan x || fIsNan y

/-! R164, R165. -/

def laneLog (et f a b : Nat) : Nat :=
  let n := 8 * etWidth et
  match f with
  | 0 => a &&& b
  | 1 => a ||| b
  | 2 => a ^^^ b
  | 3 => a &&& (2 ^ n - 1 - b)
  | 4 => 2 ^ n - 1 - a
  | 5 => (List.range n).countP (fun i => a.testBit i)
  | _ => if a = 0 then n else n - 1 - a.log2

def laneShift (et f a c : Nat) : Nat :=
  let n := 8 * etWidth et
  match f % 4 with
  | 0 => if c ≥ n then 0 else a * 2 ^ c % 2 ^ n
  | 1 => if c ≥ n then 0 else a / 2 ^ c
  | 2 => ofS n (toS n a / 2 ^ (min c n))
  | _ => let r := c % n; (a * 2 ^ r + a / 2 ^ (n - r)) % 2 ^ n

/-! R166. -/

def convertLane (src dst : Nat) (sat : Bool) (rm : Rm) (x : Nat) : Nat :=
  match isI src, isI dst with
  | true, true => if sat then satLane dst (laneInt src x) else intLane dst (laneInt src x)
  | true, false => fEnc (fmtOf dst) rm (intToF (laneInt src x))
  | false, true => intLane dst (fToInt rm (typeMin dst) (typeMax dst) (fDec (fmtOf src) x))
  | false, false => fConv (fmtOf src) (fmtOf dst) rm x

/-- The matched lanes of R166: source lane, destination lane. -/
def matchLanes (ws wd part : Nat) : List (Nat × Nat) :=
  let n := 256 / max ws wd
  (List.range n).map (fun k => (k + (if ws < wd then part * n else 0), k + (if wd < ws then part * n else 0)))

/-! R167. -/

def redOp (et f : Nat) (rm : Rm) (a b : Nat) : Nat :=
  match f with
  | 0 => laneAdd et 0 rm false a b
  | 1 => laneMinMax et 0 false a b
  | 2 => laneMinMax et 0 true a b
  | 3 => a &&& b
  | 4 => a ||| b
  | _ => a ^^^ b

def redIdent (et f : Nat) : Nat :=
  let n := 8 * etWidth et
  match f with
  | 0 => if isI et then 0 else 2 ^ (n - 1)
  | 1 => if isI et then intLane et (typeMax et) else fInfBits (fmtOf et) false
  | 2 => if isI et then intLane et (typeMin et) else fInfBits (fmtOf et) true
  | 3 => 2 ^ n - 1
  | _ => 0

/-- One level of the reduction tree. -/
def redLevel (op : Nat → Nat → Nat) : List Nat → List Nat
  | a :: b :: t => op a b :: redLevel op t
  | l => l
/-- The tree, level by level; 8 levels reach one lane of at most 256. -/
def redTree (op : Nat → Nat → Nat) : Nat → List Nat → Nat
  | 0, l => l.headD 0
  | n + 1, l => redTree op n (redLevel op l)
/-- The scan of R167, distance d doubling. -/
def scanGo (op : Nat → Nat → Nat) : Nat → Nat → List Nat → List Nat
  | 0, _, l => l
  | n + 1, d, l =>
    scanGo op n (2 * d) ((List.range l.length).map (fun j =>
      if d ≤ j then op (l.getD (j - d) 0) (l.getD j 0) else l.getD j 0))

/-! R179: short dot products. -/

def dotInt (et src per : Nat) (a b : List Nat) (d j : Nat) : Nat :=
  intLane et (laneInt et d + ((List.range per).map (fun t =>
    laneInt src (a.getD (per * j + t) 0) * laneInt src (b.getD (per * j + t) 0))).foldl (· + ·) 0)
def dotF (t : Fmt) (rm : Rm) (a b : List Nat) (d j : Nat) : Nat :=
  let p (i : Nat) : FV := fMul (fDec t (a.getD i 0)) (fDec t (b.getD i 0))
  fEnc fp32 rm (fAdd rm (fDec fp32 d) (exactSum [p (2 * j), p (2 * j + 1)]))

/-! R180: top-k. -/

/-- A candidate: value bits, index, and whether it came from vD. -/
structure Cand where
  v : Nat
  i : Nat
  old : Bool
  deriving DecidableEq, Repr

/-- The order of candidate values (R180): a NaN counts as equal to every value, so that its index orders it. DESIGN CHOICE
(log 61). -/
def candLess (et : Nat) (a b : Nat) : Bool :=
  if isI et then laneInt et a < laneInt et b else fLt (fDec (fmtOf et) a) (fDec (fmtOf et) b)
/-- a goes before b. -/
def candBefore (et : Nat) (a b : Cand) : Bool :=
  if candLess et b.v a.v then true
  else if candLess et a.v b.v then false
  else if a.i < b.i then true
  else if b.i < a.i then false
  else a.old || !b.old
def candInsert (et : Nat) (x : Cand) : List Cand → List Cand
  | [] => [x]
  | y :: t => if candBefore et y x then y :: candInsert et x t else x :: y :: t

/-! R181: random numbers. -/

def randLane (et f : Nat) (d : Word) : Nat :=
  let n := d.toNat
  let one := if f = 2 then 1 else 0
  match f, et with
  | 0, _ => n % 2 ^ (8 * etWidth et)
  | _, 8 => fRound fp16 .rne false (n / 2 ^ 53 + one) (-11)
  | _, 9 => fRound bf16 .rne false (n / 2 ^ 56 + one) (-8)
  | _, _ => fRound fp32 .rne false (n / 2 ^ 40 + one) (-24)

end Sys2Proof.Machine
end

