-- ==== Sys2Proof/Machine/Vector.lean ====
section
/-! DEFINITION. Vector instructions (R153 to R181): sending them to V, starting the head of V's queue (R14, R154,
R155), what each computes, and landing (R25). -/

namespace Sys2Proof.Machine

open Sys2Proof

/-- What a vector instruction does when it starts. -/
inductive VRes where
  /-- Complete: it leaves the queue and its push is made now. -/
  | done (s : State)
  /-- It has started; its push is made when its last access has landed or been performed. -/
  | later (s : State)
  /-- It waits at the head for the full/empty access with this number (R174). -/
  | fe (s : State) (seq : Nat)
  /-- It cannot issue its accesses yet. -/
  | hold
  | trap (x : Cause) (tval : Word)

/-- The body of a vector instruction at its start. -/
abbrev VBody := State → CoreId → VEntry → VRes

/-! Bodies by shape. -/

/-- Lanes of vD from an element type and a lane function, under the guard. -/
def laneBody (w : Fields) (f : Core → State → CoreId → VEntry → Nat → Nat) : VBody := fun s c e =>
  let k := s.core c
  let et := immEt w
  let wd := etWidth et
  .done (s.putLanes c w.d wd (laneOn k w wd) ((List.range (lanes et)).map (f k s c e)))

/-- A lane function of vA and vB. -/
def binBody (w : Fields) (f : Nat → Nat → Rm → Nat → Nat → Nat) : VBody := fun s c e =>
  let k := s.core c
  let et := immEt w
  let a := vLanes s c w.a (etWidth et)
  let b := vLanes s c w.b (etWidth et)
  laneBody w (fun _ _ _ _ j => f et (fLo w) (rmV k w) (a.getD j 0) (b.getD j 0)) s c e

def bodyVadd (w : Fields) : VBody := binBody w (fun et f rm a b => laneAdd et f rm false a b)
def bodyVsub (w : Fields) : VBody := binBody w (fun et f rm a b => laneAdd et f rm true a b)
def bodyVmul (w : Fields) : VBody := binBody w (fun et f rm a b => laneMul et f rm a b)
def bodyVmin (w : Fields) : VBody := binBody w (fun et f _ a b => laneMinMax et f false a b)
def bodyVmax (w : Fields) : VBody := binBody w (fun et f _ a b => laneMinMax et f true a b)
def bodyVfma (w : Fields) : VBody := fun s c e =>
  let k := s.core c
  let et := immEt w
  let a := vLanes s c w.a (etWidth et)
  let b := vLanes s c w.b (etWidth et)
  let d := vLanes s c w.d (etWidth et)
  laneBody w (fun _ _ _ _ j => laneFma et (fLo w) (rmV k w) (a.getD j 0) (b.getD j 0) (d.getD j 0)) s c e
def bodyVun (w : Fields) : VBody := fun s c e =>
  let k := s.core c
  let et := immEt w
  let a := vLanes s c w.a (etWidth et)
  laneBody w (fun _ _ _ _ j => laneUn et (fLo w) (rmV k w) (a.getD j 0)) s c e

/-- VCMP (R162): a predicate, under the guard (R161). -/
def bodyVcmp (w : Fields) : VBody := fun s c _ =>
  let k := s.core c
  let et := immEt w
  let wd := etWidth et
  let a := vLanes s c w.a wd
  let b := vLanes s c w.b wd
  let v := (List.range (lanes et)).map (fun j => laneCmp et (fLo w) (a.getD j 0) (b.getD j 0))
  .done (s.setCore c (k.wp (r4 w.d) (putPred (k.rp (r4 w.d)) wd (laneOn k w wd) v)))

/-- VSEL (R162): bits are copied unchanged. DEDUCED (log 29). -/
def bodyVsel (w : Fields) : VBody := fun s c e =>
  let k := s.core c
  let et := immEt w
  let wd := etWidth et
  let a := vLanes s c w.a wd
  let b := vLanes s c w.b wd
  let p := k.rp (BitVec.ofNat 4 (immBits w 3 0))
  laneBody w (fun _ _ _ _ j => if p.getLsbD (j * wd) then a.getD j 0 else b.getD j 0) s c e

def bodyVlog (w : Fields) : VBody := binBody w (fun et f _ a b => laneLog et f a b)
/-- VSH (R165): forms 4 to 6 take the immediate count. -/
def bodyVsh (w : Fields) : VBody := binBody w (fun et f _ a b =>
  laneShift et f a (if 4 ≤ f then immBits w 5 0 else b))

/-- VCVT (R166); the guard acts on target lanes. -/
def bodyVcvt (w : Fields) : VBody := fun s c _ =>
  let k := s.core c
  let src := immBits w 3 0
  let dst := immEt w
  let ws := etWidth src
  let wd := etWidth dst
  let a := vLanes s c w.a ws
  let old := vLanes s c w.d wd
  let new := (matchLanes ws wd (immBits w 7 4)).foldl (fun l m =>
    setNth l m.2 (convertLane src dst (fLo w == 1) (rmV k w) (a.getD m.1 0))) old
  .done (s.putLanes c w.d wd (laneOn k w wd) new)

/-- The source lanes of a reduction: an excluded lane is the identity (R157, R167). -/
def redLanes (s : State) (c : CoreId) (w : Fields) : List Nat :=
  let et := immEt w
  let a := vLanes s c w.a (etWidth et)
  (List.range (lanes et)).map (fun j =>
    if laneOn (s.core c) w (etWidth et) j then a.getD j 0 else redIdent et (fLo w))

def bodyVred (w : Fields) : VBody := fun s c _ =>
  let et := immEt w
  let r := redTree (redOp et (fLo w) (rmV (s.core c) w)) 8 (redLanes s c w)
  .done (s.writeV c w.d (bytesOf (etWidth et) (r :: List.replicate (lanes et - 1) 0)))

/-- VSCAN (R168); a NaN it passes on is canonical, as any result's (R45). -/
def bodyVscan (w : Fields) : VBody := fun s c _ =>
  let et := immEt w
  let x := scanGo (redOp et (fLo w) (rmV (s.core c) w)) 8 1 (redLanes s c w)
  let out := if immBits w 0 0 = 1 then redIdent et (fLo w) :: x.take (lanes et - 1) else x
  let out := if isI et then out else out.map (fun v => if fIsNan (fDec (fmtOf et) v) then fEnc (fmtOf et) .rne (fDec (fmtOf et) v) else v)
  .done (s.writeV c w.d (bytesOf (etWidth et) out))

/-- VPERM (R169). -/
def bodyVperm (w : Fields) : VBody := fun s c e =>
  let et := immEt w
  let n := lanes et
  let a := vLanes s c w.a (etWidth et)
  let b := vLanes s c w.b (etWidth et)
  laneBody w (fun _ _ _ e j =>
    match fLo w with
    | 0 => let i := b.getD j 0; if i < n then a.getD i 0 else 0
    | 1 => a.getD (n - 1 - j) 0
    | 2 => a.getD ((j + e.b.toNat) % n) 0
    | 3 => if j % 2 = 0 then a.getD (j / 2) 0 else b.getD (j / 2) 0
    | 4 => if j < n / 2 then a.getD (2 * j) 0 else b.getD (2 * j - n) 0
    | _ => if j < n / 2 then a.getD (2 * j + 1) 0 else b.getD (2 * j - n + 1) 0) s c e

/-- VBCAST (R170). -/
def bodyVbcast (w : Fields) : VBody := fun s c e =>
  let et := immEt w
  let a := vLanes s c w.a (etWidth et)
  laneBody w (fun _ _ _ e _ =>
    if fLo w = 0 then e.a.toNat % 2 ^ (8 * etWidth et) else a.getD (immBits w 7 0) 0) s c e

/-- The lane VEXT and VINS name (R171), none when sB is out of range. -/
def laneIndex (w : Fields) (e : VEntry) : Option Nat :=
  if fLo w = 0 then some (immBits w 7 0) else if e.b.toNat < lanes (immEt w) then some e.b.toNat else none

/-- VEXT (R171). A lane that does not exist traps whatever the guard. DESIGN CHOICE (log 58). -/
def bodyVext (w : Fields) : VBody := fun s c e =>
  let k := s.core c
  let et := immEt w
  match laneIndex w e with
  | none => .trap .illOperand e.b
  | some i =>
    let x := (vLanes s c w.a (etWidth et)).getD i 0
    let v := if et < 4 then BitVec.ofInt 64 (laneInt et x) else w64 x
    .done (if laneOn k w (etWidth et) i then s.setCore c (k.ws w.d v) else s)

/-- VINS (R171). A lane that does not exist traps whatever the guard. DESIGN CHOICE (log 58). -/
def bodyVins (w : Fields) : VBody := fun s c e =>
  let k := s.core c
  let wd := etWidth (immEt w)
  match laneIndex w e with
  | none => .trap .illOperand e.b
  | some i =>
    .done (if laneOn k w wd i then
      s.writeV c w.d (bytesOf wd (setNth (vLanes s c w.d wd) i (e.a.toNat % 2 ^ (8 * wd)))) else s)

/-! Memory (R172 to R174). -/

/-- The effective address, from the scalar S sent. -/
def vEa (w : Fields) (e : VEntry) : Word := e.a + se20 w.imm
/-- The register-region offset of vD. -/
def vOff (s : State) (c : CoreId) (w : Fields) : Nat := (s.core c).vview.toNat + 256 * w.d.toNat
/-- The guard mask, one lane per width bytes. -/
def vMask (k : Core) (w : Fields) (width : Nat) : List Bool := (List.range 256).map (fun i => laneOn k w width (i / width))
def selOf (m : List Bool) : List Nat := (List.range m.length).filter (fun i => m.getD i false)

def bodyVld (w : Fields) : VBody := fun s c e =>
  let k := s.core c
  let ea := vEa w e
  let m := vMask k w 1
  let dest := Dest.region (vOff s c w) m
  let buf : List Byte := List.replicate 256 0
  if fHi w = 4 then
    match windowPlan s c (windowOf ea).1 (windowOf ea).2 256 (selOf m) with
    | .bad x => .trap x ea
    | .ok buf parts used beyond =>
        let s := s.setCore c (k.touchLines used)
        let s := if beyond then s.raisePwoob c 7 0 e.pc.toNat else s
        .later (s.issueAccess c { eng := .v } e.pc dest w.push buf parts)
  else match checkAccess s c (fHi w) ea (selOf m) .r with
    | .bad x => .trap x ea
    | .ok bytes _ =>
      .later (s.issueAccess c { eng := .v } e.pc dest w.push buf
        ((vectorParts ea bytes).map (fun p => (p, AccOp.load))))

/-- Store parts with their bytes and the bytes a guard selects. -/
def maskedParts (d : List Byte) (m : List Bool) (l : List Part) : List (Part × AccOp) :=
  l.map (fun p =>
    let b := (d.drop p.pos).take p.len
    let n := (m.drop p.pos).take p.len
    (p, if n.all id then AccOp.store b else .storeM b n))

def bodyVst (w : Fields) : VBody := fun s c e =>
  let k := s.core c
  let ea := vEa w e
  match checkAccess s c (fHi w) ea (selOf (vMask k w 1)) .w with
  | .bad x => .trap x ea
  | .ok bytes _ =>
    if !storeRoom k then .hold
    else .later (s.issueAccess c { eng := .v } e.pc .none w.push []
      (maskedParts (readV s c w.d) (vMask k w 1) (vectorParts ea bytes)))

/-- The width of VLDG and VSTS, and the address of element j (R173). -/
def gWidth (w : Fields) : Nat := 2 ^ (fLo w % 4)
def gEa (s : State) (c : CoreId) (w : Fields) (e : VEntry) (j : Nat) : Word :=
  let n := gWidth w
  vEa w e + BitVec.ofInt 64 (toS (8 * n) ((vLanes s c w.b n).getD j 0) * n)
/-- The elements the guard selects, by lane and address. -/
def gSel (s : State) (c : CoreId) (w : Fields) (e : VEntry) : List (Nat × Word) :=
  ((List.range (256 / gWidth w)).filter (laneOn (s.core c) w (gWidth w))).map (fun j => (j, gEa s c w e j))

/-- The fault of one element of a gather or scatter. -/
def gFault (s : State) (c : CoreId) (w : Fields) (pm : Perm) (ea : Word) : Option Cause :=
  if fHi w = 4 ∧ pm = Perm.r then
    match windowPlan s c (windowOf ea).1 (windowOf ea).2 (gWidth w) (List.range (gWidth w)) with
    | .bad y => some y
    | .ok .. => none
  else match checkAccess s c (fHi w) ea (List.range (gWidth w)) pm with
    | .bad y => some y
    | .ok _ _ => none

/-- The start checks of a gather or scatter (R173): alignment of every element, then each access; the first cause in the
order of R35 and the lowest failing address. DEDUCED (log 70). -/
def gCheck (s : State) (c : CoreId) (w : Fields) (e : VEntry) (pm : Perm) : Option (Cause × Word) :=
  let eas := (gSel s c w e).map (·.2)
  let lowest (l : List Word) : Word := l.foldl wmin (l.headD 0)
  let odd := eas.filter (fun a => a.toNat % gWidth w != 0)
  if !odd.isEmpty then some (.misaligned, lowest odd)
  else
    let bad := eas.filterMap (fun a => (gFault s c w pm a).map (fun x => (x, a)))
    ((bad.map (fun x => some x.1)).foldl firstCause none).map (fun x => (x, lowest (bad.map (·.2))))

/-- Shift the parts of an element to its lane. -/
def atLane (n j : Nat) (l : List (Part × AccOp)) : List (Part × AccOp) :=
  l.map (fun p => ({ p.1 with pos := p.1.pos + n * j }, p.2))

def bodyVldg (w : Fields) : VBody := fun s c e =>
  let k := s.core c
  let n := gWidth w
  match gCheck s c w e .r with
  | some (x, v) => .trap x v
  | none =>
      let m := vMask k w n
      let dest := Dest.region (vOff s c w) m
      let l := gSel s c w e
      if fHi w = 4 then
        let plans := l.map (fun x => (x.1, windowPlan s c (windowOf x.2).1 (windowOf x.2).2 n (List.range n)))
        let buf := plans.foldl (fun b p => match p.2 with | .ok d _ _ _ => patch b (n * p.1) d | .bad _ => b)
          (List.replicate 256 0)
        let parts := plans.flatMap (fun p => match p.2 with | .ok _ q _ _ => atLane n p.1 q | .bad _ => [])
        let used := plans.foldl (fun u p => match p.2 with
          | .ok _ _ x _ => x ++ u.filter (fun y => !(x.any (fun z => z.1 == y.1))) | .bad _ => u) []
        let beyond := plans.any (fun p => match p.2 with | .ok _ _ _ b => b | .bad _ => false)
        let s := s.setCore c (k.touchLines used)
        let s := if beyond then s.raisePwoob c 7 0 e.pc.toNat else s
        .later (s.issueAccess c { eng := .v } e.pc dest w.push buf parts)
      else
        let parts := l.flatMap (fun x => match checkAccess s c (fHi w) x.2 (List.range n) .r with
          | .ok bytes _ => atLane n x.1 ((scalarParts x.2 n bytes).map (fun p => (p, AccOp.load)))
          | .bad _ => [])
        .later (s.issueAccess c { eng := .v } e.pc dest w.push (List.replicate 256 0) parts)

/-- Elements are numbered in lane order, so overlapping ones are performed in ascending lane order (R71, R173). -/
def bodyVsts (w : Fields) : VBody := fun s c e =>
  let k := s.core c
  let n := gWidth w
  match gCheck s c w e .w with
  | some (x, v) => .trap x v
  | none =>
    if !storeRoom k then .hold
    else
      let d := vLanes s c w.d n
      let parts := (gSel s c w e).flatMap (fun x =>
        match checkAccess s c (fHi w) x.2 (List.range n) .w with
        | .ok bytes _ => storeParts (leBytes n (d.getD x.1 0)) (scalarParts x.2 n bytes)
        | .bad _ => [])
      .later (s.issueAccess c { eng := .v } e.pc .none w.push [] parts)

/-- A scratchpad of this device. -/
def isOwnSpad (l : Loc) : Bool := match l with | .spad _ _ => true | _ => false

/-- Two checks of the 32 words of VLDF and VSTE (R174): the place of word 0, or a trap; no message carries them to a
scratchpad of the peer. DESIGN CHOICE (log 18). -/
def feWords (s : State) (c : CoreId) (w : Fields) (ea : Word) (pm : Perm) : Sum (Loc × Nat × Nat) Cause :=
  let sel := selOf (vMask (s.core c) w 8)
  if ea.toNat % 8 ≠ 0 then .inr .misaligned
  else match checkAccess s c (fHi w) ea (List.range 256) .r with
    | .bad .rangeFault => .inr .rangeFault
    | _ =>
      match checkAccess s c (fHi w) ea sel pm with
      | .bad x => .inr x
      | .ok [] _ => .inl (.spad 0 0, 1, 0)
      | .ok (b :: t) _ =>
        let l := b.loc.minus b.pos
        if !isOwnSpad b.loc || (b :: t).any (fun x => x.loc != l.plus x.pos)
            then .inr .rangeFault
        else .inl (l, b.cls, b.gr)

/-- The words a guard selects, as a number. -/
def wordMask (k : Core) (w : Fields) : Nat :=
  (List.range 32).foldl (fun m j => if laneOn k w 8 j then m + 2 ^ j else m) 0

/-- The full/empty access of a vector; a guard that selects no word leaves its address unchecked (R11, R157). -/
def feVector (w : Fields) (pm : Perm) (dest : State → CoreId → Dest) (buf : List Byte)
    (op : State → CoreId → Nat → AccOp) : VBody := fun s c e =>
  let k := s.core c
  let ea := vEa w e
  let mask := wordMask k w
  if mask = 0 then .later (s.issueAccess c { eng := .v } e.pc (dest s c) w.push buf [])
  else match feWords s c w ea pm with
  | .inr x => .trap x ea
  | .inl (l, cls, gr) =>
    let o := op s c mask
    if (o.writes && !storeRoom k) then .hold
    else .fe (s.issueAccess c { eng := .v, strong := true, acq := true } e.pc (dest s c) w.push buf
      [({ pos := 0, loc := l, len := 256, cls := cls, gr := gr }, o)]) k.seq

def bodyVldf (w : Fields) : VBody :=
  feVector w .r (fun s c => .region (vOff s c w) (vMask (s.core c) w 8)) (List.replicate 256 0)
    (fun _ _ m => .vldf m (fLo w == 1))
def bodyVste (w : Fields) : VBody :=
  feVector w .w (fun _ _ => .none) [] (fun s c m => .vste m (readV s c w.d))

/-! Records and logs (R176, R177). -/

/-- The guard of VQNT and VDQNT: bit 0 governs the whole instruction (R157). -/
def wholeOn (k : Core) (w : Fields) : Bool := laneOn k w 1 0

/-- o, c, nrec and fmt of R176. -/
def qO (w : Fields) : Nat := immBits w 15 8
def qC (w : Fields) : Nat := immBits w 7 6
def qN (w : Fields) : Nat := immBits w 5 4 + 1
def qFmt (w : Fields) : Nat := immBits w 2 0
/-- DEDUCED (log 32). -/
def qOdd (w : Fields) : Bool := qO w % 2 == 1 && (qFmt w == 1 || qFmt w == 4)

def bodyVqnt (w : Fields) : VBody := fun s c _ =>
  let t := fmtOf (immEt w)
  if !wholeOn (s.core c) w then .done s
  else if qOdd w then .trap .misaligned (w64 (qO w))
  else
    let a := (vLanes s c w.a (etWidth (immEt w))).map (fDec t)
    let d := (List.range (qN w)).foldl (fun d r =>
      patch d (qO w + r * recSize (qFmt w)) (quantRecord ((a.drop (32 * (qC w + r))).take 32) (qFmt w)))
      (readV s c w.d)
    .done (s.writeV c w.d d)

def bodyVdqnt (w : Fields) : VBody := fun s c _ =>
  let t := fmtOf (immEt w)
  let wd := etWidth (immEt w)
  if !wholeOn (s.core c) w then .done s
  else
    let a := readV s c w.a
    let recs := (List.range (qN w)).map (fun r => (a.drop (qO w + r * recSize (qFmt w))).take (recSize (qFmt w)))
    if recs.any (recBad (qFmt w)) then .trap .illOperand (w64 (qO w))
    else if qOdd w then .trap .misaligned (w64 (qO w))
    else
      let vals := recs.flatMap (fun r => (List.range 32).map (fun i => fEnc t .rne (recVal (qFmt w) r i)))
      .done (s.writeV c w.d (patch (readV s c w.d) (32 * qC w * wd) (bytesOf wd vals)))

/-- VLOGC (R177); the guard acts on the lanes of the float type. -/
def bodyVlogc (w : Fields) : VBody := fun s c _ =>
  let k := s.core c
  let t := fmtOf (immEt w)
  let wt := etWidth (immEt w)
  let e := immBits w 7 0
  let part := immBits w 11 8
  if fLo w = 0 then
    let a := vLanes s c w.a wt
    let new := (matchLanes wt 2 part).foldl (fun l m =>
      if laneOn k w wt m.1 then setNth l m.2 (l16Of (fDec t (a.getD m.1 0)) e) else l) (vLanes s c w.d 2)
    .done (s.writeV c w.d (bytesOf 2 new))
  else
    let a := vLanes s c w.a 2
    let new := (matchLanes 2 wt part).foldl (fun l m =>
      if laneOn k w wt m.2 then setNth l m.2 (fEnc t .rne (l16Val (a.getD m.1 0) e)) else l) (vLanes s c w.d wt)
    .done (s.writeV c w.d (bytesOf wt new))

/-! VDOT, VPM, VIOTA, VTOPK, VRAND (R163, R168, R179 to R181). -/

def bodyVdot (w : Fields) : VBody := fun s c e =>
  let k := s.core c
  let et := immEt w
  let src := match fLo w with | 0 => 0 | 1 => 4 | 2 => 1 | 3 => 9 | _ => 8
  let a := vLanes s c w.a (etWidth src)
  let b := vLanes s c w.b (etWidth src)
  let d := vLanes s c w.d (etWidth et)
  laneBody w (fun _ _ _ _ j =>
    if fLo w ≤ 2 then dotInt et src 4 a b (d.getD j 0) j else dotF (fmtOf src) (rmV k w) a b (d.getD j 0) j) s c e

/-- VPM (R163). A count of 256 keeps the low bits of an 8-bit lane. DESIGN CHOICE (log 60). -/
def bodyVpm (w : Fields) : VBody := fun s c e =>
  let k := s.core c
  let et := immEt w
  let wd := etWidth et
  let n := lanes et
  let a := vLanes s c w.a wd
  let bit (r : BitVec 6) (j : Nat) : Bool := (k.rp (r4 r)).getLsbD (j * wd)
  match fLo w with
  | 0 => laneBody w (fun _ _ _ _ j => if bit w.a j then 2 ^ (8 * wd) - 1 else 0) s c e
  | 1 => .done (s.setCore c (k.wp (r4 w.d) (putPred (k.rp (r4 w.d)) wd (laneOn k w wd) (a.map (· != 0)))))
  | 2 =>
    let l := ((List.range n).filter (bit w.b)).map (fun j => a.getD j 0)
    laneBody w (fun _ _ _ _ j => l.getD j 0) s c e
  | 3 => laneBody w (fun _ _ _ _ j =>
      if bit w.b j then a.getD ((List.range j).countP (bit w.b)) 0 else 0) s c e
  | _ => laneBody w (fun _ _ _ _ j => if j = 0 then (List.range n).countP (bit w.a) else 0) s c e

def bodyViota (w : Fields) : VBody := fun s c e =>
  laneBody w (fun _ _ _ e j =>
    intLane (immEt w) (toS 16 (immLo w) + j * toS 64 e.a.toNat)) s c e

/-- The candidates of VTOPK (R180). -/
def topCands (s : State) (c : CoreId) (w : Fields) (e : VEntry) (kk : Nat) : List Cand :=
  let k := s.core c
  let et := immEt w
  let wd := etWidth et
  let a := vLanes s c w.a wd
  let isNan (x : Nat) : Bool := !isI et && fIsNan (fDec (fmtOf et) x)
  let new := ((List.range (lanes et)).filter (fun j => laneOn k w wd j && !isNan (a.getD j 0))).map (fun j =>
    ({ v := a.getD j 0, i := (e.b.toNat + j) % 2 ^ 32, old := false } : Cand))
  if fLo w = 0 then new
  else
    let d := vLanes s c w.d wd
    let x := vLanes s c (w.d + 1) 4
    new ++ ((List.range kk).filter (fun i => x.getD i 0 != 2 ^ 32 - 1)).map (fun i =>
      ({ v := d.getD i 0, i := x.getD i 0, old := true } : Cand))

def bodyVtopk (w : Fields) : VBody := fun s c e =>
  let et := immEt w
  let wd := etWidth et
  let kk := immBits w 7 0
  let top := ((topCands s c w e kk).foldl (fun l x => candInsert et x l) []).take kk
  let low := if isI et then intLane et (typeMin et) else fInfBits (fmtOf et) true
  let vals := (List.range (lanes et)).map (fun j => match top[j]? with | some x => x.v | none => low)
  let idx := (List.range 64).map (fun j => match top[j]? with | some x => x.i | none => 2 ^ 32 - 1)
  .done ((s.writeV c w.d (bytesOf wd vals)).writeV c (w.d + 1) (bytesOf 4 idx))

def bodyVrand (w : Fields) : VBody := fun s c e =>
  laneBody w (fun _ _ _ e j => randLane (immEt w) (fLo w) (draw e.b (e.a + w64 j))) s c e

/-! The queue of V. -/

/-- The fields and the body of a vector instruction. -/
def vecOf : Instr → Option (Fields × VBody)
  | .vadd w => some (w, bodyVadd w) | .vsub w => some (w, bodyVsub w) | .vmul w => some (w, bodyVmul w)
  | .vfma w => some (w, bodyVfma w) | .vmin w => some (w, bodyVmin w) | .vmax w => some (w, bodyVmax w)
  | .vun w => some (w, bodyVun w) | .vcmp w => some (w, bodyVcmp w) | .vsel w => some (w, bodyVsel w)
  | .vlog w => some (w, bodyVlog w) | .vsh w => some (w, bodyVsh w) | .vcvt w => some (w, bodyVcvt w)
  | .vred w => some (w, bodyVred w) | .vscan w => some (w, bodyVscan w) | .vperm w => some (w, bodyVperm w)
  | .vbcast w => some (w, bodyVbcast w) | .vext w => some (w, bodyVext w) | .vins w => some (w, bodyVins w)
  | .vld w => some (w, bodyVld w) | .vst w => some (w, bodyVst w) | .vldg w => some (w, bodyVldg w)
  | .vsts w => some (w, bodyVsts w) | .vldf w => some (w, bodyVldf w) | .vste w => some (w, bodyVste w)
  | .vqnt w => some (w, bodyVqnt w) | .vdqnt w => some (w, bodyVdqnt w) | .vlogc w => some (w, bodyVlogc w)
  | .vdot w => some (w, bodyVdot w) | .vpm w => some (w, bodyVpm w) | .viota w => some (w, bodyViota w)
  | .vtopk w => some (w, bodyVtopk w) | .vrand w => some (w, bodyVrand w)
  | _ => none

/-- The vector registers an instruction names (R25): the fields that name v registers, and v(D+1) of VTOPK. -/
def vRegs (i : Instr) (w : Fields) : List Nat :=
  let d := w.d.toNat
  let a := w.a.toNat
  let b := w.b.toNat
  match i with
  | .vcmp _ => [a, b]
  | .vext _ => [a]
  | .vins _ => [d]
  | .vld _ | .vst _ | .vldf _ | .vste _ | .viota _ | .vrand _ => [d]
  | .vldg _ | .vsts _ => [d, b]
  | .vbcast _ => if fLo w = 0 then [d] else [d, a]
  | .vun _ | .vcvt _ | .vred _ | .vscan _ | .vqnt _ | .vdqnt _ | .vlogc _ => [d, a]
  | .vsh _ => if 4 ≤ fLo w then [d, a] else [d, a, b]
  | .vperm _ => if fLo w = 1 || fLo w = 2 then [d, a] else [d, a, b]
  | .vpm _ => (match fLo w with | 0 | 4 => [d] | 1 => [a] | _ => [d, a])
  | .vtopk _ => [d, d + 1, a]
  | _ => [d, a, b]
/-- V waits for a granule its registers name (R25). -/
def granuleBusy (k : Core) (i : Instr) (w : Fields) : Bool :=
  (vRegs i w).any (fun n => granulePending k (k.vview.toNat + 256 * n) 256)

/-- The s registers a vector instruction reads (R154): they are sent with it. -/
def vScalars (i : Instr) (w : Fields) : List (BitVec 6) :=
  match i with
  | .vld _ | .vst _ | .vldg _ | .vsts _ | .vldf _ | .vste _ | .viota _ => [w.a]
  | .vbcast _ => if fLo w = 0 then [w.a] else []
  | .vperm _ => if fLo w = 2 then [w.b] else []
  | .vext _ => if fLo w = 0 then [] else [w.b]
  | .vins _ => if fLo w = 0 then [w.a] else [w.a, w.b]
  | .vtopk _ => [w.b]
  | .vrand _ => [w.a, w.b]
  | _ => []
/-- The s register it writes; a write to s0 is discarded. -/
def vDst (i : Instr) (w : Fields) : Option (BitVec 6) :=
  match i with | .vext _ => if w.d = 0 then none else some w.d | _ => none
/-- The p registers it reads and writes, its guard and the non-blocking form's among them. -/
def vPredR (i : Instr) (w : Fields) : List (BitVec 4) :=
  (if w.en then [w.gp] else []) ++ (match i with
    | .vsel _ => [BitVec.ofNat 4 (immBits w 3 0)]
    | .vpm _ => (match fLo w with | 0 | 4 => [r4 w.a] | 2 | 3 => [r4 w.b] | _ => [])
    | _ => [])
def vPredW (i : Instr) (w : Fields) : List (BitVec 4) :=
  (if isNb w then [w.gp] else []) ++ (match i with
    | .vcmp _ => [r4 w.d]
    | .vpm _ => if fLo w = 1 then [r4 w.d] else []
    | _ => [])
/-- Later loads wait for it: a store, whose bytes they may need, and VLDF, an acquire (R71, R78). -/
def vHolds (i : Instr) : Bool :=
  match i with | .vst _ | .vsts _ | .vste _ | .vldf _ => true | _ => false

/-- What S sends to V, at an address. -/
def Core.vecEntry (k : Core) (i : Instr) (w : Fields) (pc : Word) : VEntry :=
  { ins := i, pc := pc, a := k.rs w.a, b := k.rs w.b, seq := nextSeq k,
    snap := { s := k.s, p := k.p, slots := k.slots, obs := k.obs }, after := 0, dst := vDst i w, pr := vPredR i w,
    pw := vPredW i w, holds := vHolds i, tokStart := none, fe := none, popped := false }
/-- S sends a vector instruction. -/
def Core.sendVec (k : Core) (e : VEntry) : Core :=
  let k := k.countAhead
  { k with vq := k.vq ++ [e], seq := e.seq }

/-- The pop and the reserved place of a VLDF or VSTE that ends without effect (R155, R156). -/
def Core.vecUndo (k : Core) (e : VEntry) : Core :=
  match vecOf e.ins with
  | some (w, _) =>
    if e.popped then (k.push w.pop).setReserved w.push (k.reserved w.push - (if w.push == 0 then 0 else 1)) else k
  | none => k

/-- The core as it stood before a vector instruction of its queue: every later instruction is discarded (R155). -/
def Core.before (k : Core) (c : CoreId) (e : VEntry) : Core :=
  let gs := k.groups.filter (fun g => g.id < e.seq)
  { k with s := e.snap.s, p := e.snap.p, slots := e.snap.slots, obs := e.snap.obs, pc := e.pc, vq := [], groups := gs,
           pend := k.pend.filter (fun a => a.seq < e.seq),
           stamps := k.stamps.filter (fun x => x.core != c || x.seq < e.seq),
           busyS := gs.filterMap (fun g => match g.dest with | .sreg r _ => if r = 0 then none else some r.toNat | _ => none) }

/-- Discard everything from the oldest vector instruction that has not passed its start checks on. -/
def State.rewind (s : State) (c : CoreId) : State :=
  match (s.core c).vq with
  | [] => s
  | e :: _ =>
    { s with homeQ := s.homeQ.filter (fun a => a.core != c || a.seq < e.seq) }.modCore c (fun k => (k.vecUndo e).before c e)

/-- The vector instruction at the head traps: every later one is discarded, and TEPC holds its address (R155). -/
def State.vecTrap (s : State) (c : CoreId) (x : Cause) (v : Word) : State :=
  let s := s.rewind c
  s.takeTrap c x false (s.core c).pc v

/-- The rest of the queue keeps, for what was before it, what a vector instruction wrote to s and p registers. -/
def keepWritten (k : Core) (e : VEntry) (rest : List VEntry) : List VEntry :=
  rest.map (fun x => { x with snap := { x.snap with
    s := (match e.dst with | some r => x.snap.s.set r.toNat (k.rs r) r.isLt | none => x.snap.s),
    p := e.pw.foldl (fun v q => v.set q.toNat (k.rp q) q.isLt) x.snap.p } })

/-- The start of a vector instruction in V: its pop, and the predicate of the non-blocking form (R14, R99). -/
def Core.vecLeave (k : Core) (w : Fields) (e : VEntry) (rest : List VEntry) (now : Bool) : Core :=
  let k := k.pop w.pop
  let k := if now then k.push w.push else k
  let k := if isNb w then k.wp w.gp (predOf true) else k
  { k with vq := keepWritten k e rest }

/-- Number the next accesses of a core from n on. -/
def State.atSeq (s : State) (c : CoreId) (n : Nat) : State :=
  if (s.core c).seq = n then s else s.modCore c (fun k => { k with seq := n })

/-- The instruction at the head starts when its tokens, its granules and its accesses allow; its accesses take the numbers
kept for it. -/
def State.vecStart (s : State) (c : CoreId) : State :=
  let k := s.core c
  match k.vq with
  | [] => s
  | e :: rest =>
    match vecOf e.ins with
    | none => s.setCore c { k with vq := rest }
    | some (w, body) =>
      let back (s : State) : State := s.atSeq c (max k.seq (s.core c).seq)
      if e.fe.isSome then s
      else if !k.queuesOk .v w.pop w.push then s.vecTrap c .illOperand (badQueue k .v w)
      else if !(k.popReady w.pop && k.pushReady w.push) then
        if isNb w then
          let k := k.wp w.gp (predOf false)
          s.setCore c { k with vq := keepWritten k e rest }
        else if e.tokStart.isSome then s
        else s.setCore c { k with vq := { e with tokStart := some s.gtc } :: rest }
      else if granuleBusy k e.ins w then s
      else match body (s.atSeq c e.seq) c e with
        | .done t => (back t).modCore c (fun k => k.vecLeave w e rest true)
        | .later t => (back t).modCore c (fun k => k.vecLeave w e rest false)
        | .fe t n => (back t).modCore c (fun k =>
            let k := k.vecLeave w e rest false
            { k with vq := { e with fe := some n, popped := true } :: k.vq })
        | .hold => s
        | .trap x v => s.vecTrap c x v

/-- S sends a vector instruction to V with its scalar operands, or stalls: on a full queue, on a register with a result on
the way, or with 32 instructions held (R14, R154, R155). -/
def vecRun (s : State) (i : Instr) (w : Fields) : Out :=
  let c := s.cur
  let k := s.core c
  let reads := vScalars i w
  if k.vq.length ≥ 16 || aheadFull k || isBusy k (reads ++ (vDst i w).toList)
      || k.vq.any (fun e => reads.any (fun r => e.dst == some r)) then .next s
  else .next ((s.setCore c { (k.sendVec (k.vecEntry i w k.pc)) with pc := k.npc }).vecStart c)

def execVadd (w : Fields) (s : State) : Out := vecRun s (.vadd w) w
def execVsub (w : Fields) (s : State) : Out := vecRun s (.vsub w) w
def execVmul (w : Fields) (s : State) : Out := vecRun s (.vmul w) w
def execVfma (w : Fields) (s : State) : Out := vecRun s (.vfma w) w
def execVmin (w : Fields) (s : State) : Out := vecRun s (.vmin w) w
def execVmax (w : Fields) (s : State) : Out := vecRun s (.vmax w) w
def execVun (w : Fields) (s : State) : Out := vecRun s (.vun w) w
def execVcmp (w : Fields) (s : State) : Out := vecRun s (.vcmp w) w
def execVsel (w : Fields) (s : State) : Out := vecRun s (.vsel w) w
def execVlog (w : Fields) (s : State) : Out := vecRun s (.vlog w) w
def execVsh (w : Fields) (s : State) : Out := vecRun s (.vsh w) w
def execVcvt (w : Fields) (s : State) : Out := vecRun s (.vcvt w) w
def execVred (w : Fields) (s : State) : Out := vecRun s (.vred w) w
def execVscan (w : Fields) (s : State) : Out := vecRun s (.vscan w) w
def execVperm (w : Fields) (s : State) : Out := vecRun s (.vperm w) w
def execVbcast (w : Fields) (s : State) : Out := vecRun s (.vbcast w) w
def execVext (w : Fields) (s : State) : Out := vecRun s (.vext w) w
def execVins (w : Fields) (s : State) : Out := vecRun s (.vins w) w
def execVld (w : Fields) (s : State) : Out := vecRun s (.vld w) w
def execVst (w : Fields) (s : State) : Out := vecRun s (.vst w) w
def execVldg (w : Fields) (s : State) : Out := vecRun s (.vldg w) w
def execVsts (w : Fields) (s : State) : Out := vecRun s (.vsts w) w
def execVldf (w : Fields) (s : State) : Out := vecRun s (.vldf w) w
def execVste (w : Fields) (s : State) : Out := vecRun s (.vste w) w
def execVqnt (w : Fields) (s : State) : Out := vecRun s (.vqnt w) w
def execVdqnt (w : Fields) (s : State) : Out := vecRun s (.vdqnt w) w
def execVlogc (w : Fields) (s : State) : Out := vecRun s (.vlogc w) w
def execVdot (w : Fields) (s : State) : Out := vecRun s (.vdot w) w
def execVpm (w : Fields) (s : State) : Out := vecRun s (.vpm w) w
def execViota (w : Fields) (s : State) : Out := vecRun s (.viota w) w
def execVtopk (w : Fields) (s : State) : Out := vecRun s (.vtopk w) w
def execVrand (w : Fields) (s : State) : Out := vecRun s (.vrand w) w

/-- LANDING (R25): entry i, among the first eight, is written into its granule at once, when its operation adds nothing
more to it; its instruction's push is made. -/
def execLanding (c : CoreId) (i : Nat) (s : State) : Out :=
  let k := s.core c
  if i ≥ 8 then .next s
  else match k.landing[i]? with
    | none => .next s
    | some l =>
      if l.more && !l.vec && [Eng.m, .c, .g, .x].any (fun e => (k.queueOf e).any (fun o => o.id == l.op && !o.fin)) then .next s
      else
      let s := { s with mem := writeMasked s.mem (regionKey c l.off) l.data l.mask }
      .next (s.setCore c (({ k with landing := delNth k.landing i }).pushReserved l.push))

/-- FE_TIMEOUT (R31): a full/empty wait of 2^20 ticks traps on the waiting core. -/
def execFeTimeout (c : CoreId) (s : State) : Out :=
  let late (a : Acc) : Bool := a.core == c && (match a.waiting with | some t => t.toNat + waitLimit ≤ s.gtc.toNat | none => false)
  let k := s.core c
  let out (seq : Nat) : State :=
    let s := { s with homeQ := s.homeQ.filter (fun a => a.seq != seq || a.core != c) }
    s.modCore c (fun k => { k with
      busyS := (match k.groups.find? (fun g => g.id == seq) with
        | some { dest := .sreg r _, .. } => k.busyS.filter (fun n => n != r.toNat) | _ => k.busyS),
      groups := k.groups.filter (fun g => g.id != seq),
      stamps := k.stamps.filter (fun e => e.core != c || e.seq != seq) })
  match k.wait with
  | some (.home n w) =>
    (match s.homeQ.find? (fun a => a.seq == n && late a) with
     | some a =>
       (match a.op with
        | .ldf _ | .ste _ =>
          let s := (out n).modCore c (fun k => k.setReserved w.push (k.reserved w.push - (if w.push == 0 then 0 else 1)))
          .next (s.trapNow c .feTimeout (eaOf k w))
        | _ => .next s)
     | none => .next s)
  | _ =>
    match k.vq with
    | e :: _ =>
      (match e.fe with
       | some n =>
         (match s.homeQ.find? (fun a => a.seq == n && late a) with
          | some _ => .next (s.vecTrap c .feTimeout (match vecOf e.ins with | some (w, _) => vEa w e | none => 0))
          | none => .next s)
       | none => .next s)
    | [] => .next s

end Sys2Proof.Machine
end

