-- ==== Sys2Proof/Machine/Patch.lean ====
section
/-! DEFINITION. Patch words (R100 to R106): the staging slots and the snapshot an operation takes at GO. -/

namespace Sys2Proof.Machine

open Sys2Proof

def engOfCode : Nat → Eng
  | 0 => .v | 1 => .m | 2 => .c | 3 => .g | _ => .x

/-- The slot of an engine in the current mode (R104). -/
def slotIndex (k : Core) (eng : Nat) : Nat := (if k.handler then 5 else 0) + eng
def Core.slot (k : Core) (eng : Nat) : Slot := k.slots[slotIndex k eng]?.getD Slot.reset
def Core.setSlot (k : Core) (eng : Nat) (x : Slot) : Core := { k with slots := k.slots.setIfInBounds (slotIndex k eng) x }

/-- The kinds of an engine that are not reserved (R102). -/
def opkOk (eng kind : Nat) : Bool :=
  match eng with
  | 0 => 0x60 ≤ kind && kind ≤ 0x7F
  | 1 => 1 ≤ kind && kind ≤ 4
  | 2 => 1 ≤ kind && kind ≤ 10
  | 3 => 1 ≤ kind && kind ≤ 8
  | _ => 1 ≤ kind && kind ≤ 4

/-- Header bits of a template (R101): EN, GP, GS, POP and PUSH. -/
def hEn (b : BitVec 256) : Bool := b.getLsbD 12
def hGp (b : BitVec 256) : BitVec 4 := b.extractLsb' 8 4
def hGs (b : BitVec 256) : Bool := b.getLsbD 7
def hPop (b : BitVec 256) : BitVec 3 := b.extractLsb' 13 3
def hPush (b : BitVec 256) : BitVec 3 := b.extractLsb' 16 3
/-- Reserved header bits are clear, and GUARD with EN = 0 has no other bit set (R111). -/
def headerOk (b : BitVec 256) : Bool :=
  b.extractLsb' 19 13 == 0 && (hEn b || (hGp b == 0 && !hGs b))

/-- The fields of the vector instruction a V template forms (R103, R106). -/
def vFieldsOf (b : BitVec 256) : Fields :=
  { en := hEn b, gp := hGp b, gs := hGs b, pop := hPop b, push := hPush b, d := b.extractLsb' 32 6,
    a := b.extractLsb' 38 6, b := b.extractLsb' 44 6, f := b.extractLsb' 50 6, imm := b.extractLsb' 56 20 }

/-- The register fields of an engine's map, by FSEL (R188, R198, R213, R256). -/
def regFields : Nat → List Nat
  | 2 => [5, 6, 10, 12]
  | 3 => [5, 6, 17, 21, 23, 26]
  | 4 => [5, 6, 10, 12]
  | _ => []

/-- The values the register fields hold at GO (R12). -/
def regsAt (k : Core) (eng : Nat) (b : BitVec 256) : List (Nat × Word) :=
  (regFields eng).map (fun f => (f, k.rs (BitVec.ofNat 6 (fieldOf b eng f))))
def regVal (l : List (Nat × Word)) (f : Nat) : Word := ((l.find? (fun x => x.1 == f)).map (·.2)).getD 0

/-- The views an M operation names: tiles A and B, then the accumulator. -/
def viewsAt (k : Core) (eng : Nat) (b : BitVec 256) : List Word :=
  if eng = 1 then
    [k.tview[fieldOf b 1 5]?.getD 0, k.tview[fieldOf b 1 6]?.getD 0, k.aview[fieldOf b 1 7]?.getD 0]
  else []

/-- The length of a C or X operation (R183). -/
def lenAt (regs : List (Nat × Word)) (b : BitVec 256) (eng : Nat) : Nat :=
  if fieldOf b eng 10 = 0 then fieldOf b eng 9 else (regVal regs 10).toNat

/-- Every write of an operation falls in UO, as far as its destination address says at GO (R88). DEDUCED (log 22). -/
def uoAt (k : Core) (eng : Nat) (regs : List (Nat × Word)) (b : BitVec 256) : Bool :=
  let uo (va : Nat) : Bool := match rangeOf k va with | some r => wbits r.w3 9 7 == 2 | none => false
  let d := (regVal regs 6).toNat
  match eng with
  | 2 | 4 => fieldOf b eng 8 == 0 && opk b != 8 && uo d && uo (d + (lenAt regs b eng - 1))
  | _ => false

/-- The snapshot of an M, C, G or X operation at GO (R103, R182). -/
def snapshot (k : Core) (p : PatchWord) (b : BitVec 256) (promise : Word) : EOp :=
  let eng := p.eng.toNat
  let regs := regsAt k eng b
  { id := k.seq, tix := p.tix, bits := b, pc := k.pc,
    live := !hEn b || ((k.rp (hGp b)).getLsbD 0 != hGs b), popped := false,
    regs := regs, views := viewsAt k eng b, ae := k.ae, fmode := k.fmode, lseed := k.lseed, lantern := k.lantern,
    phstate := k.phstate, promise := promise, stop := false, started := false, tokStart := none, prog := 0, aux := 0,
    status := 0, gstatus := 0, stamps := flatStamps 0, uoOnly := uoAt k eng regs b, owed := 0, buf := [],
    cap := [], clamp := false, sealAt := [], sent := false, fin := false, noTok := false, so := false, held := none, last := [],
    cells := [], uoAll := true, cut := false, shut := false, chain := none, no := none, vview := k.vview, kvgen := k.kvgen[fieldOf b 3 22]?.getD 0 }

/-- One step of the lantern (R195). -/
def lanternStep (l : BitVec 16) : BitVec 16 :=
  let b := (l.getLsbD 0 ^^ l.getLsbD 2) ^^ (l.getLsbD 3 ^^ l.getLsbD 5)
  (l >>> 1) ||| (if b then 0x8000 else 0)

def queueRoom (k : Core) (eng : Nat) : Bool :=
  match eng with
  | 0 => k.vq.length < 16 | 1 => k.mq.length < 16 | 2 => k.cq.length < 32 | 3 => k.gq.length < 16
  | _ => k.xq.length < 16

/-- BSAFE marks the core's BEXECs that are queued or running at GO (R263). -/
def markSafe (k : Core) : Core :=
  { k with gq := k.gq.map (fun o => if opk o.bits = 3 then { o with stop := true } else o) }

/-- Enqueue the snapshot: MMAC advances the lantern, C draws its promise, PHFETCH is recorded against its half (R196,
R202, R208). -/
def State.enqueueOp (s : State) (c : CoreId) (p : PatchWord) (b : BitVec 256) : State :=
  let k := s.core c
  let eng := p.eng.toNat
  let (x, s) := if eng = 2 then s.freshNat else (0, s)
  let promise := s.gtc + w64 x
  let o := snapshot k p b (if promise.toNat < s.gtc.toNat then s.gtc else promise)
  let k := { k with seq := k.seq + 1, pc := k.pc + 4, wait := none }
  match eng with
  | 1 =>
    let s := s.setCluster (clusterOf c) { s.cluster (clusterOf c) with idle := none }
    s.setCore c { k with mq := k.mq ++ [o], lantern := if opk b = 1 then lanternStep k.lantern else k.lantern }
  | 2 =>
    let h := if fieldOf b 2 23 = 0 then phSel k.phstate else 1 - phSel k.phstate
    s.setCore c { k with cq := k.cq ++ [o], lastCopy := some (o.id, o.promise),
                         phsnap := if opk b = 8 && o.live then k.phsnap.setIfInBounds h (some o) else k.phsnap }
  | 3 =>
    let stops := opk b = 5 && o.live
    let s := if stops then s.stopJobs c false else s
    let k := if stops then markSafe k else k
    s.setCore c { k with gq := k.gq ++ [o] }
  | _ => s.setCore c { k with xq := k.xq ++ [o] }

/-- GO of a V operation: it behaves as the vector instruction its fields form (R103); until it has passed its start checks
the slot is kept as it was (R104, R111). -/
def State.goVector (s : State) (c : CoreId) (b : BitVec 256) : SRes :=
  let k := s.core c
  let w := vFieldsOf b
  match vecInstr (opk b) w with
  | none => .trapFree .illOp
  | some i =>
    if !i.wellFormed then .trapFree .illField
    else if !queueRoom k 0 then .hold s
    else
      .hold ((s.setCore c { ((k.sendVec (k.vecEntry i w k.pc)).setSlot 0 Slot.reset) with pc := k.pc + 4 }).vecStart c)

/-- The s registers an engine's template names at GO (R12). -/
def goRegs (eng : Nat) (b : BitVec 256) : List (BitVec 6) :=
  if eng = 0 then (match vecInstr (opk b) (vFieldsOf b) with
    | some i => vScalars i (vFieldsOf b) ++ (vDst i (vFieldsOf b)).toList
    | none => [])
  else (regFields eng).map (fun f => BitVec.ofNat 6 (fieldOf b eng f))

/-- ExecutePatch of R103, the decode checks among it. A reserved kind is found before a malformed header. DESIGN CHOICE (log 65). At
GO it waits for the registers its template names (R112). -/
def patchBody (p : PatchWord) (s : State) (c : CoreId) : SRes :=
  let k := s.core c
  let eng := p.eng.toNat
  let sl := k.slot eng
  let b := if sl.isOpen && sl.tix == p.tix then sl.bits else tmplGet k eng p.tix.toNat
  let b := if p.fsel = 0 then b else amend b eng p.fsel.toNat p.val.toNat
  if 5 ≤ eng then .trapFree .illOp
  else if !patchOk p then .trapFree .illField
  else if !p.go then
    .hold (s.setCore c { (k.setSlot eng { isOpen := true, tix := p.tix, bits := b }) with pc := k.pc + 4, wait := none })
  else if !opkOk eng (opk b) then .trapFree .engineFault
  else if !headerOk b then .trapFree .illField
  else if isBusy k (goRegs eng b) then .hold s
  else if eng = 0 then s.goVector c b
  else if !queueRoom k eng then .hold s
  else .hold ((s.enqueueOp c p b).modCore c (fun k => k.setSlot eng Slot.reset))

/-- PATCH_WORD (R103). Behind vector instructions that have not passed their start checks a word may stage fields; GO, and
a word that traps, wait for them (R155). -/
def execPatchWord (p : PatchWord) (s : State) : Out :=
  let c := s.cur
  if !(s.core c).vq.isEmpty then
    if p.go || aheadFull (s.core c) then .next s
    else match patchBody p s c with
      | .hold s => .next (s.modCore c Core.countAhead)
      | _ => .next s
  else match patchBody p s c with
    | .trap x v => .next (s.trapNow c x v)
    | .trapFree x => .next (s.trapFree c x)
    | .hold s => .next s
    | .done s npc | .later s npc => .next (s.modCore c (fun k => { k with pc := npc }))

end Sys2Proof.Machine
end

