-- ==== Sys2Proof/Machine/Engine.lean ====
section
/-! DEFINITION. What M, C, G and X operations share (R182 to R187): their queues, addresses, reads and writes, faults
and completion. -/

namespace Sys2Proof.Machine

open Sys2Proof

def engNo : Eng → Nat := engCode

/-- The head of an engine's queue. -/
def Core.headOp (k : Core) (e : Eng) : Option EOp := (k.queueOf e).head?
/-- Replace the head of an engine's queue. -/
def Core.setHead (k : Core) (e : Eng) (o : EOp) : Core :=
  match k.queueOf e with | [] => k | _ :: t => k.setQueue e (o :: t)
def State.setHead (s : State) (c : CoreId) (e : Eng) (o : EOp) : State := s.modCore c (fun k => k.setHead e o)

/-- A field of an operation's template. -/
def EOp.fld (o : EOp) (e : Eng) (fsel : Nat) : Nat := fieldOf o.bits (engNo e) fsel
def EOp.reg (o : EOp) (fsel : Nat) : Word := regVal o.regs fsel
def EOp.kind (o : EOp) : Nat := opk o.bits
def EOp.len (o : EOp) (e : Eng) : Nat := lenAt o.regs o.bits (engNo e)
/-- The rounding direction of the snapshot (R46). -/
def EOp.rm (o : EOp) : Rm := rmOf (wbits o.fmode 1 0)

/-- The operation ends with the status of a cause; it writes nothing more (R184). DEDUCED (log 15). -/
def EOp.fail (o : EOp) (x : Cause) : EOp := { o with started := true, fin := true, status := causeCode x }

/-! Addresses (R183). -/

inductive EAt where
  | mem (l : Loc) (cls gr : Nat)
  | region (off : Nat)
  | beyond
  | bad (x : Cause)
  deriving DecidableEq, Repr

/-- Byte i at an address of a space of R183. -/
def engAt (s : State) (k : Core) (sp : Nat) (base : Word) (i : Nat) (pm : Perm) : EAt :=
  if sp = 5 then
    if base.toNat + i < regionSize k then .region (base.toNat + i) else .bad .rangeFault
  else if sp ≤ 4 then
    match byteAt s k sp base i pm false with
    | .ok l cls gr => .mem l cls gr
    | .beyond => .beyond
    | .denied .. => .bad .permFault
    | .bad x => .bad x
  else .bad .illOperand

/-- One number for the byte an address resolves to (R211). -/
def EAt.key : EAt → Option Nat
  | .mem l _ _ => some l.key
  | .region o => some (2 ^ 58 + o)
  | _ => none

def EAt.follows (a b : EAt) : Bool :=
  match a, b with
  | .mem l c g, .mem m d h => m == l.plus 1 && c == d && g == h
  | .region o, .region p => p == o + 1
  | .beyond, .beyond => true
  | _, _ => false

/-- How many leading bytes follow one another. -/
def runOf : List EAt → Nat
  | [] => 0
  | a :: t => match t with | [] => 1 | b :: _ => if a.follows b then runOf t + 1 else 1

/-- The first cause among addresses, in the order of R35. -/
def worstAt : List EAt → Option Cause
  | [] => none
  | .bad x :: t => (match worstAt t with | some y => if causeRank y < causeRank x then some y else some x | none => some x)
  | _ :: t => worstAt t

/-- The closed extent of resolved bytes (R211). -/
def extentOf (l : List EAt) : Option (Nat × Nat) :=
  (l.filterMap EAt.key).foldl (fun x n => match x with | none => some (n, n) | some (a, b) => some (min a n, max b n)) none
def extentsMeet (a b : Option (Nat × Nat)) : Bool :=
  match a, b with | some (x, y), some (u, v) => x ≤ v && u ≤ y | _, _ => false

def causeIf (b : Bool) (x : Cause) : Option Cause := if b then some x else none

/-- Write checks of seals (R131), and of the register region and spaces. -/
def writeCause (s : State) (l : List EAt) : Option Cause :=
  firstCause (worstAt l) (causeIf (l.any (fun a => match a with | .mem loc _ _ => sealedByte s loc | _ => false)) .sealedWrite)

/-- The open seal an engine read finds at a staging byte: not closing, and no STAGE still filling it (R131, R209). -/
def readSeal (s : State) (sl o : Nat) : Option SealDesc :=
  (sealOf s sl o).bind (fun d => if d.closing || d.staging then none else some d)
/-- The buffers a source reads, none when a staging byte lies outside every sealed buffer. DEDUCED (log 25). -/
def sealsOf (s : State) : List EAt → Option (List (Nat × Nat))
  | [] => some []
  | .mem (.stg sl o) _ _ :: t =>
    (match readSeal s sl o, sealsOf s t with
     | some d, some r => some (if r.contains (d.slice, d.off) then r else (d.slice, d.off) :: r)
     | _, _ => none)
  | _ :: t => sealsOf s t

def State.countSeals (s : State) (l : List (Nat × Nat)) (up : Bool) : State :=
  { s with seals := s.seals.map (fun d =>
      if l.contains (d.slice, d.off) then { d with count := if up then d.count + 1 else d.count - 1 } else d) }

/-! Reading and writing as an engine. -/

/-- What waits in the queue of a home comes before an operation's access (R80), and a line whose stamps are pending is
transient (R74). -/
def homeBusy (s : State) (l : Loc) (len : Nat) : Bool :=
  isMoving s l || stampsPending s l.key len || (claims s).any (fun e =>
    !e.stuck && (if e.atWord then bytesMeet e.loc.key e.len l.key len else oneQueue e.loc e.len l len))

def whoOp (s : State) (c : CoreId) (e : Eng) (o : EOp) : Who := { core := c, eng := e, seq := o.id, cyc := s.cyc }
/-- An operation's access of a class must wait for earlier SO accesses (R83). -/
def soWaits (s : State) (c : CoreId) (o : EOp) (cls : Nat) : Bool := cls == 0 && !soAfter s c o.id

/-- Bytes read by an operation, or it must try again. -/
inductive ERead where
  | got (s : State) (d : List Byte)
  | wait (s : State)

/-- A memory-side fault holds the operation's read from now (R353, R354). -/
def State.holdOp (s : State) (c : CoreId) (e : Eng) (id ia : Nat) : State :=
  let s := s.noteFault ia (ctxOf s c) 0
  s.modCore c (fun k => k.modOp e id (fun o => { o with held := some ((o.held.map (·.1)).getD s.gtc, ia) }))

/-- The write stamp W of a value read joins the operation's stamps (R88). -/
def State.readStamp (s : State) (c : CoreId) (e : Eng) (id : Nat) (w : Word) : State :=
  s.modCore c (fun k => k.modOp e id (fun o => { o with stamps := maxStamps o.stamps (flatStamps w), held := none }))

/-- An operation reads bytes of its own scratchpad: their W joins its stamps (R88). -/
def State.ownStamp (s : State) (c : CoreId) (e : Eng) (id off len : Nat) : State :=
  s.readStamp c e id (leaseAt s (Loc.spad (s.core c).lid.toNat off).key 0 len).w

/-- The port an X operation uses for a block (R213), the coherence port for every other engine. -/
def xPort (s : State) (o : EOp) (e : Eng) (ia : Nat) : Bool :=
  let pick : Option Bool := if e == .x then
      (match o.fld .x 14 with | 1 => some false | 2 => some true | 3 => some ((ia / 64) % 2 == 1) | _ => none)
    else none
  match pick with
  | some p => if s.bridge.port0 && s.bridge.port1 then p else portOf s ia
  | none => portOf s ia

/-- Send a request of an operation. -/
def State.engRequest (s : State) (c : CoreId) (e : Eng) (o : EOp) (f : Flit) (cls : Nat := 1) : Option State :=
  match s.request f c e o.id 0 cls with
  | none => none
  | some s' =>
    let port := xPort s o e f.ia
    let t := s.bridge.nextTag % 4096
    some { s' with bridge := { s'.bridge with
      out := s.bridge.out ++ [{ f with tag := BitVec.ofNat 12 t, port := port }],
      reqs := s'.bridge.reqs.map (fun x => if x.1 == t then (x.1, { x.2 with flit := { x.2.flit with port := port } }) else x) } }

/-- A read of bytes of the peer inside a 64-byte block (R365). -/
def blockRead (a len : Nat) : Flit :=
  { flit0 with msg := 0x05, ia := a / 64 * 64, mask := linkMask a len, opf := BitVec.ofNat 16 (7 * 64 + 0x0F) }
/-- A word of a peer's scratchpad written and set full: STF without a value returned (R365). -/
def peerFill (a : Nat) (d : List Byte) : Flit :=
  { flit0 with msg := 0x05, ia := a, val := w64 (leNat d), opf := BitVec.ofNat 16 (3 * 64 + 32 + 0x14) }

/-- Bytes of the register region as an operation sees them: what it has landed already stands (R25). -/
def regionRead (s : State) (c : CoreId) (id off n : Nat) : List Byte :=
  (s.core c).landing.foldl (fun d l =>
    if l.op == id && !l.vec then
      ((List.range n).zip d).map (fun e =>
        if l.off ≤ off + e.1 && l.mask.getD (off + e.1 - l.off) false then l.data.getD (off + e.1 - l.off) 0 else e.2)
    else d) (s.readMem (regionKey c off) n)

/-- Read up to n bytes at an address: the first run of bytes that follow one another inside 32 bytes, one byte of a view. Bytes of the peer
come by a ReqStrong, whose answer appends them to the operation's buffer. -/
def State.engRead (s : State) (c : CoreId) (e : Eng) (o : EOp) (sp : Nat) (base : Word) (i n : Nat) : ERead :=
  let k := s.core c
  let m := min n (32 - (base.toNat + i) % 32)
  let ats := (List.range m).map (fun j => engAt s k sp base (i + j) .r)
  let len := runOf ats
  match ats with
  | [] => .got s []
  | .bad _ :: _ => .got s [0]
  | .beyond :: _ => .got (s.raisePwoob c (engNo e) o.tix.toNat 0) (List.replicate len 0)
  | .region off :: _ => .got s (regionRead s c o.id off len)
  | .mem l cls gr :: _ =>
    let len := match l with | .ia a => if (viewAt s a 1).isSome then 1 else len | _ => len
    if homeBusy s l len || soWaits s c o cls then .wait s
    else
      let away := match l with
        | .ia a => (match homeAt s a with | .peer | .peerUncached => some a | _ => none)
        | _ => none
      match away with
      | some a =>
        if o.sent then .wait s
        else match s.engRequest c e o (blockRead a len) with
          | some s => .wait (s.modCore c (fun k => k.modOp e o.id (fun o => { o with sent := true })))
          | none => .wait s
      | none =>
        match readAt s (whoOp s c e o) l len gr with
        | .done s d w p =>
          let s := s.readStamp c e o.id w
          .got (if p then ({ s with free := s.free + 1 }).raisePoison c (engNo e) o.tix.toNat 0 else s) d
        | .retry s => .wait s
        | .held s => .wait (s.holdOp c e o.id (match l with | .ia a => a | x => x.key))
        | .mig s => .wait s

/-- How many bytes an operation wrote, and the state; 0 when it must try again. -/
abbrev EWrote := Nat × State

/-- What a write means for the full/empty bit of a word it touches (R200): nothing, full now, or more bytes of the
operation to come before it is set full. -/
inductive WordMark where
  | plain | full | later
  deriving DecidableEq, Repr

/-- How an operation marks the words it writes: by word number of the place, after n bytes of the write. -/
abbrev Marks := Nat → Nat → WordMark
def noMarks : Marks := fun _ _ => .plain

/-- The words of a scratchpad that bytes touch become full where they are marked so (R200). -/
def State.fillWords (s : State) (l : Loc) (len : Nat) (mark : Nat → WordMark) : State :=
  match l with
  | .spad lc off =>
    (match spadPlace s lc off len with
     | some key => (List.range ((off % 8 + len + 7) / 8)).foldl (fun s i =>
         if mark (l.key / 8 + i) == .full then s.setFull ((key - off % 8) + 8 * i) true else s) s
     | none => s)
  | _ => s

/-- Bytes kept for words of a peer's scratchpad. -/
def putCells (t : List (Nat × Byte)) (a : Nat) (d : List Byte) : List (Nat × Byte) :=
  ((List.range d.length).zip d).foldl (fun t e => tabSet t (a + e.1) e.2) t
/-- The kept bytes of a word, each with whether it is there. -/
def wordCells (t : List (Nat × Byte)) (w : Nat) : List (Option Byte) := (List.range 8).map (fun i => tabGet t (8 * w + i))

/-- A write that meets a memory-side fault retires into the core's side log (R85). -/
def State.engLog (s : State) (c : CoreId) (e : Eng) (o : EOp) (l : Loc) (cls gr : Nat) (d : List Byte) : Option State :=
  let k := s.core c
  if k.sidelog.length ≥ 32 then none
  else
    let a : Acc := { core := c, seq := o.id, loc := l, len := d.length, op := .store d, strong := false, acq := false,
                     sc := false, eng := e, cls := cls, gr := gr, grp := o.id, pos := 0, arr := s.gtc, cyc := s.cyc, mods := 0, waiting := none,
                     asked := false, plane := [], planeW := 0, planeP := false, fwd := [] }
    some (s.setCore c { k with sidelog := k.sidelog ++ [a] })

/-- One more write whose stamps an operation awaits, of a class. -/
def State.owe (s : State) (c : CoreId) (e : Eng) (id cls : Nat) : State :=
  s.modCore c (fun k => k.modOp e id (fun o => { o with owed := o.owed + 1, so := o.so || cls == 0 }))
/-- The write did not take place. -/
def State.unowe (s : State) (c : CoreId) (e : Eng) (o : EOp) : State :=
  s.modCore c (fun k => k.modOp e o.id (fun p => { p with owed := p.owed - 1, so := o.so }))

/-- Set a word of a peer's scratchpad full with the bytes kept for it. The link has no message that sets a word full with
only some of its bytes: those go without the bit. DESIGN CHOICE (log 27). -/
def State.peerWord (s : State) (c : CoreId) (e : Eng) (o : EOp) (cls w : Nat) : Option State :=
  let b := wordCells o.cells w
  if b.all Option.isNone then some s else
  let f := if b.all Option.isSome then peerFill (8 * w) (b.map (·.getD 0))
    else linkWrite (8 * w) (b.map (·.getD 0)) (b.map Option.isSome)
  (((s.owe c e o.id cls).engRequest c e o f cls)).map (fun s => s.modCore c (fun k => k.modOp e o.id (fun o =>
    { o with cells := o.cells.filter (fun x => x.1 / 8 != w) })))

/-- Write a run of an operation's bytes at the peer: a word to be set full travels whole, once all its bytes are there. -/
def State.putAway (s : State) (c : CoreId) (e : Eng) (o : EOp) (a cls : Nat) (d : List Byte) (mark : Marks) : EWrote :=
  let plain (n : Nat) : Bool := (List.range n).all (fun i => mark ((a + i) / 8) n == .plain)
  let n := min d.length (8 - a % 8)
  if plain d.length || mark (a / 8) n == .plain then
    let d := if plain d.length then d else d.take n
    match (s.owe c e o.id cls).engRequest c e o (linkWrite a d) cls with
    | some s => (d.length, s)
    | none => (0, s)
  else
    let o := { o with cells := putCells o.cells a (d.take n) }
    let s' := s.modCore c (fun k => k.modOp e o.id (fun x => { x with cells := o.cells }))
    match mark (a / 8) n with
    | .full => (match s'.peerWord c e o cls (a / 8) with | some s => (n, s) | none => (0, s))
    | _ => (n, s')

/-- Write a run of an operation's bytes at one place; a word marked full is set so in the step in which its last bytes
land. DEDUCED (log 25). -/
def State.engPut (s : State) (c : CoreId) (e : Eng) (o : EOp) (l : Loc) (cls gr : Nat) (d : List Byte) (mark : Marks) :
    EWrote :=
  if homeBusy s l d.length || soWaits s c o cls then (0, s)
  else
    let away := match l with
      | .ia a => (match homeAt s a with | .peer | .peerUncached => some a | _ => none)
      | _ => none
    match away with
    | some a => let (n, s) := s.putAway c e o a cls d mark; (n, if n = 0 then s else s.dropOwn c l gr n)
    | none =>
      match writeAt (s.owe c e o.id cls) (whoOp s c e o) l cls gr s.gtc d with
      | .done s _ _ _ => (d.length, (s.dropOwn c l gr d.length).fillWords l d.length (fun w => mark w d.length))
      | .retry s => (0, s.unowe c e o)
      | .mig s => (0, s.unowe c e o)
      | .held s =>
        let s := s.noteFault (match l with | .ia a => a | x => x.key) (ctxOf s c) 1
        match s.engLog c e o l cls gr d with
        | some s => (d.length, s)
        | none => (0, s.unowe c e o)

/-- Put bytes into the landing buffer for their granule (R25); the operation may add more until it turns to another
granule or its work is over. DEDUCED (log 28). -/
def Core.landBytes (k : Core) (id off : Nat) (d : List Byte) (w : Word) : Core :=
  let g := off / 256 * 256
  let p := off - g
  let blank : Land := { off := g, data := List.replicate 256 0, mask := List.replicate 256 false, w := 0, more := true,
                        vec := false, push := 0, op := id }
  let put (l : Land) : Land :=
    { l with data := patch l.data p d, w := wmax l.w w, more := true,
             mask := (List.range 256).map (fun i => l.mask.getD i false || (p ≤ i && i < p + d.length)) }
  let done := k.landing.map (fun l => if l.op == id && !l.vec && l.off != g then { l with more := false } else l)
  if k.landing.any (fun l => l.off == g && l.op == id && !l.vec) then
    { k with landing := done.map (fun l => if l.off == g && l.op == id && !l.vec then put l else l) }
  else { k with landing := done ++ [put blank] }

/-- The bytes an operation of C, X or G moves are charged to its sibling (R300). -/
def State.chargeBytes (s : State) (c : CoreId) (e : Eng) (n : Nat) : State :=
  if e == .m || n == 0 then s else s.charge (((s.core c).iter).bind (·.sib)) 0 0 n

def State.engStore (s : State) (c : CoreId) (e : Eng) (o : EOp) (sp : Nat) (base : Word) (i : Nat) (d : List Byte)
    (mark : Marks) : EWrote :=
  let k := s.core c
  let m := min d.length (32 - (base.toNat + i) % 32)
  let ats := (List.range m).map (fun j => engAt s k sp base (i + j) .w)
  let len := runOf ats
  match ats with
  | [] => (0, s)
  | .bad _ :: _ | .beyond :: _ => (1, s)
  | .region off :: _ =>
    let len := min len (256 - off % 256)
    (len, s.modCore c (fun k => k.landBytes o.id off (d.take len) o.stamps.device))
  | .mem l cls gr :: _ => s.engPut c e o l cls gr (d.take len) mark

/-- Write the first run of bytes at an address, inside 64 bytes. -/
def State.engWrite (s : State) (c : CoreId) (e : Eng) (o : EOp) (sp : Nat) (base : Word) (i : Nat) (d : List Byte)
    (mark : Marks) : EWrote :=
  let (n, s) := s.engStore c e o sp base i d mark
  (n, s.chargeBytes c e n)

/-! Completion (R182, R185, R88). -/

/-- The record of an operation's status (R383). DEDUCED (log 57). -/
def State.opRecord (s : State) (c : CoreId) (e : Eng) (o : EOp) (code : Nat) (data : Option Nat := none) : State :=
  s.report { coreRec s c code 2 none with
    src := engNo e, eng := engNo e, tix := o.tix.toNat, gstat := o.gstatus, data := data }

/-- The cause of the deferred trap of a status, none where no trap follows (R185, R257). -/
def trapCause (o : EOp) : Option Cause :=
  if o.gstatus = 2 then some .boundary
  else if o.status = 0 || o.gstatus = 3 || o.gstatus = 4 then none
  else if o.status = causeCode .katMismatch then some .katMismatch
  else if o.status = causeCode .shadowMismatch then some .shadowMismatch
  else some .engineFault

/-- Whether the head of an engine's queue can complete, its push apart. -/
def opOver (s : State) (c : CoreId) (o : EOp) : Bool :=
  let k := s.core c
  o.started && o.fin && o.owed == 0 && k.landing.all (fun l => l.vec || l.op != o.id)
    && k.sidelog.all (fun a => a.seq != o.id)

/-- ENGINE_OPERATION_COMPLETE: the push, the stamps, the counts of sealed buffers, the flags and the deferred trap. A
push without room waits (R15). -/
def State.opComplete (s : State) (c : CoreId) (e : Eng) : State :=
  let k := s.core c
  match k.headOp e with
  | none => s
  | some o =>
    let push := if o.noTok then 0 else hPush o.bits
    if !opOver s c o then s
    else if !k.pushReady push then
      (if o.tokStart.isSome then s else s.setHead c e { o with tokStart := some s.gtc })
    else
      let k := (k.setQueue e (k.queueOf e).tail).push push
      let k := k.raiseHorizons (if o.uoOnly then 2 else 1) o.stamps
      let k := if e == .x then { k with xfloor := wmax k.xfloor o.stamps.system } else k
      let k := match (if o.cut then none else trapCause o) with
        | some x => { k with deferred := k.deferred ++ [{ cause := x, tval := w64 (engNo e * 64 + o.tix.toNat), page := false }] }
        | none => k
      let s := s.setCore c k
      let s := s.countSeals (if e == .c && o.kind == 9 then [] else o.sealAt) false
      let s := if e == .c && o.kind == 9 then
          { s with seals := (s.seals.filter (fun d => !(o.status != 0 && o.sealAt.contains (d.slice, d.off)))).map (fun d =>
              if o.sealAt.contains (d.slice, d.off) then { d with staging := false } else d) }
        else s
      let s := if o.clamp && o.live then s.raiseAccsat c (engNo e) o.tix.toNat 0 else s
      if o.status = 0 then s
      else s.opRecord c e o o.status (if o.status = causeCode .katMismatch then some (o.cap.headD 0) else none)

/-- An operation of an ended task leaves its engine at an element boundary: it lets its seals go, and a bank command its
place at the admission point (R134). -/
def State.dropOp (s : State) (c : CoreId) (e : Eng) (o : EOp) : State :=
  let s := (s.modCore c (fun k => k.setQueue e ((k.queueOf e).filter (fun x => x.id != o.id)))).dropSeals [o]
  { s with banks := { s.banks with enrolled := s.banks.enrolled.filter (fun a => a.2.1 != c || a.2.2.1 != o.id) } }

/-! The conditions of a start (R87). -/

/-- Every store of the core to its own scratchpad before the operation's GO has been performed. -/
def ownStoresDone (s : State) (c : CoreId) (o : EOp) : Bool :=
  (unperformed s c).all (fun a => !(a.op.writes && a.seq < o.id &&
    (match a.loc with | .spad l _ => l == (s.core c).lid.toNat | _ => false)))

/-- What precedes the start checks: queues, the pop, the conditions. none when the operation waits or has ended. -/
def State.opReady (s : State) (c : CoreId) (e : Eng) : State × Option EOp :=
  let k := s.core c
  match k.headOp e with
  | none => (s, none)
  | some o =>
    let pop := if o.popped then 0 else hPop o.bits
    if o.started then (s, none)
    else if !k.queuesOk e pop (hPush o.bits) then
      (s.setHead c e { (o.fail .engineFault) with noTok := true, gstatus := if e == .g then 5 else 0 }, none)
    else if !k.popReady pop then
      ((if o.tokStart.isSome then s else s.setHead c e { o with tokStart := some s.gtc }), none)
    else if !ownStoresDone s c o || (e == .m && (!holdsLease s c || arrayOver s (s.cluster (clusterOf c)))) then (s, none)
    else
      let o := { o with started := true, tokStart := none }
      let s := s.setCore c ((k.pop pop).setHead e o)
      let s := if e == .m then
          let a := s.cluster (clusterOf c)
          s.setCluster (clusterOf c) { a with cmds := a.cmds + 1 }
        else s
      if o.live then (s, some o) else (s.setHead c e { o with fin := true }, none)

end Sys2Proof.Machine
end

