-- ==== Sys2Proof/Machine/Copy.lean ====
section
/-! DEFINITION. The copy engine and the link engine (R198 to R217): start checks, the elements of each kind, one step
of each, and DESC chains. -/

namespace Sys2Proof.Machine

open Sys2Proof

/-- What a C or X operation is (R102, R199, R206). -/
inductive CKind where
  | cpy | conv | cpynd | gather | scatter | fill | relayout | plane | mcast | phfetch | stage | desc | xred | xsig | bad
  deriving DecidableEq, Repr

def ckind (e : Eng) (o : EOp) : CKind :=
  match e, o.kind with
  | .x, 1 => .cpy
  | .x, 2 => .xred
  | .x, 3 => .gather
  | .x, 4 => .xsig
  | .x, _ => .bad
  | _, 1 => if o.fld .c 14 = 0 then .cpy else .conv
  | _, 2 => .cpynd
  | _, 3 => .gather
  | _, 4 => .scatter
  | _, 5 => .fill
  | _, 6 => if o.fld .c 21 = 2 then .plane else .relayout
  | _, 7 => .mcast
  | _, 8 => .phfetch
  | _, 9 => .stage
  | _, 10 => .desc
  | _, _ => .bad

/-- Fields the two maps share (R198, R213). -/
def EOp.ssp (o : EOp) (e : Eng) : Nat := o.fld e 7
def EOp.fm (o : EOp) (e : Eng) : Nat := o.fld e 11
def EOp.esz (o : EOp) (e : Eng) : Nat := o.fld e 13

/-- Source and destination bytes per element of a conversion, and its formats (R199). -/
def convOf : Nat → Option (Nat × Nat × Fmt × Fmt)
  | 1 => some (4, 2, fp32, bf16) | 2 => some (2, 4, bf16, fp32) | 3 => some (4, 2, fp32, fp16)
  | 4 => some (2, 4, fp16, fp32) | 5 => some (2, 2, fp16, bf16) | 6 => some (2, 2, bf16, fp16) | _ => none

/-- The element size of XRED's types (R213). -/
def xredSize : Nat → Nat
  | 0 => 4 | 1 => 8 | 2 => 4 | 3 => 2 | _ => 8

/-- The arrangement of (0, 1, 2, 3) at a place of the lexicographic list (R203), innermost dimension first. -/
def permOf (p : Nat) : List Nat :=
  let a := [0, 1, 2, 3]
  let i := p / 6
  let l := a.eraseIdx i
  let j := p % 6 / 2
  let m := l.eraseIdx j
  let q := p % 2
  [a.getD i 0, l.getD j 0, m.getD q 0, (m.eraseIdx q).getD 0 0]

/-- The index along each dimension of element i in a walk order. -/
def walkIdx (n : List Nat) (order : List Nat) (i : Nat) : List (Nat × Nat) :=
  let n0 := n.getD (order.getD 0 0) 1
  let n1 := n.getD (order.getD 1 0) 1
  let n2 := n.getD (order.getD 2 0) 1
  [(order.getD 0 0, i % n0), (order.getD 1 0, i / n0 % n1), (order.getD 2 0, i / (n0 * n1) % n2),
   (order.getD 3 0, i / (n0 * n1 * n2))]

/-- RELAYOUT's blocked position of element (r, c) (R206), in elements. -/
def blockPos (br bc tc : Nat) (tr : Bool) (r c : Nat) : Nat :=
  br * bc * (tc * (r / br) + c / bc) + (if tr then c % bc * br + r % br else r % br * bc + c % bc)
/-- The row and column at a blocked position. -/
def unblock (br bc tc : Nat) (tr : Bool) (p : Nat) : Nat × Nat :=
  let t := p / (br * bc)
  let q := p % (br * bc)
  let (a, b) := if tr then (q % br, q / br) else (q / bc, q % bc)
  (t / tc * br + a, t % tc * bc + b)

/-- One element: its source and destination addresses, and their sizes in bytes. -/
structure Elem where
  src : Word
  dst : Word
  ss : Nat
  ds : Nat
  deriving DecidableEq, Repr

/-- The destination space and address (R183, R208). -/
def EOp.dsp (o : EOp) (e : Eng) : Nat :=
  match ckind e o with | .phfetch => 1 | .mcast => 2 | _ => o.fld e 8
def EOp.dst (o : EOp) (e : Eng) : Word :=
  match ckind e o with
  | .phfetch =>
    let h := if o.fld .c 23 = 0 then phSel o.phstate else 1 - phSel o.phstate
    w64 (phBase o.phstate + h * phHalf o.phstate)
  | _ => o.reg 6

/-- The number of elements of a kind that moves elements, or of bytes of a kind that moves bytes. -/
def elemCount (e : Eng) (o : EOp) : Nat :=
  match ckind e o with
  | .conv => (match convOf (o.fld .c 14) with | some (ss, _) => o.len e / ss | none => 0)
  | .cpynd => (o.cap.take 4).foldl (· * ·) 1
  | .relayout => o.fld .c 16 * o.fld .c 17
  | .plane => o.fld .c 16
  | .xred => o.len e / xredSize (o.fld .x 15)
  | .xsig => 1
  | .desc => 0
  | _ => o.len e

/-- Element i. -/
def elemAt (e : Eng) (o : EOp) (i : Nat) : Elem :=
  let src := o.reg 5
  let dst := o.dst e
  let z := o.esz e
  match ckind e o with
  | .conv =>
    let (ss, ds) := match convOf (o.fld .c 14) with | some (a, b, _) => (a, b) | none => (1, 1)
    { src := src + w64 (i * ss), dst := dst + w64 (i * ds), ss := ss, ds := ds }
  | .cpynd =>
    let idx := walkIdx (o.cap.take 4) (permOf (o.fld .c 15)) i
    let sum (base : Nat) : Word := idx.foldl (fun a x => a + w64 (x.2 * o.cap.getD (base + x.1) 0)) 0
    { src := src + sum 4, dst := dst + sum 8, ss := z, ds := z }
  | .gather => { src := src + w64 (o.cap.getD i 0 * z), dst := dst + w64 (i * z), ss := z, ds := z }
  | .scatter => { src := src + w64 (i * z), dst := dst + w64 (o.cap.getD i 0 * z), ss := z, ds := z }
  | .relayout =>
    let w := 2 ^ o.fld .c 20
    let br := o.fld .c 18
    let bc := o.fld .c 19
    let cols := o.fld .c 17
    let tr := o.fld .c 22 == 1
    let j := if o.fld .c 21 = 0 then let (r, c) := unblock br bc (cols / bc) tr i; r * cols + c
      else blockPos br bc (cols / bc) tr (i / cols) (i % cols)
    { src := src + w64 (j * w), dst := dst + w64 (i * w), ss := w, ds := w }
  | .xred =>
    let w := xredSize (o.fld .x 15)
    { src := src + w64 (i * w), dst := dst + w64 (i * w), ss := w, ds := w }
  | .xsig => { src := src, dst := dst, ss := 0, ds := 8 }
  | _ => { src := src + w64 i, dst := dst + w64 i, ss := 1, ds := 1 }

/-- The bytes written for an element's source bytes. -/
def elemBytes (e : Eng) (o : EOp) (d : List Byte) : List Byte :=
  match ckind e o with
  | .conv => (match convOf (o.fld .c 14) with
      | some (_, ds, a, b) => leBytes ds (fConv a b o.rm (leNat d))
      | none => d)
  | _ => d

/-- Byte b of a FILL at a destination address (R205). -/
def fillByte (o : EOp) (dst : Word) (b : Nat) : Byte :=
  (leBytes 8 (o.reg 5).toNat).getD ((dst.toNat + b) % 8) 0

/-! Start checks (R184). -/

/-- The CC page a RELAYOUT in mode plane writes. -/
structure PlanePage where
  n : Nat
  leaf : Leaf
  /-- The view offset it starts at. -/
  view : Nat
  cls : Nat
  gr : Nat

/-- The page, or the cause that refuses it (R316). DEDUCED (log 28). -/
def planeDst (s : State) (k : Core) (o : EOp) : PlanePage ⊕ Cause :=
  match engAt s k 0 (o.reg 6) 0 .w with
  | .mem (.ia a) cls gr =>
    (match (if homeAt s a == .own then leafOf s a else none) with
     | some (n, l) => if lCc l && !lView l then .inl ⟨n, l, a % 2 ^ 48 - n * 65536, cls, gr⟩ else .inr .illOperand
     | none => .inr .illOperand)
  | .bad x => .inr x
  | _ => .inr .illOperand
/-- The bytes of a plane operation's rows. -/
def planeLen (o : EOp) (p : PlanePage) : Nat := o.fld .c 16 * dRow p.leaf.w1
/-- The view bytes n of them from the i-th on stand for. -/
def PlanePage.views (p : PlanePage) (i n : Nat) : List ViewByte := (List.range n).map (fun j => viewByte p.leaf.w1 (p.view + i + j))

def srcBytes (s : State) (k : Core) (e : Eng) (o : EOp) : List EAt :=
  match ckind e o, planeDst s k o with
  | .plane, .inl p => (List.range (planeLen o p)).map (fun i => engAt s k (o.ssp e) (o.reg 5) i .r)
  | .plane, .inr _ => []
  | _, _ => (List.range (elemCount e o)).flatMap (fun i =>
    let x := elemAt e o i
    (List.range x.ss).map (fun j => engAt s k (o.ssp e) x.src j .r))
def dstBytes (s : State) (k : Core) (e : Eng) (o : EOp) : List EAt :=
  match ckind e o, planeDst s k o with
  | .plane, .inl p => ((p.views 0 (planeLen o p)).flatMap ViewByte.offs).map (fun q =>
      engAt s k 0 (o.reg 6 - w64 p.view + w64 q) 0 .w)
  | .plane, .inr _ => []
  | _, _ => (List.range (elemCount e o)).flatMap (fun i =>
    let x := elemAt e o i
    (List.range x.ds).map (fun j => engAt s k (o.dsp e) x.dst j .w))

/-- Spaces a source and a destination may name (R183). -/
def srcSpaceOk (n : Nat) : Bool := n ≤ 5
def dstSpaceOk (n : Nat) : Bool := n ≤ 3 || n == 5

/-- Whether a resolved byte lies in a scratchpad (R200). -/
def isScratch : EAt → Bool
  | .mem l _ _ => isSpad l
  | _ => false

/-- The bytes a kind's length stands for at the destination. -/
def dstTotal (e : Eng) (o : EOp) : Nat := elemCount e o * (elemAt e o 0).ds

/-- The checks of FM (R200). DESIGN CHOICE (log 26). -/
def fmCause (e : Eng) (o : EOp) (dst : List EAt) : Option Cause :=
  if o.fm e = 0 then none
  else if o.fm e = 3 then some .illOperand
  else firstCause (causeIf (!dst.all isScratch) .illOperand)
    (causeIf ((o.dst e).toNat % 8 != 0 || dstTotal e o % 8 != 0) .misaligned)

/-- The limits an entry sets on its fields (R199 to R209, R215 to R217), before any address is looked at. -/
def limitCause (k : Core) (e : Eng) (o : EOp) : Option Cause :=
  let long := o.len e > 2 ^ 32 - 1
  let spaces := !srcSpaceOk (o.ssp e) || !dstSpaceOk (o.dsp e)
  match ckind e o with
  | .cpy => causeIf (long || spaces) .illOperand
  | .conv =>
    (match convOf (o.fld .c 14) with
     | none => some .illOperand
     | some (ss, ds, _) =>
       firstCause (causeIf (long || spaces) .illOperand)
         (causeIf ((o.reg 5).toNat % ss != 0 || o.len e % ss != 0 || (o.dst e).toNat % ds != 0) .misaligned))
  | .cpynd => causeIf (spaces || o.esz e = 0 || 24 ≤ o.fld .c 15 || (o.reg 12).toNat % 16 != 0) .illOperand
  | .gather | .scatter =>
    firstCause (causeIf (long || spaces || o.esz e = 0) .illOperand) (causeIf ((o.reg 12).toNat % 4 != 0) .misaligned)
  | .fill => causeIf (long || !dstSpaceOk (o.dsp e)) .illOperand
  | .relayout =>
    let br := o.fld .c 18
    let bc := o.fld .c 19
    causeIf (spaces || o.fld .c 16 = 0 || o.fld .c 17 = 0 || br = 0 || bc = 0 || o.fld .c 16 % br != 0
      || o.fld .c 17 % bc != 0 || o.fld .c 21 = 3) .illOperand
  | .plane => causeIf (!srcSpaceOk (o.ssp e) || o.fld .c 8 != 0 || o.fld .c 16 = 0 || o.fld .c 17 = 0 || o.fld .c 18 != 1
      || o.fld .c 19 != 1) .illOperand
  | .mcast => causeIf (long || !srcSpaceOk (o.ssp e) || o.fld .c 8 != 2 || 2 ^ 20 ≤ (o.reg 6).toNat) .illOperand
  | .phfetch => causeIf (long || !srcSpaceOk (o.ssp e) || phHalf o.phstate = 0 || phHalf o.phstate < o.len e) .illOperand
  | .stage =>
    firstCause (causeIf (long || !srcSpaceOk (o.ssp e) || o.fld .c 8 != 3) .illOperand)
      (causeIf ((o.reg 6).toNat % 512 != 0 || o.len e % 512 != 0) .misaligned)
  | .xred =>
    let z := xredSize (o.fld .x 15)
    firstCause (causeIf (long || spaces || 5 ≤ o.fld .x 15 || 3 ≤ o.fld .x 16 || (o.fld .x 15 = 4 && o.fld .x 16 != 0)) .illOperand)
      (causeIf ((o.reg 5).toNat % z != 0 || (o.reg 6).toNat % z != 0 || o.len e % z != 0) .misaligned)
  | .xsig =>
    firstCause (causeIf (!dstSpaceOk (o.dsp e)) .illOperand) (causeIf ((o.reg 6).toNat % 8 != 0) .misaligned)
  | .desc =>
    firstCause (causeIf (256 < o.len e) .illOperand)
      (firstCause (causeIf ((o.reg 12).toNat % 64 != 0) .misaligned)
        (causeIf ((o.reg 12).toNat + 64 * o.len e > spadSize k) .rangeFault))
  | .bad => some .illOperand

/-- Kinds that refuse an overlap of their extents (R211). -/
def refusesOverlap (q : CKind) : Bool :=
  match q with | .cpynd | .gather | .scatter | .relayout | .plane | .conv => true | _ => false

/-- The descriptor or the indices an operation reads at its start from the local scratchpad, none where they lie outside
it (R203, R204). -/
def capOf (s : State) (c : CoreId) (e : Eng) (o : EOp) : Option (List Nat) :=
  let k := s.core c
  let off := (o.reg 12).toNat
  match ckind e o with
  | .cpynd =>
    if off + 80 > spadSize k then none
    else
      let b := s.readMem (spadKey s c off) 80
      some (lanesOf 4 4 b ++ lanesOf 8 8 (b.drop 16))
  | .gather | .scatter =>
    if off + 4 * o.len e > spadSize k then none
    else some (lanesOf 4 (o.len e) (s.readMem (spadKey s c off) (4 * o.len e)))
  | _ => some []

/-- Whether a kind does nothing because its length is 0 (R183). -/
def isEmptyOp (e : Eng) (o : EOp) : Bool :=
  match ckind e o with
  | .cpynd | .relayout | .plane | .xsig | .bad => false
  | _ => o.len e == 0

/-- The destinations of MCAST, each core's range where it exists (R207, R211). -/
def mcastDsts (s : State) (o : EOp) : List (List EAt) :=
  ((maskCores (o.reg 12)).filter (fun l => (mcFails s l (o.reg 6).toNat (o.len .c)).isNone)).map (fun l =>
    (List.range (o.len .c)).map (fun i => EAt.mem (.spad l ((o.reg 6).toNat + i)) 1 0))

/-- The checks of a plane's shape against its page (R316). -/
def planeShape (s : State) (k : Core) (o : EOp) : Option Cause :=
  match planeDst s k o with
  | .inr x => some x
  | .inl p => causeIf (o.fld .c 17 != dNr p.leaf.w1 || p.view % dRow p.leaf.w1 != 0
      || p.view + planeLen o p > 64 * dNblk p.leaf.w1 * dRow p.leaf.w1) .illOperand

/-- The address checks of an operation whose limits hold and whose descriptor is read (R184, R211). -/
def addressCause (s : State) (c : CoreId) (e : Eng) (o : EOp) : Option Cause :=
  let k := s.core c
  let q := ckind e o
  let src := if q = .fill || q = .xsig then [] else srcBytes s k e o
  let dst := if q = .mcast then [] else dstBytes s k e o
  let both := (q = .xred || (q = .xsig && o.fld .x 17 = 1))
  let cause := firstCause (worstAt src) (firstCause (writeCause s dst)
    (firstCause (causeIf (sealsOf s src).isNone .illOperand) (firstCause (if q = .xsig then none else fmCause e o dst)
    (firstCause (if both then worstAt ((List.range (dstTotal e o)).map (fun i => engAt s k (o.dsp e) (o.dst e) i .rw)) else none)
    (match q with
     | .plane => planeShape s k o
     | .xsig => causeIf (o.fld .x 17 = 1 && !dst.all isScratch) .illOperand
     | _ => none)))))
  let meet := match q with
    | .mcast => (mcastDsts s o).any (fun d => extentsMeet (extentOf src) (extentOf d))
    | q => refusesOverlap q && extentsMeet (extentOf src) (extentOf dst)
  if q = .desc || q = .bad then none else match cause with | some x => some x | none => causeIf meet .copyOverlap

/-- STAGE's descriptor (R209): a free one, and no overlap. DEDUCED (log 25). -/
def stageCause (s : State) (o : EOp) : Option Cause :=
  match stgAddr (o.reg 6) with
  | none => some .rangeFault
  | some (sl, off) =>
    if sealOverlaps s sl off (o.len .c) then some .sealedWrite
    else if !sealFree s sl then some .illOperand else none

/-- Every write falls in UO, over all of its destination bytes (R88). DEDUCED (log 22). -/
def uoExact (l : List EAt) : Bool := !l.isEmpty && l.all (fun a => match a with | .mem _ cls _ => cls == 2 | _ => false)

/-- The start of a C or X operation: its checks, what it reads at its start, the seals it counts or takes. DEDUCED (log 22). -/
def State.copyStart (s : State) (c : CoreId) (e : Eng) (o : EOp) : State :=
  let k := s.core c
  if isEmptyOp e o then s.setHead c e { o with fin := true }
  else match limitCause k e o with
    | some x => s.setHead c e (o.fail x)
    | none =>
      match capOf s c e o with
      | none => s.setHead c e (o.fail .rangeFault)
      | some cap =>
        let s := if cap.isEmpty then s else s.ownStamp c e o.id (o.reg 12).toNat (if ckind e o = .cpynd then 80 else 4 * o.len e)
        let o := { o with cap := cap, stamps := ((((s.core c).queueOf e).find? (fun x => x.id == o.id)).map (·.stamps)).getD o.stamps }
        if ckind e o = .cpynd && (elemCount e o = 0 || elemCount e o > 2 ^ 32) then s.setHead c e (o.fail .illOperand)
        else match addressCause s c e o with
          | some x => s.setHead c e (o.fail x)
          | none =>
            let exact := uoExact (dstBytes s k e o)
            let o := { o with uoOnly := exact && o.chain.isNone, uoAll := o.uoAll && exact }
            match ckind e o with
            | .desc => s.setHead c e { o with chain := some ((o.reg 12).toNat, o.len e, 0), uoOnly := false, uoAll := true }
            | .stage =>
              (match stageCause s o, stgAddr (o.reg 6) with
               | none, some (sl, off) =>
                 let d : SealDesc := { slice := sl, off := off, len := o.len e, ctx := coreCtx k, count := 0,
                                       closing := false, staging := true }
                 { s with seals := s.seals ++ [d] }.setHead c e { o with sealAt := [(sl, off)] }
               | some x, _ => s.setHead c e (o.fail x)
               | none, none => s.setHead c e (o.fail .rangeFault))
            | .xsig => s.setHead c e o
            | .mcast => s.setHead c e { o with cap := [0] }
            | _ =>
              let seals := (sealsOf s (srcBytes s k e o)).getD []
              (s.countSeals seals true).setHead c e
                { o with sealAt := seals }

/-! Steps. -/

/-- Change the operation in progress. -/
def State.modOpAt (s : State) (c : CoreId) (e : Eng) (id : Nat) (f : EOp → EOp) : State :=
  s.modCore c (fun k => k.modOp e id f)

/-- Take bytes that were read into the operation's buffer. DESIGN CHOICE (log 26). -/
def takeRead (c : CoreId) (e : Eng) (id : Nat) : ERead → State
  | .got s d => (s.chargeBytes c e d.length).modOpAt c e id (fun o => { o with buf := o.buf ++ d })
  | .wait s => s

/-- The address of the highest destination word, which the sentinel sets (R200). -/
def sentinelAddr (e : Eng) (o : EOp) : Nat :=
  (((List.range (elemCount e o)).map (fun i => (elemAt e o i).dst.toNat + (elemAt e o i).ds)).foldl max 0 - 1) / 8 * 8

/-- Whether an operation still has a byte of word w to write, from byte a of element i on. -/
def toCome (s : State) (k : Core) (e : Eng) (o : EOp) (i a w : Nat) : Bool :=
  (List.range (elemCount e o - i)).any (fun j =>
    let x := elemAt e o (i + j)
    (List.range x.ds).any (fun b => (j != 0 || a ≤ b) && (engAt s k (o.dsp e) x.dst b .w).key.map (· / 8) == some w))

/-- How an operation marks the words of a write that starts at byte a of element i (R200): fill sets a word full with the
last of its bytes, and the sentinel's word is set at the end. -/
def marksAt (s : State) (k : Core) (e : Eng) (o : EOp) (i a : Nat) : Marks := fun w n =>
  match o.fm e with
  | 1 =>
    let one := (elemAt e o i).ds == 1
    if toCome s k e o (if one then i + n else i) (if one then 0 else a + n) w then .later else .full
  | 2 => if (engAt s k (o.dsp e) (w64 (sentinelAddr e o)) 0 .w).key.map (· / 8) == some w then .later else .plain
  | _ => .plain

/-- Every other byte is visible at device scope (R200). -/
def devVisible (s : State) (o : EOp) : Bool := o.owed == 0 && o.stamps.device.toNat ≤ s.gtc.toNat

/-- Set the sentinel word of a destination full, here or at the peer; none while that must wait. -/
def State.sentinel (s : State) (c : CoreId) (e : Eng) (o : EOp) : Option State :=
  match engAt s (s.core c) (o.dsp e) (w64 (sentinelAddr e o)) 0 .w with
  | .mem (.spad l off) _ _ => if isMoving s (.spad l off) then none else some (s.fillWords (.spad l off) 8 (fun _ => .full))
  | .mem (.ia ia) cls _ => s.peerWord c e o cls (ia / 8)
  | _ => some s

/-- The end of the data of an operation or of a DESC entry: the sentinel, then the end of the work. -/
def State.copyEnd (s : State) (c : CoreId) (e : Eng) (o : EOp) : State :=
  let fin (s : State) : State := s.modOpAt c e o.id (fun o => { o with fin := true })
  if o.fm e = 2 then
    if !devVisible s o || !(s.core c).landing.all (fun l => l.vec || l.op != o.id) then s
    else if ckind e o = .mcast then
      let off := (o.reg 6).toNat + o.len e - 8
      let ls := maskCores (w64 (o.cap.getD 0 0))
      if ls.any (fun l => isMoving s (.spad l off)) then s
      else fin (ls.foldl (fun s l => s.fillWords (.spad l off) 8 (fun _ => .full)) s)
    else match s.sentinel c e o with
      | some s => fin s
      | none => s
  else fin s

/-- One step of a kind that moves bytes: read what is left of the source, then write towards the next 64-byte boundary
of the destination (R199, R212). DESIGN CHOICE (log 26). -/
def State.bulkStep (s : State) (c : CoreId) (e : Eng) (o : EOp) : State :=
  let n := o.len e
  if o.buf.length < n then takeRead c e o.id (s.engRead c e o (o.ssp e) (o.reg 5) o.buf.length (n - o.buf.length))
  else if o.prog < n then
    let d := (o.buf.drop o.prog).take (64 - ((o.dst e).toNat + o.prog) % 64)
    let (m, s) := s.engWrite c e o (o.dsp e) (o.dst e) o.prog d (marksAt s (s.core c) e o o.prog 0)
    s.modOpAt c e o.id (fun x => { x with prog := x.prog + m })
  else s.copyEnd c e o

/-- FILL has no source. -/
def State.fillStep (s : State) (c : CoreId) (e : Eng) (o : EOp) : State :=
  let n := o.len e
  if o.prog < n then
    let left := min (n - o.prog) (64 - ((o.dst e).toNat + o.prog) % 64)
    let d := (List.range left).map (fun i => fillByte o (o.dst e) (o.prog + i))
    let (m, s) := s.engWrite c e o (o.dsp e) (o.dst e) o.prog d (marksAt s (s.core c) e o o.prog 0)
    s.modOpAt c e o.id (fun x => { x with prog := x.prog + m })
  else s.copyEnd c e o

/-- One step of a kind that moves elements: read the element, then write it. DESIGN CHOICE (log 26). -/
def State.elemStep (s : State) (c : CoreId) (e : Eng) (o : EOp) : State :=
  if o.prog < elemCount e o then
    let x := elemAt e o o.prog
    if o.buf.length < x.ss then takeRead c e o.id (s.engRead c e o (o.ssp e) x.src o.buf.length (x.ss - o.buf.length))
    else
      let d := (elemBytes e o o.buf).drop o.aux
      let (m, s) := s.engWrite c e o (o.dsp e) x.dst o.aux d (marksAt s (s.core c) e o o.prog o.aux)
      let done := o.aux + m ≥ x.ds
      s.modOpAt c e o.id (fun y => { y with
        prog := if done then y.prog + 1 else y.prog, aux := if done then 0 else y.aux + m,
        buf := if done then [] else y.buf })
  else s.copyEnd c e o

/-- How MCAST marks the words of a write at core l's scratchpad: fill sets each word full with its last byte. -/
def mcastMarks (o : EOp) (l : Nat) : Marks := fun w n =>
  if o.fm .c != 1 then .plain
  else if o.prog + n < o.len .c && (Loc.spad l ((o.reg 6).toNat + o.prog + n)).key / 8 == w then .later else .full

/-- MCAST: the source, then each destination in ascending order; prog counts bytes at the current one, aux holds the
completed mask, cap the delivered mask (R207, R212). -/
def State.mcastStep (s : State) (c : CoreId) (o : EOp) : State :=
  let n := o.len .c
  let off := (o.reg 6).toNat
  let put (f : EOp → EOp) (x : State) : State := x.modOpAt c .c o.id f
  if o.buf.length < n then takeRead c .c o.id (s.engRead c .c o (o.ssp .c) (o.reg 5) o.buf.length (n - o.buf.length))
  else match (maskCores (o.reg 12)).find? (fun l => !o.aux.testBit l) with
    | none => s.copyEnd c .c o
    | some l =>
      if o.prog = 0 && (mcFails s l off n).isSome then
        let s := s.opRecord c .c { o with gstatus := 0 } ((mcFails s l off n).getD 0) (some (2 ^ l))
        let s := s.modCore c (fun k => { k with mfail := k.mfail ||| w64 (2 ^ l) })
        put (fun x => { x with aux := x.aux ||| 2 ^ l }) s
      else if o.prog < n then
        let d := (o.buf.drop o.prog).take (64 - (off + o.prog) % 64)
        let (m, s) := s.engWrite c .c o 2 (w64 (l * 2 ^ 20 + off)) o.prog d (mcastMarks o l)
        put (fun x => { x with prog := x.prog + m }) s
      else put (fun x => { x with prog := 0, aux := x.aux ||| 2 ^ l, cap := [x.cap.getD 0 0 ||| 2 ^ l] }) s

/-- RELAYOUT in mode plane: read one row, check its records, write its bytes through the view once no remote copy of
their plane words is left (R316). DEDUCED (log 28). -/
def State.planeStep (s : State) (c : CoreId) (o : EOp) : State :=
  match planeDst s (s.core c) o with
  | .inr x => s.setHead c .c (o.fail x)
  | .inl p =>
    let d := p.leaf.w1
    let row := dRow d
    if o.prog ≥ o.fld .c 16 * dNr d then s.copyEnd c .c o
    else
      let at_ := o.prog / dNr d * row
      if o.buf.length < row then
        takeRead c .c o.id (s.engRead c .c o (o.ssp .c) (o.reg 5) (at_ + o.buf.length) (row - o.buf.length))
      else
        let recs := (List.range (dNr d)).map (fun i => (o.buf.drop (i * dRs d)).take (dRs d))
        if recs.any (recBad (match dFmt d with | 0 => 0 | 1 => 2 | _ => 3)) then s.modOpAt c .c o.id (fun x => x.fail .illOperand)
        else
          let vs := p.views at_ row
          let ias := planeIas s p.n vs
          if soWaits s c o p.cls || ias.any (fun a => homeBusy s (.ia a) 1) then s
          else match dirStores s (whoOp s c .c o) (dirsOf s ias) with
          | .go s =>
            let s := (s.owe c .c o.id p.cls).stampOwn (whoOp s c .c o) (secsOf ias) p.cls s.gtc []
            let s := ias.foldl (fun s a => s.dropOwn c (.ia a) p.gr 1) (putViews s p.leaf vs o.buf)
            (s.chargeBytes c .c row).modOpAt c .c o.id (fun x => { x with prog := x.prog + dNr d, buf := [] })
          | .wait s => s
          | .inval s _ => s

/-! XRED and XSIG (R215, R217). -/

/-- The code of R125 for a combination, none where R125 has none. -/
def xredCode (et rop : Nat) : Option Nat :=
  match et, rop with
  | 0, 0 | 1, 0 => some 1
  | 0, 1 | 1, 1 => some 5
  | 0, 2 | 1, 2 => some 6
  | 2, 0 => some 10
  | _, _ => none

/-- The combination on bit patterns, and whether it clamped. -/
def xredOp (et rop old x : Nat) : Nat × Bool :=
  let intOp (n : Nat) : Nat :=
    match rop with
    | 0 => (old + x) % 2 ^ n
    | 1 => if toS n x < toS n old then x else old
    | _ => if toS n old < toS n x then x else old
  let fOp (t : Fmt) : Nat :=
    match rop with
    | 0 => fEnc t .rne (fAdd .rne (fDec t old) (fDec t x))
    | 1 => fEnc t .rne (fMinMax false false (fDec t old) (fDec t x))
    | _ => fEnc t .rne (fMinMax true false (fDec t old) (fDec t x))
  match et with
  | 0 => (intOp 32, false)
  | 1 => (intOp 64, false)
  | 2 => (fOp fp32, false)
  | 3 => (fOp bf16, false)
  | _ => let (v, b) := clampAdd (toS 64 old) (toS 64 x); (ofS 64 v, b)

/-- A ReqStrong with an operation field, a value and a replacement (R365). DEDUCED (log 27). -/
def strongOp (ia field : Nat) (v y : Word) : Flit :=
  { flit0 with msg := 0x05, ia := ia, val := v, repl := y, opf := BitVec.ofNat 16 field }

/-- An element of XRED is combined: on to the next. -/
def State.xredNext (s : State) (c : CoreId) (o : EOp) (clamp : Bool) : State :=
  (s.chargeBytes c .x (2 * xredSize (o.fld .x 15))).modOpAt c .x o.id (fun o => { o with
    prog := o.prog + 1, buf := [], cap := [], clamp := o.clamp || clamp })

/-- One read-modify-write at its home at the peer: RED where R125 has the operation, else compare and swap on the word
that holds the element until it takes (R215, R365). cap holds the word expected, then the word found. DEDUCED (log 27). -/
def State.xredPeer (s : State) (c : CoreId) (o : EOp) (ia x z cls : Nat) : State :=
  let et := o.fld .x 15
  let rop := o.fld .x 16
  let up := s.owe c .x o.id cls
  let sent (r : Option State) : State :=
    match r with
    | some s => s.modOpAt c .x o.id (fun o => { o with sent := true })
    | none => s
  match xredCode et rop with
  | some code =>
    (match up.engRequest c .x o (strongOp ia ((if z = 4 then 2 else 3) * 64 + 32 + code) (w64 x) 0) cls with
     | some s => s.xredNext c o false
     | none => s)
  | none =>
    let zw := if z = 8 then 8 else 4
    let wa := ia / zw * zw
    let sz := if zw = 4 then 2 else 3
    match o.cap with
    | [] => if o.sent then s else sent (s.engRequest c .x o (strongOp wa (sz * 64 + 0x0F) 0 0) cls)
    | [old] =>
      if o.sent then s
      else
        let sh := 8 * (ia - wa)
        let new := setBits old (sh + 8 * z - 1) sh (xredOp et rop (bits old (sh + 8 * z - 1) sh) x).1
        sent (up.engRequest c .x o (strongOp wa (sz * 64 + 9) (w64 old) (w64 new)) cls)
    | old :: got :: _ =>
      if got = old then s.xredNext c o (xredOp et rop old x).2 else s.modOpAt c .x o.id (fun o => { o with cap := [got] })

/-- The IA of a location whose home is the peer. -/
def atPeer (s : State) (l : Loc) : Option Nat :=
  match l with
  | .ia a => (match homeAt s a with | .peer | .peerUncached => some a | _ => none)
  | _ => none

/-- One step of XRED: read the source element, then combine it at the destination's home. -/
def State.xredStep (s : State) (c : CoreId) (o : EOp) : State :=
  if o.prog < elemCount .x o then
    let x := elemAt .x o o.prog
    if o.buf.length < x.ss then takeRead c .x o.id (s.engRead c .x o (o.ssp .x) x.src o.buf.length (x.ss - o.buf.length))
    else
      let v := leNat o.buf
      let op (old : Nat) : Nat × Bool := xredOp (o.fld .x 15) (o.fld .x 16) old v
      match engAt s (s.core c) (o.dsp .x) x.dst 0 .rw with
      | .region off =>
        let (n, cl) := op (leNat (regionRead s c o.id off x.ds))
        (s.modCore c (fun k => k.landBytes o.id off (leBytes x.ds n) 0)).xredNext c o cl
      | .mem l cls gr =>
        if soWaits s c o cls then s
        else match atPeer s l with
        | some a => (s.xredPeer c o a v x.ds cls).dropOwn c l gr x.ds
        | none =>
          if homeBusy s l x.ds then s
          else
            match updateAt (s.owe c .x o.id cls) { whoOp s c .x o with strong := true } l x.ds cls gr s.gtc (fun old => (op old).1) with
            | .done s' d w _ =>
              let mark := marksAt s (s.core c) .x o o.prog 0
              (((s'.readStamp c .x o.id w).dropOwn c l gr x.ds).fillWords l x.ds (fun n => mark n x.ds)).xredNext c o (op (leNat d)).2
            | .retry s => s.unowe c .x o
            | .held s => (s.unowe c .x o).holdOp c .x o.id (match l with | .ia a => a | y => y.key)
            | .mig s => s.unowe c .x o
      | _ => s.xredNext c o false
  else s.copyEnd c .x o

/-- XSIG: once earlier X operations are visible at system scope, one strong write, or FLAGADD's update. -/
def State.xsigStep (s : State) (c : CoreId) (o : EOp) : State :=
  let k := s.core c
  let v := o.reg 5
  let add := o.fld .x 17 == 1
  let fin (s : State) : State :=
    (s.chargeBytes c .x 8).modOpAt c .x o.id (fun o => { o with fin := true, prog := 1 })
  let who := { whoOp s c .x o with strong := true }
  if s.gtc.toNat < k.xfloor.toNat then s
  else match engAt s k (o.dsp .x) (o.reg 6) 0 .w with
    | .region off => fin (s.modCore c (fun k => k.landBytes o.id off (leBytes 8 v.toNat) 0))
    | .mem l cls gr =>
      let up := s.owe c .x o.id cls
      if soWaits s c o cls || (atPeer s l).isNone && homeBusy s l 8 then s
      else match atPeer s l, l with
      | some a, _ =>
        let code := if a / 2 ^ 48 != 4 then 0x10 else if add then 0x17 else 0x14
        (match up.engRequest c .x o (strongOp a (3 * 64 + 32 + code) (if add then w64 (v.toNat % 2 ^ 32) else v) 0) cls with
         | some s => fin (s.dropOwn c l gr 8)
         | none => s)
      | none, .spad m off =>
        let old := match spadPlace s m off 8 with | some key => leNat (s.readMem key 8) | none => 0
        let (n, full) := if add then flagNew old (v.toNat % 2 ^ 32) else (v.toNat, true)
        (match writeAt up who l cls gr s.gtc (leBytes 8 n) with
         | .done s _ _ _ => fin (s.fillWords l 8 (fun _ => if full then .full else .plain))
         | _ => s)
      | none, _ =>
        match writeAt up who l cls gr s.gtc (leBytes 8 v.toNat) with
        | .done s _ _ _ => fin (s.dropOwn c l gr 8)
        | .retry s => s.unowe c .x o
        | .mig s => s.unowe c .x o
        | .held s =>
          (match (s.noteFault (match l with | .ia a => a | y => y.key) (ctxOf s c) 1).engLog c .x o l cls gr (leBytes 8 v.toNat) with
           | some s => fin s
           | none => s.unowe c .x o)
    | _ => fin s

/-- One step of the operation in progress, by its kind. -/
def State.kindStep (s : State) (c : CoreId) (e : Eng) (o : EOp) : State :=
  match ckind e o with
  | .cpy | .phfetch | .stage => s.bulkStep c e o
  | .fill => s.fillStep c e o
  | .mcast => s.mcastStep c o
  | .plane => s.planeStep c o
  | .xred => s.xredStep c o
  | .xsig => s.xsigStep c o
  | .desc | .bad => s.modOpAt c e o.id (fun o => o.fail .illOperand)
  | _ => s.elemStep c e o

/-! DESC (R210). -/

/-- The operation an entry stands for: its template with DESC's header, its operands; none when it is refused. A reserved bit
of the entry's template refuses it. DESIGN CHOICE (log 67). -/
def descEntry (o : EOp) (b : List Byte) : Option EOp :=
  let t := BitVec.ofNat 256 (leNat (b.take 32))
  let ops := lanesOf 8 4 (b.drop 32)
  let kind := opk t
  let reg (f : Nat) : Option Word :=
    let n := fieldOf t 2 f
    if n = 0 then some 0 else if n ≤ 4 then some (w64 (ops.getD (n - 1) 0)) else none
  match reg 5, reg 6, reg 10, reg 12 with
  | some a, some d, some l, some x =>
    if !opkOk 2 kind || kind = 8 || kind = 10 || bits t.toNat 18 7 != 0 || bits t.toNat 31 19 != 0 then none
    else some { o with bits := BitVec.ofNat 256 (setBits t.toNat 18 7 (bits o.bits.toNat 18 7)),
                       regs := [(5, a), (6, d), (10, l), (12, x)], prog := 0, aux := 0, buf := [], cap := [],
                       cells := [], sealAt := [], sent := false, fin := false }
  | _, _, _, _ => none

/-- The kind code of DESC in a template. -/
def asDesc (b : BitVec 256) : BitVec 256 := BitVec.ofNat 256 (setBits b.toNat 6 0 0x0A)

/-- The end of an entry: what its completion would do, short of a token (R210). -/
def State.endEntry (s : State) (c : CoreId) (o : EOp) (off n i : Nat) : State :=
  let s := if o.kind = 9 then { s with seals := s.seals.map (fun (d : SealDesc) =>
      if o.sealAt.contains (d.slice, d.off) then { d with staging := false } else d) } else s.countSeals o.sealAt false
  s.modOpAt c .c o.id (fun x => { x with
    bits := asDesc x.bits, fin := i + 1 ≥ n, chain := some (off, n, i + 1), sealAt := [],
    uoOnly := i + 1 ≥ n && x.uoAll, prog := 0, aux := 0, buf := [], cap := [], cells := [] })

/-- One step of DESC: start the next entry, run it, or end it once its writes have returned. -/
def State.descStep (s : State) (c : CoreId) (o : EOp) : State :=
  match o.chain with
  | none => s.modOpAt c .c o.id (fun o => { o with fin := true })
  | some (off, n, i) =>
    if o.fin && o.kind = 10 then s
    else if o.kind = 10 then
      match descEntry o (s.readMem (spadKey s c (off + 64 * i)) 64) with
      | none => s.modOpAt c .c o.id (fun o => { (o.fail .illOperand) with uoOnly := o.uoAll })
      | some x => s.copyStart c .c x
    else if o.fin then
      if o.status != 0 then s.modOpAt c .c o.id (fun o => { o with bits := asDesc o.bits, uoOnly := o.uoAll })
      else if opOver s c o then s.endEntry c o off n i
      else s
    else s.kindStep c .c o

/-- Up to n steps of the operation at the head of C or X, while it is of a kind. -/
def copyRun (c : CoreId) (e : Eng) (ok : EOp → Bool) : Nat → State → State
  | 0, s => s
  | n + 1, s =>
    match (s.core c).headOp e with
    | none => s
    | some o =>
      if !o.started || !ok o then s
      else if o.chain.isSome then copyRun c e ok n (s.descStep c o)
      else if o.fin then s
      else copyRun c e ok n (s.kindStep c e o)

/-- The steps of an operation of kind code q that is not part of a DESC chain. -/
def copyOf (q : Nat) (o : EOp) : Bool := o.chain.isNone && o.kind == q

def execCpy (c : CoreId) (n : Nat) (s : State) : Out := .next (copyRun c .c (copyOf 1) n s)
def execCpynd (c : CoreId) (n : Nat) (s : State) : Out := .next (copyRun c .c (copyOf 2) n s)
def execGather (c : CoreId) (n : Nat) (s : State) : Out := .next (copyRun c .c (copyOf 3) n s)
def execScatter (c : CoreId) (n : Nat) (s : State) : Out := .next (copyRun c .c (copyOf 4) n s)
def execFill (c : CoreId) (n : Nat) (s : State) : Out := .next (copyRun c .c (copyOf 5) n s)
def execRelayout (c : CoreId) (n : Nat) (s : State) : Out := .next (copyRun c .c (copyOf 6) n s)
def execMcast (c : CoreId) (n : Nat) (s : State) : Out := .next (copyRun c .c (copyOf 7) n s)
def execPhfetch (c : CoreId) (n : Nat) (s : State) : Out := .next (copyRun c .c (copyOf 8) n s)
def execStage (c : CoreId) (n : Nat) (s : State) : Out := .next (copyRun c .c (copyOf 9) n s)
/-- DESC runs its chain: every entry, whatever its kind. -/
def execDesc (c : CoreId) (n : Nat) (s : State) : Out := .next (copyRun c .c (fun o => o.chain.isSome) n s)
def execXcpy (c : CoreId) (n : Nat) (s : State) : Out := .next (copyRun c .x (copyOf 1) n s)
def execXred (c : CoreId) (n : Nat) (s : State) : Out := .next (copyRun c .x (copyOf 2) n s)
def execXgath (c : CoreId) (n : Nat) (s : State) : Out := .next (copyRun c .x (copyOf 3) n s)
def execXsig (c : CoreId) (n : Nat) (s : State) : Out := .next (copyRun c .x (copyOf 4) n s)

/-! Element boundaries (R186, R187, R212). -/

/-- Bytes done at a destination address end at a 64-byte boundary of it, or at the start or the end of the work; with
elements of z bytes, in the element that reaches the boundary. DEDUCED (log 33). -/
def atEdge (dst done total z : Nat) : Bool := done == 0 || done == total || (dst + done) % 64 < z

/-- An operation has not started, has ended, or stands at an element boundary with nothing under way. DEDUCED (log 33). -/
def opAtRest (e : Eng) (o : EOp) : Bool :=
  let dst := (o.dst e).toNat
  let z := (elemAt e o 0).ds
  let edge := o.aux == 0 && atEdge dst (o.prog * z) (elemCount e o * z) z
  !o.started || (o.owed == 0 && !o.sent && (o.fin ||
    (match e with
     | .m => o.kind == 1
     | .g => o.kind == 3
     | _ =>
       if o.chain.isSome then o.kind == 10
       else match ckind e o with
         | .cpy | .fill | .phfetch | .stage | .conv | .xred => edge
         | .gather => if e == .x then edge else o.aux == 0
         | .mcast => atEdge dst o.prog (o.len e) 1
         | .xsig | .bad => false
         | _ => o.aux == 0)))

/-- PROG and AUX of a progress record (R187, R212). -/
def EOp.progress (e : Eng) (o : EOp) : Nat × Nat :=
  match o.chain with
  | some (_, _, i) => (i, if o.kind = 10 then 0 else o.prog)
  | none =>
    match e with
    | .m => (o.prog, 0)
    | .c | .x => (match ckind e o with
        | .conv => (o.prog * (elemAt e o 0).ds, 0)
        | .mcast => (o.prog, o.aux)
        | _ => (o.prog, 0))
    | _ => (0, 0)

end Sys2Proof.Machine
end

