-- ==== Sys2Proof/Machine/Matrix.lean ====
section
/-! DEFINITION. The matrix array (R188 to R197): MMAC, MZERO, MHASH, MKAT and the lantern. -/

namespace Sys2Proof.Machine

open Sys2Proof

/-- Fields of a tile view (R23). -/
def tvPitch (v : Word) : Nat := wbits v 57 39
def tvCols (v : Word) : Nat := wbits v 38 32 + 1
def tvRows (v : Word) : Nat := wbits v 31 25 + 1
def tvEw (v : Word) : Nat := wbits v 24 22
def tvBase (v : Word) : Nat := wbits v 18 0

def EOp.viewA (o : EOp) : Word := o.views.getD 0 0
def EOp.viewB (o : EOp) : Word := o.views.getD 1 0
def EOp.viewC (o : EOp) : Word := o.views.getD 2 0
def EOp.mfmt (o : EOp) : Nat := o.fld .m 8
def EOp.nrec (o : EOp) : Nat := o.fld .m 10 + 1
def EOp.mZero (o : EOp) : Bool := o.fld .m 9 == 1
def EOp.key64 (o : EOp) : Nat :=
  o.fld .m 12 + o.fld .m 13 * 2 ^ 16 + o.fld .m 14 * 2 ^ 32 + o.fld .m 15 * 2 ^ 48

/-- The float formats of FMT; the others hold records. -/
def mFloat (fmt : Nat) : Bool := fmt ≤ 1
/-- The record formats of A and of B, by the codes of R176 (R189). -/
def mRecA (fmt : Nat) : Nat := match fmt with | 2 => 0 | 3 => 2 | 4 => 3 | _ => 5
def mRecB (fmt : Nat) : Nat := if fmt = 2 then 0 else 4
def mFmt (fmt : Nat) : Fmt := if fmt = 0 then bf16 else fp16

/-- Rows of A, columns of the result, and the inner count (R189). -/
def EOp.mM (o : EOp) : Nat := tvRows o.viewA
def EOp.mN (o : EOp) : Nat := if mFloat o.mfmt then tvCols o.viewB else tvRows o.viewB
def EOp.mK (o : EOp) : Nat := if mFloat o.mfmt then tvCols o.viewA else 32 * o.nrec
/-- Groups of k (R190). -/
def EOp.mG (o : EOp) : Nat := if mFloat o.mfmt then (o.mK + 7) / 8 else o.nrec

/-- Bytes of a result element, and its offset in the part. -/
def mWidth (fmt : Nat) : Nat := if mFloat fmt then 4 else 8
def bankOff (fmt i j : Nat) : Nat := if mFloat fmt then 256 * i + 4 * j else 512 * i + 8 * j

/-- The bytes of a row of a view. -/
def rowBytes (s : State) (c : CoreId) (v : Word) (i : Nat) : List Byte :=
  s.readMem (regionKey c (tvBase v + i * tvPitch v)) (tvCols v * 2 ^ tvEw v)

/-- The operands of an M operation as their rows hold them now (R191). -/
structure MOperands where
  a : List (List Byte)
  b : List (List Byte)
def operandsOf (s : State) (c : CoreId) (o : EOp) : MOperands :=
  { a := (List.range (tvRows o.viewA)).map (rowBytes s c o.viewA),
    b := (List.range (tvRows o.viewB)).map (rowBytes s c o.viewB) }

/-- A 2-byte element of a row. -/
def elem2 (r : List Byte) (k : Nat) : Nat := leNat ((r.drop (2 * k)).take 2)
/-- Record n of a row. -/
def recOf (fmt : Nat) (r : List Byte) (n : Nat) : List Byte := (r.drop (n * recBytes fmt)).take (recBytes fmt)

/-- The term of one k in the record formats (R63, R64). -/
def mTerm (fmt : Nat) (ra rb : List Byte) (t : Nat) (ae : Int) : Int :=
  let ew := listGet ra 0
  let ea := listGet rb 0
  match recCode (mRecA fmt) ra t, recCode (mRecB fmt) rb t with
  | some wc, some ac =>
    if fmt = 2 then qTerm (toS 8 wc * toS 8 ac) ew ea ae else logDotTerm (fmt != 4) wc ew ac ea ae
  | _, _ => 0

/-- One group of one element: the new value, and whether it clamped (R66, R190). -/
def mGroup (fmt g kk : Nat) (x : MOperands) (i j : Nat) (ae : Int) (acc : Nat) : Nat × Bool :=
  if mFloat fmt then
    let t := mFmt fmt
    let ks := (List.range (min 8 (kk - 8 * g))).map (· + 8 * g)
    let prods := ks.map (fun k => fMul (fDec t (elem2 (x.a.getD i []) k)) (fDec t (elem2 (x.b.getD k []) j)))
    (accF32 acc prods, false)
  else
    let ra := recOf (mRecA fmt) (x.a.getD i []) g
    let rb := recOf (mRecB fmt) (x.b.getD j []) g
    let (v, cl) := (List.range 32).foldl (fun (r : Int × Bool) t =>
      let (v, c) := clampAdd r.1 (mTerm fmt ra rb t ae); (v, r.2 || c)) (toS 64 acc, false)
    (ofS 64 v, cl)

def EOp.aeInt (o : EOp) : Int := toS 8 o.ae.toNat

/-- The element the lantern checks (R196). DEDUCED (log 29). -/
def EOp.lanternAt (o : EOp) : Nat × Nat := (o.lantern.toNat / 256 % o.mM, o.lantern.toNat % 256 % o.mN)

/-- A record format whose records stand at even addresses: Q16 and L16 (R53). DEDUCED (log 32). -/
def recOdd (fmt : Nat) : Bool := fmt = 1 || fmt = 4
/-- A row of the view begins at an odd address. DEDUCED (log 32). -/
def viewOdd (v : Word) : Bool := tvBase v % 2 == 1 || (tvPitch v % 2 == 1 && 2 ≤ tvRows v)

/-- The shape and record checks of MMAC (R189, R56). DEDUCED (log 25). -/
def mmacCause (s : State) (c : CoreId) (o : EOp) : Option Cause :=
  let f := o.mfmt
  let a := o.viewA
  let b := o.viewB
  let part := avSize o.viewC
  let shape :=
    if 6 ≤ f then false
    else if mFloat f then
      tvEw a == 1 && tvEw b == 1 && tvCols a == tvRows b && tvCols b ≤ 64 && tvRows a * 256 ≤ part
    else
      recBytes (mRecA f) * o.nrec ≤ tvCols a * 2 ^ tvEw a && recBytes (mRecB f) * o.nrec ≤ tvCols b * 2 ^ tvEw b
        && tvRows b ≤ 64 && tvRows a * 512 ≤ part
  if !shape then some .illOperand
  else if mFloat f then none
  else
    let x := operandsOf s c o
    let bad := x.a.any (fun r => (List.range o.nrec).any (fun n => recBad (mRecA f) (recOf (mRecA f) r n)))
      || x.b.any (fun r => (List.range o.nrec).any (fun n => recBad (mRecB f) (recOf (mRecB f) r n)))
    let odd := (recOdd (mRecA f) && viewOdd a) || (recOdd (mRecB f) && viewOdd b)
    if bad then some .illOperand else causeIf odd .misaligned

/-- The working-bank value of an element. -/
def bankAt (s : State) (c : CoreId) (o : EOp) (i j : Nat) : Nat :=
  leNat (s.readMem (wbankKey c (avOff o.viewC + bankOff o.mfmt i j)) (mWidth o.mfmt))

/-- The start of an M operation; MMAC captures the lantern's element (R196), and one that a resumed task brings goes on from
its progress (R186). -/
def State.matStart (s : State) (c : CoreId) (o : EOp) : State :=
  if o.popped then s.setHead c .m o
  else match o.kind with
  | 1 =>
    (match mmacCause s c o with
     | some x => s.setHead c .m (o.fail x)
     | none =>
       let (i, j) := o.lanternAt
       s.setHead c .m { o with cap := [if o.mZero then 0 else bankAt s c o i j] })
  | 3 => s.setHead c .m (if 6 ≤ o.mfmt then o.fail .illOperand else o)
  | 4 => s.setHead c .m (if o.fld .m 16 * 8 + 8 > 65536 then o.fail .illOperand else o)
  | _ => s.setHead c .m o

/-- One group of MMAC over every element, and of the lantern over its own. -/
def State.mmacGroup (s : State) (c : CoreId) (o : EOp) : State :=
  let x := operandsOf s c o
  let g := o.prog
  let f := o.mfmt
  let ij := (List.range o.mM).flatMap (fun i => (List.range o.mN).map (fun j => (i, j)))
  let new := ij.map (fun p =>
    (p, mGroup f g o.mK x p.1 p.2 o.aeInt (if g = 0 && o.mZero then 0 else bankAt s c o p.1 p.2)))
  let s := new.foldl (fun s e =>
    s.writeMem (wbankKey c (avOff o.viewC + bankOff f e.1.1 e.1.2)) (leBytes (mWidth f) e.2.1)) s
  let (i, j) := o.lanternAt
  let l := mGroup f g o.mK x i j o.aeInt (o.cap.getD 0 0)
  s.modOpAt c .m o.id (fun y => { y with
    prog := g + 1, clamp := y.clamp || new.any (fun e => e.2.2), cap := [l.1] })

/-- A mismatch: always a record; a status only under the policy bit of LSEED at GO (R197). DEDUCED (log 29). -/
def State.mismatch (s : State) (c : CoreId) (o : EOp) (x : Cause) (bit : Nat) (data : Option Nat) : State :=
  if o.lseed.getLsbD bit then s.modOpAt c .m o.id (fun o => { o with fin := true, status := causeCode x, cap := data.toList })
  else (s.opRecord c .m o (causeCode x) data).modOpAt c .m o.id (fun o => { o with fin := true })

/-- MMAC (R190, R196): up to n groups, then the lantern's comparison. DEDUCED (log 29). -/
def mmacRun (c : CoreId) : Nat → State → State
  | 0, s => s
  | n + 1, s =>
    match (s.core c).headOp .m with
    | none => s
    | some o =>
      if !o.started || o.fin || o.kind != 1 then s
      else if o.prog < o.mG then mmacRun c n (s.mmacGroup c o)
      else
        let (i, j) := o.lanternAt
        let s := s.bump 3
        if bankAt s c o i j = o.cap.getD 0 0 then s.modOpAt c .m o.id (fun o => { o with fin := true })
        else s.mismatch c o .shadowMismatch 16 none

def execMmac (c : CoreId) (n : Nat) (s : State) : Out := .next (mmacRun c n s)

/-- Run the whole of an M operation of a kind that is never stopped part-way. -/
def matWhole (c : CoreId) (q : Nat) (s : State) (f : EOp → State) : Out :=
  match (s.core c).headOp .m with
  | some o => if o.started && !o.fin && o.kind == q then .next (f o) else .next s
  | none => .next s

/-- MZERO (R192). -/
def execMzero (c : CoreId) (n : Nat) (s : State) : Out :=
  if n = 0 then .next s
  else matWhole c 2 s (fun o =>
    let lo := wbankKey c (avOff o.viewC)
    ({ s with mem := memClear s.mem lo (lo + avSize o.viewC) }).modOpAt c .m o.id (fun o => { o with fin := true }))

/-- Compare a hash with the constant (R193, R194, R197). DEDUCED (log 29). -/
def State.hashCheck (s : State) (c : CoreId) (o : EOp) (h : Word) (cmp : Bool) : State :=
  let s := if cmp then s.bump 1 else s
  if cmp && h.toNat != o.key64 then s.mismatch c o .katMismatch 17 (some h.toNat)
  else s.modOpAt c .m o.id (fun o => { o with fin := true })

/-- MHASH (R193). -/
def execMhash (c : CoreId) (n : Nat) (s : State) : Out :=
  if n = 0 then .next s
  else matWhole c 4 s (fun o =>
    let h := hashBytes (s.readMem (wbankKey c (avOff o.viewC)) (avSize o.viewC))
    (s.writeMem (wbankKey c (o.fld .m 16 * 8)) (leBytes 8 h.toNat)).hashCheck c o h (o.fld .m 17 == 1))

/-- The generated operands of MKAT (R194). -/
def katDraw (o : EOp) (n : Nat) : Nat := (draw (w64 (o.fld .m 11)) (w64 n)).toNat
def katA (o : EOp) (i : Nat) : List Byte :=
  let f := o.mfmt
  if mFloat f then bytesOf 2 ((List.range 128).map (fun k => 0x3800 + katDraw o (256 * i + k) % 1024))
  else (List.range o.nrec).flatMap (fun r =>
    let d (t w : Nat) : Nat := katDraw o (256 * i + 32 * r + t) % 2 ^ w
    127#8 :: (match f with
      | 2 => bytesOf 1 ((List.range 32).map (fun t => d t 8))
      | 3 => leBytes 24 (packBits 6 ((List.range 32).map (fun t => d t 6)))
      | 4 => leBytes 16 (packBits 4 ((List.range 32).map (fun t => d t 4)))
      | _ => leBytes 4 0x55555555 ++ leBytes 12 (packBits 6 ((List.range 16).map (fun t => d (2 * t) 6)))))
def katBrow (o : EOp) (k : Nat) : List Byte :=
  bytesOf 2 ((List.range 64).map (fun j => 0x3800 + katDraw o (2 ^ 16 + 64 * k + j) % 1024))
def katBcol (o : EOp) (j : Nat) : List Byte :=
  (List.range o.nrec).flatMap (fun r =>
    let d (t : Nat) : Nat := katDraw o (2 ^ 16 + 64 * (32 * r + t) + j)
    if o.mfmt = 2 then 127#8 :: bytesOf 1 ((List.range 32).map (fun t => d t % 256))
    else 127#8 :: 0#8 :: bytesOf 2 ((List.range 32).map (fun t => d t % 2 ^ 16 &&& 0x83FF)))
def katOperands (o : EOp) : MOperands :=
  { a := (List.range 128).map (katA o),
    b := if mFloat o.mfmt then (List.range 128).map (katBrow o) else (List.range 64).map (katBcol o) }

/-- The hash of MKAT's 128 by 64 results. -/
def katHash (o : EOp) : Word :=
  let x := katOperands o
  let kk := if mFloat o.mfmt then 128 else 32 * o.nrec
  let gs := if mFloat o.mfmt then 16 else o.nrec
  let res := (List.range 128).flatMap (fun i => (List.range 64).flatMap (fun j =>
    leBytes (mWidth o.mfmt) ((List.range gs).foldl (fun acc g => (mGroup o.mfmt g kk x i j 0 acc).1) 0)))
  hashBytes res

/-- MKAT (R194). -/
def execMkat (c : CoreId) (n : Nat) (s : State) : Out :=
  if n = 0 then .next s else matWhole c 3 s (fun o => s.hashCheck c o (katHash o) true)

end Sys2Proof.Machine
end

