-- ==== Sys2Proof/Machine/Bank.lean ====
section
/-! DEFINITION. Bank units (R242 to R255): the Lanem-B words, the ridgepole, and the memory-command sequencer's service
of a unit's channel (R265, R267, R270, R275). -/

namespace Sys2Proof.Machine

open Sys2Proof

/-! Units by place. -/

/-- The stack-wide channel with its stack, 16·stack + channel, of a frame; R349 gives the bits of a PA. -/
def chanOf (key : Nat) : Nat := bits key 38 32
/-- The bank group inside a frame (R311). -/
def groupOf (key : Nat) : Nat := key / 2 ^ 19 % 4
/-- The bank of a place: one of the 16 of its channel, which every frame of the channel shares (R244, R349). -/
def bankOf (key : Nat) : Nat := 16 * chanOf key + key / 2 ^ 17 % 16
/-- The device unit number of a place (R242). -/
def unitNo (key : Nat) : Nat := 4 * chanOf key + groupOf key
/-- The quarter word of a place under a stripe descriptor: the inverse of quarterKey. -/
def quarterOfKey (d : Word) (key : Nat) : Nat :=
  let w := key / 64 % 8192
  let b := w / 2048
  let r := w / 32 % 64
  if dBm d = 0 then b * 2048 + r * 32 + w % 32 else r * 128 + b * 32 + w % 32

def State.unit (s : State) (n : Nat) : BUnit := (tabGet s.banks.units n).getD BUnit.reset
def State.setUnit (s : State) (n : Nat) (u : BUnit) : State :=
  { s with banks := { s.banks with units := tabSet s.banks.units n u } }
def State.modUnit (s : State) (n : Nat) (f : BUnit → BUnit) : State := s.setUnit n (f (s.unit n))
def State.modJob (s : State) (j : Nat) (f : BJob → BJob) : State :=
  { s with banks := { s.banks with jobs := s.banks.jobs.map (fun x => if x.job == j then f x else x) } }
def State.jobOf (s : State) (j : Nat) : Option BJob := s.banks.jobs.find? (fun x => x.job == j)

/-- The place of quarter word q of a unit's share. -/
def BRun.key (r : BRun) (q : Nat) : Nat := quarterKey r.frame (dBm r.desc) r.group q
/-- The IA of the first byte of quarter word q. -/
def BRun.wordIa (r : BRun) (q : Nat) : Nat := r.ia + planeOff r.desc r.group q

/-- A word of the operand that a running program can reach (R265). -/
def BRun.reaches (r : BRun) (key : Nat) : Bool :=
  key / 2 ^ 21 == r.frame / 2 ^ 21 && groupOf key == r.group &&
    (let q := quarterOfKey r.desc key
     (List.range 4).any (fun n =>
       match r.reach.getD n none with
       | some m => r.start.getD n 0 ≤ q && q ≤ r.start.getD n 0 + m
       | none => false))

/-- A running program holds the writes queued for a word (R265). DEDUCED (log 30). -/
def isHeld (s : State) (key : Nat) : Bool :=
  match (s.unit (unitNo key)).run with
  | some r => r.reaches key && !r.exited
  | none => false

/-- Commit the queued bytes that a test selects to the rows, in arrival order. DEDUCED (log 30). -/
def State.commit (s : State) (p : Nat → Bool) : State :=
  let go := s.wtq.filter (fun c => p c.1)
  go.foldl (fun s c => s.putRow c.1 c.2) { s with wtq := s.wtq.filter (fun c => !p c.1) }

/-- MCS_SERVE (R265, R266): a queued ordinary write of a channel reaches its row with every queued write of its
word; a held one waits. DEDUCED (log 30). -/
def execMcsServe (ch : BitVec 7) (i : Nat) (s : State) : Out :=
  match s.wtq[i]? with
  | none => .next s
  | some (key, _) =>
    if chanOf key != ch.toNat || isHeld s key then .next s
    else .next (s.commit (fun k => k / 64 == key / 64))

/-- ROW_OPEN (R244): the row a unit waits for is open, and its program goes on. -/
def execRowOpen (u : UnitId) (s : State) : Out :=
  let n := u.toNat
  let x := s.unit n
  match x.run with
  | some r =>
    (match r.rowWait with
     | some (bank, row) =>
       let s := s.setUnit n { x with run := some { r with rowWait := none } }
       .next { s with banks := { s.banks with openRows := tabSet s.banks.openRows bank row } }
     | none => .next s)
  | none => .next s

/-! Control inside a program. -/

/-- The word after p, and the loops still open: a body that repeats starts again (R244, R252). -/
def loopNext : List BLoop → Nat → Nat × List BLoop
  | [], p => (p, [])
  | l :: t, p =>
    if p == l.stop then (if 1 < l.left then (l.start, { l with left := l.left - 1 } :: t) else loopNext t p)
    else (p, l :: t)

/-- Go on to the next word. -/
def BUnit.advance (u : BUnit) : BUnit := let x := loopNext u.loops (u.pw + 1); { u with pw := x.1, loops := x.2 }

/-- The program of a unit may issue its next word. -/
def BUnit.ready (u : BUnit) : Option BRun :=
  match u.run with
  | some r => if r.exited || r.stopped || r.rowWait.isSome || r.ridge.isSome then none else some r
  | none => none

/-- UNIT_WORD_ISSUE (R244): the word at the unit's place is decoded and runs on the unit. -/
def execUnitWordIssue (u : UnitId) (s : State) : Out :=
  let x := s.unit u.toNat
  match x.ready with
  | some _ => .next { s with curUnit := u, fetched := (x.prog[x.pw]?).bind decodeBank }
  | none => .next s

/-- Run a word of the current unit that changes only the unit. -/
def bankRun (s : State) (f : BUnit → BRun → BUnit) : Out :=
  let n := s.curUnit.toNat
  let u := s.unit n
  match u.ready with
  | some r => .next (s.setUnit n (f u r).advance)
  | none => .next s

/-! Registers. -/

def BUnit.ry (u : BUnit) (r : BitVec 5) : List Byte := u.y.getD r.toNat (List.replicate 64 0)
def BUnit.rq (u : BUnit) (r : BitVec 5) : BitVec 64 := u.yp.getD r.toNat 0
def BUnit.wy (u : BUnit) (r : BitVec 5) (d : List Byte) (p : BitVec 64) : BUnit :=
  { u with y := setNth u.y r.toNat d, yp := setNth u.yp r.toNat p }
def BUnit.rk (u : BUnit) (r : BitVec 5) : KAcc := u.k.getD r.toNat KAcc.zero
def BUnit.wk (u : BUnit) (r : BitVec 5) (a : KAcc) : BUnit := { u with k := setNth u.k r.toNat a }
def BUnit.rm (u : BUnit) (n : Nat) : BitVec 64 := u.m.getD n 0

/-- Width of a lane in bytes (R246). -/
def bWidth (w : BankWord) : Nat := 2 ^ (w.imm.toNat % 4)
/-- A lane of a poison mask. -/
def lanePoison (p : BitVec 64) (wd j : Nat) : Bool := (List.range wd).any (fun t => p.getLsbD (j * wd + t))
/-- The mask of bytes from lanes. -/
def laneMask (wd : Nat) (f : Nat → Bool) : BitVec 64 :=
  BitVec.ofNat 64 (packBool ((List.range 64).map (fun i => f (i / wd))))
def bLanes (wd : Nat) (b : List Byte) : List Nat := lanesOf wd (64 / wd) b

/-- A lane instruction on two registers: a lane is poisoned when an input byte of it is (R247). -/
def lane2 (w : BankWord) (wd : Nat) (f : Nat → Nat → Nat → Nat) (s : State) : Out :=
  bankRun s (fun u _ =>
    let a := bLanes wd (u.ry w.a)
    let b := bLanes wd (u.ry w.b)
    let p := laneMask wd (fun j => lanePoison (u.rq w.a) wd j || lanePoison (u.rq w.b) wd j)
    u.wy w.d (bytesOf wd ((List.range (64 / wd)).map (fun j => f j (a.getD j 0) (b.getD j 0)))) p)

/-- A lane instruction on one register. -/
def lane1 (w : BankWord) (wd : Nat) (f : Nat → Nat) (s : State) : Out :=
  bankRun s (fun u _ =>
    u.wy w.d (bytesOf wd ((bLanes wd (u.ry w.a)).map f)) (laneMask wd (fun j => lanePoison (u.rq w.a) wd j)))

/-- Clamp to the signed range of a lane. -/
def clampLane (wd : Nat) (x : Int) : Nat :=
  ofS (8 * wd) (max (-(2 ^ (8 * wd - 1))) (min (2 ^ (8 * wd - 1) - 1) x))
/-- The value of a lane, signed or unsigned. -/
def bInt (wd : Nat) (uns : Bool) (x : Nat) : Int := if uns then (x : Int) else toS (8 * wd) x

/-! The words (R246 to R253). -/

def execBankNop (_w : BankWord) (s : State) : Out := bankRun s (fun u _ => u)

/-- The lane of LDI: SE(v), truncated (R247). -/
def ldiLane (w : BankWord) : Nat := ofS (8 * 2 ^ w.b.toNat) w.imm.toInt
def execBankLdi (w : BankWord) (s : State) : Out :=
  let wd := 2 ^ w.b.toNat
  bankRun s (fun u _ => u.wy w.d (bytesOf wd (List.replicate (64 / wd) (ldiLane w))) 0)
def execBankMov (w : BankWord) (s : State) : Out := bankRun s (fun u _ => u.wy w.d (u.ry w.a) (u.rq w.a))

/-- A two's-complement operation, wrapping or saturating. -/
def bankArith (w : BankWord) (f : Int → Int → Int) (s : State) : Out :=
  let wd := bWidth w
  lane2 w wd (fun _ a b =>
    let x := f (toS (8 * wd) a) (toS (8 * wd) b)
    if w.imm.getLsbD 2 then clampLane wd x else ofS (8 * wd) x) s
def execBankAdd (w : BankWord) (s : State) : Out := bankArith w (· + ·) s
def execBankSub (w : BankWord) (s : State) : Out := bankArith w (· - ·) s
def execBankMul (w : BankWord) (s : State) : Out := bankArith w (· * ·) s
def execBankMin (w : BankWord) (s : State) : Out :=
  lane2 w (bWidth w) (fun _ a b => if bInt (bWidth w) (w.imm.getLsbD 2) b < bInt (bWidth w) (w.imm.getLsbD 2) a then b else a) s
def execBankMax (w : BankWord) (s : State) : Out :=
  lane2 w (bWidth w) (fun _ a b => if bInt (bWidth w) (w.imm.getLsbD 2) a < bInt (bWidth w) (w.imm.getLsbD 2) b then b else a) s

/-- The condition of CMP. -/
def bankCond (f : Nat) (a b : Int) : Bool :=
  match f with
  | 0 => a == b | 1 => a != b | 2 => a < b | 3 => a ≤ b | 4 => b < a | _ => b ≤ a
/-- CMP: a mask bit from poisoned input is 0. -/
def execBankCmp (w : BankWord) (s : State) : Out :=
  let wd := bWidth w
  bankRun s (fun u _ =>
    let a := bLanes wd (u.ry w.a)
    let b := bLanes wd (u.ry w.b)
    let on (j : Nat) : Bool :=
      bankCond (w.imm.toNat / 8) (bInt wd (w.imm.getLsbD 2) (a.getD j 0)) (bInt wd (w.imm.getLsbD 2) (b.getD j 0))
        && !lanePoison (u.rq w.a) wd j && !lanePoison (u.rq w.b) wd j
    { u with m := setNth u.m w.d.toNat (laneMask wd on) })
def execBankSel (w : BankWord) (s : State) : Out :=
  let wd := bWidth w
  bankRun s (fun u _ =>
    let a := bLanes wd (u.ry w.a)
    let b := bLanes wd (u.ry w.b)
    let m := u.rm (w.imm.toNat / 8)
    u.wy w.d (bytesOf wd ((List.range (64 / wd)).map (fun j =>
        if m.getLsbD (j * wd) then a.getD j 0 else b.getD j 0)))
      (laneMask wd (fun j => lanePoison (u.rq w.a) wd j || lanePoison (u.rq w.b) wd j)))
def execBankShl (w : BankWord) (s : State) : Out :=
  let wd := bWidth w
  lane1 w wd (fun a => a * 2 ^ (w.imm.toNat / 8) % 2 ^ (8 * wd)) s
def execBankShr (w : BankWord) (s : State) : Out :=
  let wd := bWidth w
  let c := w.imm.toNat / 8
  lane1 w wd (fun a => if w.imm.getLsbD 2 then ofS (8 * wd) (toS (8 * wd) a / 2 ^ c) else a / 2 ^ c) s
/-- The bitwise operations of LOGB. -/
def logbLane (f a b : Nat) : Nat :=
  match f with | 0 => a &&& b | 1 => a ||| b | 2 => a ^^^ b | 3 => a &&& (255 - b) | _ => 255 - a
def execBankLogb (w : BankWord) (s : State) : Out :=
  if w.imm = 4 then lane1 w 1 (fun a => logbLane 4 a 0) s else lane2 w 1 (fun _ => logbLane w.imm.toNat) s

/-! MACs (R249). -/

/-- The code and the scale of element e of the activation buffer. -/
def BUnit.actAt (u : BUnit) (e : Nat) : Nat × Nat :=
  let r := (u.act.drop (e / 32 * 66)).take 66
  ((recCode (if u.l16 then 4 else 1) r (e % 32)).getD 0, listGet r 0)

/-- Add terms to a lane: its value, poison and clamp mark. -/
def KLane.add (x : KLane) (t : Int) (poison : Bool) : KLane :=
  let (v, c) := clampAdd (toS 64 x.v.toNat) t
  { v := w64 (ofS 64 v), poison := x.poison || poison, clamp := x.clamp || c }

/-- One lane of QMAC. -/
def qmacLane (u : BUnit) (r : BRun) (w : BankWord) (i : Nat) (x : KLane) : KLane × Bool :=
  let vs := w.imm.getLsbD 0
  let yb := if vs then w.b + BitVec.ofNat 5 (i / 32) else w.b
  let sb := if vs then u.ac % 64 else i
  let ew := listGet (u.ry yb) sb
  let (qa, ea) := u.actAt u.ac
  let bad := (u.rq w.a).getLsbD i || (u.rq yb).getLsbD sb
  if ew = 255 then ({ x with poison := true }, true)
  else (x.add (qTerm (toS 8 (listGet (u.ry w.a) i) * toS 16 qa) ew ea (toS 8 r.ae.toNat)) bad, false)

/-- The code of row i at step t, and the poison of the bytes that hold row i's codes (R245). -/
def lmacCode (u : BUnit) (w : BankWord) (i t : Nat) : Nat × Bool :=
  if w.imm = 0 then
    let b := u.ry w.a ++ u.ry (w.a + 1) ++ u.ry (w.a + 2)
    let p (n : Nat) : Bool := (u.rq (w.a + BitVec.ofNat 5 (n / 64))).getLsbD (n % 64)
    (leNat ((b.drop (3 * i)).take 3) / 2 ^ (6 * t) % 64, (List.range 3).any (fun x => p (3 * i + x)))
  else
    (listGet (u.ry (w.a + BitVec.ofNat 5 (t / 2))) i / 2 ^ (4 * (t % 2)) % 16,
      (u.rq w.a).getLsbD i || (u.rq (w.a + 1)).getLsbD i)

/-- One lane of LMAC: four steps in ascending order. -/
def lmacLane (u : BUnit) (r : BRun) (w : BankWord) (i : Nat) (x : KLane) : KLane × Bool :=
  let ew := listGet (u.ry w.b) i
  if ew = 255 then ({ x with poison := true }, true)
  else
    ((List.range 4).foldl (fun x t =>
      let (ac, ea) := u.actAt (u.ac + t)
      let (c, p) := lmacCode u w i t
      x.add (logDotTerm (w.imm == 0) c ew ac ea (toS 8 r.ae.toNat)) (p || (u.rq w.b).getLsbD i)) x, false)

/-- A record of a bank unit (R249, R255). -/
def State.unitRecord (s : State) (n code addr : Nat) (core : CoreId) : State :=
  s.report { code := code, sev := 2, src := 5, ctx := (s.core core).iter.map (fun i => (i.ctx, i.node)), eng := 7,
             tix := 0, gstat := 0, addr := some addr, data := none, wher := some n }
def jobCore (s : State) (j : Nat) : CoreId := match s.jobOf j with | some x => x.core | none => 0

/-- A MAC over the 64 lanes; the first scale of 255 in a BEXEC writes one record. -/
def bankMac (w : BankWord) (step : Nat) (lane : BUnit → BRun → Nat → KLane → KLane × Bool) (s : State) : Out :=
  let n := s.curUnit.toNat
  let u := s.unit n
  match u.ready with
  | none => .next s
  | some r =>
    let a := u.rk w.d
    let out := (List.range 64).map (fun i => lane u r i (a.lanes.getD i { v := 0, poison := false, clamp := false }))
    let bad := out.any (·.2)
    let s := if bad && !r.scaleSeen then s.unitRecord n (causeCode .illOperand) u.pw (jobCore s r.job) else s
    let u := { u with ac := u.ac + step, run := some { r with scaleSeen := r.scaleSeen || bad } }
    .next (s.setUnit n (u.wk w.d { lanes := out.map (·.1), dirty := true }).advance)
def execBankQmac (w : BankWord) (s : State) : Out := bankMac w 1 (fun u r i x => qmacLane u r w i x) s
def execBankLmac (w : BankWord) (s : State) : Out := bankMac w 4 (fun u r i x => lmacLane u r w i x) s

def execBankKclr (w : BankWord) (s : State) : Out := bankRun s (fun u _ => u.wk w.d KAcc.zero)
def execBankKmov (w : BankWord) (s : State) : Out :=
  bankRun s (fun u _ =>
    let a := u.rk w.a
    let d := u.rk w.d
    let on (j : Nat) : Bool := !w.imm.getLsbD 2 || (u.rm (w.imm.toNat % 4)).getLsbD j
    u.wk w.d { lanes := (List.range 64).map (fun j =>
                 ((if on j then a else d).lanes.getD j { v := 0, poison := false, clamp := false })),
               dirty := d.dirty || a.dirty })

/-! LDR and STR (R248, R255, R267). -/

/-- The quarter word a cursor names. -/
def cursorWord (u : BUnit) (w : BankWord) : Nat := u.wc.getD (w.imm.toNat % 4) 0 + bits w.imm.toNat 9 2
def BUnit.stepCursor (u : BUnit) (w : BankWord) : BUnit :=
  if w.imm.getLsbD 10 then { u with wc := setNth u.wc (w.imm.toNat % 4) (u.wc.getD (w.imm.toNat % 4) 0 + 1) } else u

/-- Run a column access at the word a cursor names: when its row is not open, the program waits for it. -/
def bankColumn (w : BankWord) (s : State) (f : State → Nat → BUnit → BRun → Nat → State) : Out :=
  let n := s.curUnit.toNat
  let u := s.unit n
  match u.ready with
  | none => .next s
  | some r =>
    let q := cursorWord u w
    let key := r.key q
    if tabGet s.banks.openRows (bankOf key) != some (key / 2 ^ 11) then
      .next (s.setUnit n { u with run := some { r with rowWait := some (bankOf key, key / 2 ^ 11) } })
    else .next (f s n u { r with bytes := r.bytes + 64 } q)

def execBankLdr (w : BankWord) (s : State) : Out :=
  bankColumn w s (fun s n u r q =>
    let key := r.key q
    let bad := isPoison s key
    let d := (List.range 64).map (fun i => rowByte s (key + i))
    let u := ({ u with run := some r }.wy w.d d (if bad then BitVec.allOnes 64 else 0)).stepCursor w
    let s := s.setUnit n u.advance
    let s := match s.jobOf r.job with
      | some j => s.readStamp j.core .g j.op (leaseAt s (r.wordIa q) 0 64).w
      | none => s
    if bad then ({ s with free := s.free + 1 }).unitRecord n 0x0108 (r.wordIa q) (jobCore s r.job) else s)

/-- Store a whole word at its home: behind writes of the word that still wait, in arrival order. -/
def State.putWord (s : State) (key : Nat) (d : List Byte) (bad : Bool) : State :=
  let s := s.putOrdered ((List.range 64).map (key + ·)) d
  { s with poison := setPut s.poison (key / 64) bad }

/-- STR is served at its home as a store of the job's core is: it takes the stamps of R74, which count toward the BEXEC's,
and the core's own copies of the word are dropped (R88, R267). DEDUCED (log 34). -/
def execBankStr (w : BankWord) (s : State) : Out :=
  bankColumn w s (fun s n u r q =>
    let ia := r.wordIa q
    let put (s : State) (dirs : List Nat) : State :=
      let s := s.putWord (r.key q) (u.ry w.a) (u.rq w.a != 0)
      let s := s.setUnit n (({ u with run := some r }).stepCursor w).advance
      match s.jobOf r.job with
      | some j =>
        ((s.owe j.core .g j.op 1).stampOwn { core := j.core, eng := .g, seq := j.op, cyc := s.cyc } (sectorsOf ia 0 64) 1 s.gtc
          dirs).dropOwn j.core (.ia ia) 0 64
      | none => s
    if stampsPending s ia 64 then s
    else match dirStores s { core := jobCore s r.job, eng := .g, seq := ((s.jobOf r.job).map (·.op)).getD 0, cyc := s.cyc }
        (dirIn s ia 64) with
    | .wait s => s
    | .go s => put s []
    | .inval s gs => put s gs)

/-! RIDGE (R251). -/

/-- Send a row on, or deliver it at the tail; the accumulator becomes clean zero. -/
def State.ridgeSend (s : State) (n : Nat) (u : BUnit) (r : BRun) (kx : Nat) (row : List KLane) : State :=
  let u := { u with k := setNth u.k kx KAcc.zero, run := some { r with ridge := none } }
  let s := s.setUnit n u.advance
  match r.next with
  | some m => s.modUnit m (fun v => { v with run := v.run.map (fun x => { x with incoming := x.incoming ++ [row] }) })
  | none => s.modJob r.job (fun j => { j with dels := j.dels ++ [(n / 64, row)] })

/-- RIDGE: the head sends its sum; every other unit waits for its predecessor's row. -/
def execBankRidge (w : BankWord) (s : State) : Out :=
  let n := s.curUnit.toNat
  let u := s.unit n
  match u.ready with
  | none => .next s
  | some r =>
    if r.isHead then .next (s.ridgeSend n u r w.a.toNat (u.rk w.a).lanes)
    else .next (s.setUnit n { u with run := some { r with ridge := some w.a.toNat } })

/-- The incoming row added to an accumulator. -/
def ridgeSum (inc : List KLane) (a : KAcc) : List KLane :=
  (inc.zip a.lanes).map (fun x =>
    let y := x.1.add (toS 64 x.2.v.toNat) x.2.poison
    { y with clamp := y.clamp || x.2.clamp })

/-- RIDGE_RECEIVE (R251). -/
def execRidgeReceive (u : UnitId) (s : State) : Out :=
  let n := u.toNat
  let x := s.unit n
  match x.run with
  | some r =>
    (match r.ridge, r.incoming with
     | some kx, row :: rest =>
       .next (s.ridgeSend n x { r with incoming := rest } kx (ridgeSum row (x.k.getD kx KAcc.zero)))
     | _, _ => .next s)
  | none => .next s

/-! LOOP, SAFE and EXIT (R252, R253, R265, R269). -/

def loopLen (w : BankWord) : Nat := w.d.toNat + 32 * w.a.toNat
def execBankLoop (w : BankWord) (s : State) : Out :=
  let n := s.curUnit.toNat
  let u := s.unit n
  match u.ready with
  | some _ =>
    .next (s.setUnit n { u with
      loops := { start := u.pw + 1, stop := u.pw + 1 + loopLen w, left := w.imm.toNat } :: u.loops, pw := u.pw + 1 })
  | none => .next s

/-- Release the writes held for a unit's operand, in arrival order. -/
def State.release (s : State) (n : Nat) (r : BRun) : State := s.commit (fun key => unitNo key == n && r.reaches key)

/-- SAFE: held writes are released, and the unit stops at the N-th SAFE of a stop request. -/
def execBankSafe (_w : BankWord) (s : State) : Out :=
  let n := s.curUnit.toNat
  let u := s.unit n
  match u.ready with
  | none => .next s
  | some r =>
    let stop := match s.jobOf r.job with | some j => (match j.stop with | some (m, _) => m == r.safes + 1 | none => false) | none => false
    let s := s.setUnit n ({ u with run := some { r with safes := r.safes + 1, stopped := stop } }).advance
    .next (s.release n r)

/-- EXIT: the program ends on this unit, and its bank serves the accesses still held in arrival order (R275). DEDUCED (log 31). -/
def execBankExit (_w : BankWord) (s : State) : Out :=
  let n := s.curUnit.toNat
  let u := s.unit n
  match u.ready with
  | some r => .next ((s.setUnit n { u with run := some { r with exited := true } }).release n r)
  | none => .next s

end Sys2Proof.Machine
end

