-- ==== Sys2Proof/Machine/HeapIns.lean ====
section
/-! DEFINITION. The reference instructions and the barrier (R218 to R224, R241), and the generators (R232 to R234). -/

namespace Sys2Proof.Machine

open Sys2Proof

/-! References (R218). -/

def refTag (r : Word) : Nat := wbits r 63 60
def refId (r : Word) : Nat := wbits r 59 20
def refOfs (r : Word) : Nat := wbits r 19 0
def mkRef (tag id ofs : Nat) : Word := w64 (tag * 2 ^ 60 + id * 2 ^ 20 + ofs)
/-- The root object's reference: id 1, offset 0. -/
def rootRef : Word := mkRef 8 1 0
/-- A reference with another id, or another tag. -/
def withId (r : Word) (id : Nat) : Word := mkRef (refTag r) id (refOfs r)
def withTag (r : Word) (tag : Nat) : Word := mkRef tag (refId r) (refOfs r)

def otLimit (s : State) (ctx : Nat) : Nat := (s.ctxs[ctx]?.getD Ctx.reset).otlimit.toNat
/-- Malformed, the null reference apart. DEDUCED (log 46). -/
def isMalformed (s : State) (ctx : Nat) (r : Word) : Bool :=
  r != 0 && ((refTag r != 8 && refTag r != 9) || refId r == 0 || otLimit s ctx ≤ refId r)

/-! The barrier (R221). -/

/-- What a heap access resolves to: its object and its bytes, a wait, or the first fault in the order of R35. -/
inductive Barrier where
  | ok (key : Nat)
  | bad (x : Cause)
  deriving DecidableEq, Repr

/-- The object n bytes at offset o of a reference lie in. align is what o must be a multiple of; write marks HST and
REFST. DEDUCED (log 46). -/
def barrier (s : State) (ctx : Nat) (ref : Word) (o n align : Nat) (write : Bool) : Barrier :=
  if o % align ≠ 0 then .bad .misaligned
  else if refTag ref = 0 then .bad .refNull
  else if isMalformed s ctx ref then .bad .refTag
  else
    let key := s.followed ctx (refId ref)
    let e := s.obj key
    if o + n > 512 * e.size then .bad .rangeFault
    else if write && (s.obj (objKey ctx (refId ref))).st = .forwarded then .bad .permFault
    else if write && e.arena && (s.slot e.owner).st != .prompt then .bad .slotState
    else .ok key

/-- The place of byte b of an object, none while its chunk is BUSY. -/
def heapByte (s : State) (key b : Nat) : Option Loc :=
  let e := s.obj key
  if e.st = .absent then some (.heap key b) else (e.place b).map Loc.ia

/-- The bytes of an access, none when one waits on a BUSY chunk. Heap grains are 512 bytes, class MH (R83). DEDUCED (log 34). -/
def heapBytes (s : State) (key o n : Nat) : Option (List AtByte) :=
  let l := (List.range n).map (fun i => (heapByte s key (o + i)).map (fun p => ({ pos := i, loc := p, cls := 4, gr := 2 } : AtByte)))
  if l.all Option.isSome then some (l.filterMap id) else none

/-- A write to an ABSENT object touches it first; with an empty pool the access carries the object itself (R227). -/
def State.touched (s : State) (key : Nat) : State :=
  if (s.obj key).st = .absent then (s.firstTouch key).getD s else s

/-- The offset of a reference instruction: the reference's own and sB + SE(imm), unsigned. -/
def heapOfs (k : Core) (w : Fields) (ref : Word) : Nat := (w64 (refOfs ref) + k.rs w.b + se20 w.imm).toNat

/-- A heap store of n bytes. -/
def heapStore (s : State) (c : CoreId) (w : Fields) (n align : Nat) (d : List Byte) : SRes :=
  let k := s.core c
  let ref := k.rh (r4 w.a)
  let o := heapOfs k w ref
  match barrier s (coreCtx k) ref o n align true with
  | .bad x => .trap x ref
  | .ok key =>
    if !storeRoom k then .hold s
    else
      let s := s.touched key
      match heapBytes s key o n with
      | none => s.holdAgain c true
      | some bytes =>
        .later (s.issueAccess c {} k.pc .none w.push [] (storeParts d (scalarParts (w64 o) n bytes))) k.npc

def execHld (w : Fields) (s : State) : Out := sRun s w (fun s c =>
  let k := s.core c
  let ref := k.rh (r4 w.a)
  let n := sizeBytes (fLo w)
  let o := heapOfs k w ref
  match barrier s (coreCtx k) ref o n 1 false with
  | .bad x => .trap x ref
  | .ok key =>
    match heapBytes s key o n with
      | none => s.holdAgain c true
      | some bytes =>
        .later (s.issueAccess c {} k.pc (.sreg w.d (fLo w)) w.push (List.replicate n 0)
          ((scalarParts (w64 o) n bytes).map (fun p => (p, AccOp.load)))) k.npc) { s := [w.d, w.b], ahead := true }

def execHst (w : Fields) (s : State) : Out := sRun s w (fun s c =>
  let n := sizeBytes (fLo w)
  heapStore s c w n 1 (lowBytes n ((s.core c).rs w.d))) { s := [w.d, w.b] }

/-- REFST: a pinned-derived reference is stored as a strong one. -/
def execRefst (w : Fields) (s : State) : Out := sRun s w (fun s c =>
  let v := (s.core c).rh (r4 w.d)
  heapStore s c w 8 8 (leBytes 8 (if refTag v = 9 then withTag v 8 else v).toNat)) { s := [w.b] }

/-- REFLD has its value r, read at a place: it checks it, follows a forwarder, heals the word, and writes hD. -/
def refldEnd (s : State) (c : CoreId) (w : Fields) (r : Word) (l : Loc) : SRes :=
  let k := s.core c
  let ctx := coreCtx k
  if isMalformed s ctx r || refTag r = 9 then .trap .refTag r
  else
    let e := s.obj (objKey ctx (refId r))
    let end_ (s : State) (v : Word) : SRes :=
      .done (s.modCore c (·.wh (r4 w.d) v)) k.npc
    if r = 0 || e.st != .forwarded then end_ s r
    else
      let h := withId r e.target
      if w.f = 0 then end_ s h
      else if !storeRoom k then .hold s
      else end_ (s.issueAccess c { strong := true } k.pc .none 0 []
        [({ pos := 0, loc := l, len := 8, cls := 4, gr := 2 }, .rmw 9 8 r h false)]) h

/-- REFLD: the load, whose value the instruction then waits for. -/
def execRefld (w : Fields) (s : State) : Out := sRun s w (fun s c =>
  let k := s.core c
  match k.wait with
  | some (.refDone r l) => refldEnd s c w r l
  | _ =>
    let ref := if k.rh (r4 w.a) = 0 then rootRef else k.rh (r4 w.a)
    let o := heapOfs k w ref
    match barrier s (coreCtx k) ref o 8 8 false with
    | .bad x => .trap x ref
    | .ok key =>
      match heapBytes s key o 8 with
        | some (b :: t) =>
          waitOn (s.issueAccess c {} k.pc (.ref b.loc) w.push (List.replicate 8 0)
            [(onePart 8 (b :: t), AccOp.load)]) c k.seq w
        | _ => s.holdAgain c true)

/-- REFPIN: it waits out a relocation, touches an ABSENT object, and counts the pin. A touch held for 1 ms is abandoned
as a held load is (R227, R354). DEDUCED (log 46). -/
def execRefpin (w : Fields) (s : State) : Out := sRun s w (fun s c =>
  let k := s.core c
  let ref := k.rh (r4 w.a)
  let ctx := coreCtx k
  match barrier s ctx ref (refOfs ref) 1 1 false with
  | .bad x => .trap x ref
  | .ok key =>
    let e := s.obj key
    if e.arena && (s.slot e.owner).st != .gen then .trap .slotState ref
    else if e.st = .relocating then s.holdAgain c true
    else
      let t := if e.st = .absent then s.firstTouch key else some s
      match t with
      | none =>
        let s := s.noteFault (Loc.key (.heap key 0)) (ctxOf s c) 1
        let t0 := match k.wait with | some (.touch t0) => t0 | _ => s.gtc
        if t0.toNat + 1050000 ≤ s.gtc.toNat then
          .done (s.setCore c { k with
            wait := none, deferred := k.deferred ++ [{ cause := .pageFaultLoad, tval := ref, page := true }] }) k.npc
        else .hold (s.setCore c { k with wait := some (.touch t0) })
      | some s =>
        let e := s.obj key
        if e.pin ≥ 65535 then .trap .illOperand ref
        else
          let s := s.setObj key { e with pin := e.pin + 1 }
          .done (s.modCore c (fun k => (k.wh (r4 w.a) (mkRef 9 (key % 2 ^ 40) (refOfs ref))).ws w.d
            (w64 (e.base * 512 + refOfs ref)))) k.npc)

/-- REFUNPIN: a segment already released is freed with its last pin (R240). -/
def execRefunpin (w : Fields) (s : State) : Out := sRun s w (fun s c =>
  let k := s.core c
  let ref := k.rh (r4 w.a)
  let key := objKey (coreCtx k) (refId ref)
  let e := s.obj key
  if refTag ref ≠ 9 || e.pin = 0 then .trap .illOperand ref
  else
    let e := { e with pin := e.pin - 1 }
    let s := if e.pin = 0 && e.arena && e.rc = 0 && e.st ≠ .forwarded then s.clearObj key else s.setObj key e
    .done (s.modCore c (fun k => k.wh (r4 w.a) (withTag ref 8))) k.npc)

/-! Generators (R232 to R234). -/

/-- The generator of a slot and a selector. -/
def genWord (d : SlotDesc) (slot kv layer hg : Nat) : Word :=
  w64 (2 ^ 63 + kv * 2 ^ 62 + d.bkt * 2 ^ 60 + slot * 2 ^ 50 + d.dw * 2 ^ 45 + d.segId layer hg kv % 2 ^ 40)

def execKvag (w : Fields) (s : State) : Out := sRun s w (fun s c =>
  let k := s.core c
  let a := k.rs w.a
  let b := k.rs w.b
  let d := s.slot a.toNat
  let layer := wbits b 19 8
  let hg := wbits b 27 20
  if a.toNat ≥ 1024 || wbits b 7 1 ≠ 0 || wbits b 63 28 ≠ 0 then .trap .illOperand (if a.toNat ≥ 1024 then a else b)
  else if d.st = .free || d.ctx ≠ coreCtx k then .trap .slotState a
  else if layer > d.nlm1 || hg > d.nhgm1 then .trap .illOperand b
  else .done (s.setCore c { k with
    kvgen := k.kvgen.setIfInBounds w.d.toNat (genWord d a.toNat (b.toNat % 2) layer hg) }) k.npc)

/-- Fields of a generator (R232). -/
def gV (g : Word) : Bool := g.getLsbD 63
def gKv (g : Word) : Bool := g.getLsbD 62
def gBkt (g : Word) : Nat := wbits g 61 60
def gSlot (g : Word) : Nat := wbits g 59 50
def gDw (g : Word) : Nat := wbits g 49 45
def gBase (g : Word) : Nat := wbits g 39 0

def execKvaddr (w : Fields) (s : State) : Out := sRun s w (fun s c =>
  let k := s.core c
  let g := k.kvgen[w.b.toNat]?.getD 0
  let p := (k.rs w.a).toNat
  if !gV g then .trap .illOperand g
  else if p ≥ bucketSize (gBkt g) then .trap .rangeFault (w64 p)
  else .done (s.setCore c (k.ws w.d
    (mkRef 8 ((gBase g + p / 64) % 2 ^ 40) (p % 64 * (if gKv g then 64 * gDw g else 1))))) k.npc)

end Sys2Proof.Machine
end

