-- ==== Sys2Proof/Machine/Gen.lean ====
section
/-! DEFINITION. The generation engine G (R254, R257 to R271): the check of a program, page sets, bank commands in the
order of the admission point, BLOAD, BACT, BEXEC, BREAD, BSAFE, BSTAT, and stopping. -/

namespace Sys2Proof.Machine

open Sys2Proof

/-! The check of a program (R110, R254). -/

/-- What a stretch of a program does: how far it moves each cursor, the highest word each cursor reaches from where it
stands, the advance of AC, its RIDGEs, and by set of dirty accumulators (4 bits) the set it leaves and whether a SAFE in
it meets a dirty one. -/
structure Eff where
  adv : List Nat
  reach : List (Option Nat)
  ac : Nat
  dels : Nat
  dirty : List Nat
  bad : List Bool
  deriving DecidableEq, Repr

def Eff.skip : Eff :=
  { adv := [0, 0, 0, 0], reach := [none, none, none, none], ac := 0, dels := 0, dirty := List.range 16,
    bad := List.replicate 16 false }

/-- The higher of two reaches, the second from n words on. -/
def reachJoin (a : Option Nat) (n : Nat) (b : Option Nat) : Option Nat :=
  match a, b with
  | some x, some y => some (max x (n + y))
  | some x, none => some x
  | none, some y => some (n + y)
  | none, none => none

/-- One stretch after another. -/
def Eff.then (x y : Eff) : Eff :=
  { adv := (x.adv.zip y.adv).map (fun p => p.1 + p.2),
    reach := (List.range 4).map (fun i => reachJoin (x.reach.getD i none) (x.adv.getD i 0) (y.reach.getD i none)),
    ac := x.ac + y.ac, dels := x.dels + y.dels,
    dirty := x.dirty.map (fun d => y.dirty.getD d 0),
    bad := (List.range 16).map (fun d => x.bad.getD d false || y.bad.getD (x.dirty.getD d 0) false) }

/-- The dirty set after n passes, and whether a SAFE met a dirty one. -/
def passes (x : Eff) : Nat → Nat → Nat × Bool
  | 0, d => (d, false)
  | n + 1, d => let r := passes x n (x.dirty.getD d 0); (r.1, x.bad.getD d false || r.2)

/-- A stretch run n times, n at least 1. -/
def Eff.times (x : Eff) (n : Nat) : Eff :=
  let p := (List.range 16).map (passes x n)
  { adv := x.adv.map (· * n),
    reach := (List.range 4).map (fun i => (x.reach.getD i none).map (fun r => r + (n - 1) * x.adv.getD i 0)),
    ac := x.ac * n, dels := x.dels * n, dirty := p.map (·.1), bad := p.map (·.2) }

/-- Set or clear an accumulator's bit in every set. -/
def dirtySet (n : Nat) : List Nat := (List.range 16).map (fun d => if d.testBit n then d else d + 2 ^ n)
def dirtyClr (n : Nat) : List Nat := (List.range 16).map (fun d => if d.testBit n then d - 2 ^ n else d)

/-- The effect of a word that is no LOOP and no EXIT. -/
def effOf : Instr → Eff
  | .bankLdr w | .bankStr w =>
    let n := w.imm.toNat % 4
    { Eff.skip with
      adv := setNth [0, 0, 0, 0] n (if w.imm.getLsbD 10 then 1 else 0),
      reach := setNth [none, none, none, none] n (some (bits w.imm.toNat 9 2)) }
  | .bankQmac w => { Eff.skip with ac := 1, dirty := dirtySet w.d.toNat }
  | .bankLmac w => { Eff.skip with ac := 4, dirty := dirtySet w.d.toNat }
  | .bankKclr w => { Eff.skip with dirty := dirtyClr w.d.toNat }
  | .bankKmov w =>
    { Eff.skip with
      dirty := (List.range 16).map (fun d => if d.testBit w.a.toNat && !d.testBit w.d.toNat then d + 2 ^ w.d.toNat else d) }
  | .bankRidge w => { Eff.skip with dels := 1, dirty := dirtyClr w.a.toNat }
  | .bankSafe _ => { Eff.skip with bad := (List.range 16).map (· != 0) }
  | _ => Eff.skip

/-- The effect of a program up to its EXIT; fuel is its length. -/
def effGo : Nat → List Instr → Eff
  | _, [] => Eff.skip
  | 0, _ => Eff.skip
  | n + 1, i :: t =>
    match i with
    | .bankExit _ => Eff.skip
    | .bankLoop w => ((effGo n (t.take (loopLen w))).times w.imm.toNat).then (effGo n (t.drop (loopLen w)))
    | i => (effOf i).then (effGo n t)

/-- The structural checks: loop bodies inside what holds them, no EXIT in a body, at most two levels and never the
outer one, no SAFE inside a level-1 body. outer lists the levels of the bodies around. -/
def nestOk : Nat → List Nat → List Instr → Bool
  | _, _, [] => true
  | 0, _, _ => true
  | n + 1, outer, i :: t =>
    match i with
    | .bankLoop w =>
      let l := loopLen w
      let lv := w.b.toNat
      l ≤ t.length && outer.length < 2 && !outer.contains lv && nestOk n (lv :: outer) (t.take l) && nestOk n outer (t.drop l)
    | .bankExit _ => outer.isEmpty && nestOk n outer t
    | .bankSafe _ => !outer.contains 1 && nestOk n outer t
    | _ => nestOk n outer t

/-- The index of the first EXIT outside every loop body. -/
def topExit : Nat → Nat → List Instr → Option Nat
  | _, _, [] => none
  | 0, _, _ => none
  | n + 1, i, x :: t =>
    match x with
    | .bankExit _ => some i
    | .bankLoop w => if loopLen w ≤ t.length then topExit n (i + 1 + loopLen w) (t.drop (loopLen w)) else none
    | _ => topExit n (i + 1) t

def isQmac : Instr → Bool | .bankQmac _ => true | _ => false
def isLmac : Instr → Bool | .bankLmac _ => true | _ => false

/-- The program and its figures, none where BLOAD refuses it. -/
def progCheck (ws : List (BitVec 32)) : Option BProg :=
  let is := ws.map decodeBank
  if ws.length > 96 || !is.all Option.isSome then none
  else
    let is := is.filterMap id
    let n := is.length
    let e := effGo n is
    if !nestOk n [] is || (topExit n 0 is).isNone || (is.any isQmac && is.any isLmac) || e.dels > 4 || e.bad.getD 0 false
    then none
    else some { words := ws, mac := if is.any isQmac then 1 else if is.any isLmac then 2 else 0, adv := e.ac,
                reach := e.reach, dels := e.dels }

/-- The words read so far end at the first top-level EXIT (R258). A word that does not decode is no EXIT. -/
def endsHere (ws : List (BitVec 32)) : Bool :=
  let nop : Instr := .bankNop { d := 0, a := 0, b := 0, imm := 0 }
  (topExit ws.length 0 (ws.map (fun w => (decodeBank w).getD nop))) == some (ws.length - 1) && ws.length != 0

/-- 32-bit words of bytes. -/
def words32 : Nat → List Byte → List (BitVec 32)
  | 0, _ => []
  | n + 1, b => BitVec.ofNat 32 (leNat (b.take 4)) :: words32 n (b.drop 4)

/-! Page sets (R257, R258, R260). -/

/-- The pages of an operation: the number of the first 2 MiB page of its operand, and how many. -/
def EOp.pages (o : EOp) : Nat × Nat := ((o.reg 6).toNat / 2 ^ 21, o.fld .g 12 + 1)

/-- A unit of a page set: its number, its page's IA, frame and stripe descriptor, its bank group. -/
structure BPlace where
  n : Nat
  ia : Nat
  frame : Nat
  desc : Word
  group : Nat
  deriving DecidableEq, Repr

/-- The compute-capable leaf of a page in this device's memory. -/
def ccLeaf (s : State) (p : Nat) : Option Leaf :=
  let ia := p * 2 ^ 21
  if homeAt s ia != .own then none
  else match leafOf s ia with
    | some (_, l) => if lCc l && !lView l && lBig l then some l else none
    | none => none

def pagesOf (x : Nat × Nat) : List Nat := (List.range x.2).map (· + x.1)

def insertPlace (x : BPlace) : List BPlace → List BPlace
  | [] => [x]
  | y :: t => if x.n ≤ y.n then x :: y :: t else y :: insertPlace x t

/-- The units of a page set in ascending number (R242, R310). -/
def placesOf (s : State) (ps : Nat × Nat) : List BPlace :=
  (pagesOf ps).foldl (fun r p =>
    match ccLeaf s p with
    | some l =>
      (List.range (2 ^ dNu l.w1)).foldl (fun r g =>
        insertPlace { n := 4 * chanOf (lAddr l) + g, ia := p * 2 ^ 21, frame := lAddr l, desc := l.w1, group := g } r) r
    | none => r) []

/-- The second and third checks of R260. -/
def pageCause (s : State) (ps : Nat × Nat) : Option Cause :=
  let ls := (pagesOf ps).map (ccLeaf s)
  if !ls.all Option.isSome then some .rangeFault
  else
    let ch := ls.filterMap (fun l => l.map (fun l => chanOf (lAddr l)))
    causeIf (ch.eraseDups.length != ch.length) .illOperand

/-- The part of R260's first check that R313 sets: the operand starts at a word of unit 0 of each page. -/
def startOk (s : State) (o : EOp) : Bool :=
  let off := (o.reg 6).toNat % 2 ^ 21
  (pagesOf o.pages).all (fun p => match ccLeaf s p with
    | some l => off % 64 == 0 && unitOf (dG l.w1) (off / 64) == 0
    | none => true)

/-! Ends of G operations. -/

def EOp.gFail (o : EOp) (x : Cause) : EOp := { (o.fail x) with gstatus := 5 }
def State.modG (s : State) (c : CoreId) (id : Nat) (f : EOp → EOp) : State := s.modCore c (fun k => k.modOp .g id f)
def State.modGs (s : State) (c : CoreId) (f : GStore → GStore) : State := s.modCore c (fun k => { k with gs := f k.gs })
def State.gFailAt (s : State) (c : CoreId) (id : Nat) (x : Cause) : State := s.modG c id (fun o => o.gFail x)
def State.gDone (s : State) (c : CoreId) (id : Nat) : State := s.modG c id (fun o => { o with fin := true })

/-- The operation at the head of G, when it runs and is of a kind. -/
def State.gRun (s : State) (c : CoreId) (kind : Nat) : Option EOp :=
  match (s.core c).headOp .g with
  | some o => if o.started && !o.fin && o.kind == kind then some o else none
  | none => none

/-! The admission point (R257). -/

/-- Take the next number for a bank command. -/
def State.enrol (s : State) (c : CoreId) (id : Nat) (units : List Nat) : State :=
  let n := s.banks.nextNo
  { s with banks := { s.banks with enrolled := s.banks.enrolled ++ [(n, c, id, units)], nextNo := n + 1 } }.modG c id
    (fun o => { o with no := some n })
/-- A command's turn has come at every unit it names. -/
def State.turnOf (s : State) (n : Nat) (units : List Nat) : Bool :=
  s.banks.enrolled.all (fun a => n ≤ a.1 || a.2.2.2.all (fun u => !units.contains u))
def State.leave (s : State) (n : Nat) : State :=
  { s with banks := { s.banks with enrolled := s.banks.enrolled.filter (fun a => a.1 != n) } }
def BPlace.nums (l : List BPlace) : List Nat := l.map (·.n)

/-- The owner tag of a core: its context and logical id (R243). -/
def ownerTag (k : Core) : Nat × Nat := (coreCtx k, k.lid.toNat)

/-! BLOAD and BACT (R258, R259). -/

/-- The causes of a read of bytes i to i + n − 1 at an address. -/
def readCause (s : State) (c : CoreId) (sp : Nat) (base : Word) (i n : Nat) : Option Cause :=
  worstAt ((List.range n).map (fun j => engAt s (s.core c) sp base (i + j) .r))

/-- BLOAD: one read, then the check, then at its turn the load into the G store and the units. -/
def State.bloadStep (s : State) (c : CoreId) (o : EOp) : State :=
  let nw := o.fld .g 8
  let ws := words32 (o.buf.length / 4) o.buf
  let whole := if nw = 0 then o.buf.length % 4 == 0 && (endsHere ws || ws.length ≥ 96) else o.buf.length ≥ 4 * nw
  if !whole then
    let n := if nw = 0 then 4 - o.buf.length % 4 else min 32 (4 * nw - o.buf.length)
    match readCause s c 0 (o.reg 5) o.buf.length n with
    | some x => s.gFailAt c o.id x
    | none =>
      if (sealsOf s ((List.range n).map (fun j => engAt s (s.core c) 0 (o.reg 5) (o.buf.length + j) .r))).isNone then
        s.gFailAt c o.id .illOperand
      else takeRead c .g o.id (s.engRead c .g o 0 (o.reg 5) o.buf.length n)
  else match progCheck ws with
    | none => s.modG c o.id (fun o => { o with fin := true, status := 0x109, gstatus := 1 })
    | some p =>
      let units := placesOf s o.pages
      match o.no with
      | none => s.enrol c o.id (BPlace.nums units)
      | some n =>
        if !s.turnOf n (BPlace.nums units) then s
        else
          let k := s.core c
          let s := s.modGs c (fun g => { g with prog := some p, progSet := some o.pages })
          let s := (BPlace.nums units).foldl (fun s u =>
            s.modUnit u (fun x => { x with prog := ws, owner := some (ownerTag k) })) s
          (s.leave n).gDone c o.id

/-- The records of a BACT's bytes. -/
def actRecs (n : Nat) (b : List Byte) : List (List Byte) := (List.range n).map (fun i => (b.drop (66 * i)).take 66)

def State.bactStep (s : State) (c : CoreId) (o : EOp) : State :=
  let n := o.fld .g 10 + 1
  let l16 := o.fld .g 9 == 1
  if o.buf.length < 66 * n then
    takeRead c .g o.id (s.engRead c .g o (o.fld .g 7) (o.reg 5) o.buf.length (66 * n - o.buf.length))
  else if (actRecs n o.buf).any (recBad (if l16 then 4 else 1)) then s.gFailAt c o.id .illOperand
  else if (o.reg 5).toNat % 2 = 1 then s.gFailAt c o.id .misaligned
  else
    let units := placesOf s o.pages
    match o.no with
    | none => s.enrol c o.id (BPlace.nums units)
    | some no =>
      if !s.turnOf no (BPlace.nums units) then s
      else
        let s := s.modGs c (fun g => { g with act := o.buf.take (66 * n), l16 := l16, actSet := some o.pages })
        let s := (BPlace.nums units).foldl (fun s u => s.modUnit u (fun x => { x with act := o.buf.take (66 * n), l16 := l16 })) s
        (s.leave no).gDone c o.id

/-! BEXEC (R260, R261, R266). -/

/-- The word each cursor starts at, in a page (R260, R313). -/
def cursorStart (o : EOp) (d : Word) : List Nat :=
  let q := quarterOf (dG d) ((o.reg 6).toNat % 2 ^ 21 / 64)
  [q, q + o.fld .g 14, q + o.fld .g 15, q + o.fld .g 16]

/-- Whether a cursor that starts here reaches beyond its quarter. -/
def beyondQuarter (start : List Nat) (reach : List (Option Nat)) : Bool :=
  (List.range 4).any (fun i => match reach.getD i none with | some m => start.getD i 0 + m ≥ 8192 | none => false)

/-- The first check of R260 that fails, with the status it gives: 5 FAULT, 2 BOUNDARY. -/
def bexecCause (s : State) (g : GStore) (o : EOp) : Option (Nat × Cause) :=
  match g.prog with
  | none => some (5, .illOperand)
  | some p =>
    if 2048 ≤ o.fld .g 13 then some (5, .illOperand)
    else if g.progSet != some o.pages || g.actSet != some o.pages || !startOk s o then some (5, .illOperand)
    else match pageCause s o.pages with
      | some x => some (5, x)
      | none =>
        let units := placesOf s o.pages
        if (p.mac = 1 && g.l16) || (p.mac = 2 && !g.l16) then some (5, .illOperand)
        else if (units.length - 1) * o.fld .g 13 + p.adv > 32 * (g.act.length / 66) then some (5, .illOperand)
        else if units.any (fun u => beyondQuarter (cursorStart o u.desc) p.reach) then some (2, .boundary)
        else none

/-- A BEXEC that begins discards what the last one left (R276). -/
def GStore.clearLast (g : GStore) : GStore :=
  { g with lastOk := false, lastSet := none, rows := [], rowsN := 0, dels := 0, poison := 0, cycles := 0, bytes := 0 }

/-- BEXEC: the checks, then a number at the admission point, then at its turn a job that waits for its drain. -/
def State.bexecStep (s : State) (c : CoreId) (o : EOp) : State :=
  let k := s.core c
  let units := BPlace.nums (placesOf s o.pages)
  if o.prog = 0 then
    let s := s.modGs c GStore.clearLast
    match bexecCause s (s.core c).gs o with
    | some (g, x) => s.modG c o.id (fun o => { (o.fail x) with gstatus := g, aux := 1 })
    | none => s.modG c o.id (fun o => { o with prog := 1, aux := 1 })
  else if s.banks.jobs.any (fun j => j.core == c && j.op == o.id) then s
  else match o.no with
    | none => s.enrol c o.id units
    | some n =>
      if !s.turnOf n units then s
      else
        let j : BJob := { job := n, core := c, op := o.id, units := units, started := false, first := 0, dels := [],
                          stop := if o.stop then some (1, s.gtc) else none, keep := false, cycles := 0, bytes := 0,
                          sib := k.iter.bind (·.sib) }
        { s with banks := { s.banks with jobs := s.banks.jobs ++ [j] } }

/-- The run of the unit at a place, of rank r, for an operation. -/
def runOfPlace (j : Nat) (o : EOp) (p : BProg) (all : List BPlace) (u : BPlace) : BRun :=
  { job := j, ia := u.ia, frame := u.frame, desc := u.desc, group := u.group, start := cursorStart o u.desc,
    reach := p.reach, ae := o.ae, isHead := !all.any (fun v => v.n / 64 == u.n / 64 && v.n < u.n),
    next := (all.find? (fun v => v.n / 64 == u.n / 64 && u.n < v.n)).map (·.n), safes := 0, exited := false,
    stopped := false, rowWait := none, ridge := none, incoming := [], scaleSeen := false, bytes := 0 }

/-- A unit ready to run from the start, or from a resume record (R261, R269). It keeps the program and the activations it
holds when its owner tag is the core's; else, and at a resume, G reloads it. -/
def unitFor (x : BUnit) (g : GStore) (p : BProg) (tag : Nat × Nat) (rank kstep : Nat) (r : BRun) (v : Option BSaved) : BUnit :=
  let keeps := x.owner == some tag && v.isNone
  let u := { BUnit.reset with
    prog := if keeps then x.prog else p.words, l16 := if keeps then x.l16 else g.l16,
    act := if keeps then x.act else g.act, owner := some tag }
  match v with
  | none => { u with wc := r.start, ac := rank * kstep, run := some r }
  | some v => { u with wc := v.wc, ac := v.ac, pw := v.pw, loops := v.loops,
                       run := some { r with exited := v.exited, scaleSeen := v.scaleSeen } }

/-- WRITE_THROUGH_DRAIN: the operand's queued stores are in the rows, the units are loaded and start. -/
def execWriteThroughDrain (c : CoreId) (s : State) : Out :=
  let k := s.core c
  match s.banks.jobs.find? (fun j => j.core == c && !j.started), s.gRun c 3, k.gs.prog with
  | some j, some o, some p =>
    if j.op != o.id then .next s
    else
      let ps := placesOf s o.pages
      let runs := ps.map (runOfPlace j.job o p ps)
      let s := s.commit (fun key => runs.any (fun r => r.reaches key))
      let recs := match k.gs.resume with | some x => x.recs.map some | none => []
      let s := ((List.range ps.length).zip (ps.zip runs)).foldl (fun s x =>
        s.setUnit x.2.1.n (unitFor (s.unit x.2.1.n) k.gs p (ownerTag k) x.1 (o.fld .g 13) x.2.2 (recs.getD x.1 none))) s
      let s := s.modJob j.job (fun j => { j with
        started := true, first := (k.gs.resume.map (·.first)).getD s.gtc,
        dels := (k.gs.resume.map (·.dels)).getD [], cycles := (k.gs.resume.map (·.cycles)).getD 0,
        bytes := (k.gs.resume.map (·.bytes)).getD 0 })
      .next (s.modGs c (fun g => { g with resume := none }))
  | _, _, _ => .next s

/-- The runs of a job's units. -/
def jobRuns (s : State) (j : BJob) : List BRun :=
  j.units.filterMap (fun n => match (s.unit n).run with | some r => if r.job == j.job then some r else none | none => none)
/-- Unit cycles, from the first start on, and bytes of a job so far (R264): a unit cycle is 21/16 of a tick. DEDUCED (log 31). -/
def jobCycles (s : State) (j : BJob) : Nat := if j.started then (s.gtc.toNat - j.first.toNat) * 16 / 21 else j.cycles
def jobBytes (s : State) (j : BJob) : Nat := j.bytes + ((jobRuns s j).map (·.bytes)).foldl (· + ·) 0

/-- A job ends: its units are free, its number leaves, its sibling is charged (R300). DEDUCED (log 31). -/
def State.endJob (s : State) (j : BJob) : State :=
  let s := s.charge j.sib 0 (jobCycles s j - j.cycles) (jobBytes s j - j.bytes)
  let s := j.units.foldl (fun s n => s.modUnit n (fun u =>
    if (u.run.map (·.job)) == some j.job then { u with run := none } else u)) s
  { s with banks := { s.banks with jobs := s.banks.jobs.filter (fun x => x.job != j.job) } }.leave j.job

/-- The sum of one delivery row over stacks in ascending number. -/
def sumRows : List (List KLane) → List KLane
  | [] => []
  | a :: t => t.foldl (fun acc b => (acc.zip b).map (fun x =>
      let y := x.1.add (toS 64 x.2.v.toNat) x.2.poison
      { y with clamp := y.clamp || x.2.clamp })) a

/-- The delivery rows of a job: row n of each stack, summed (R261). -/
def jobRows (j : BJob) (n : Nat) : List (List KLane) :=
  let perStack := (List.range 8).map (fun st => (j.dels.filter (fun d => d.1 == st)).map (·.2))
  (List.range n).map (fun i => sumRows (perStack.filterMap (fun l => l[i]?)))

/-- The poison lanes of rows. DEDUCED (log 31). -/
def rowsPoison (rows : List (List KLane)) : Word :=
  rows.foldl (fun w r => w ||| w64 (packBool (r.map (·.poison)))) 0

/-- BEXEC_COMPLETE: every unit has executed EXIT and every STR is performed. -/
def execBexecComplete (c : CoreId) (s : State) : Out :=
  match s.banks.jobs.find? (fun j => j.core == c && j.started && (jobRuns s j).all (·.exited)) with
  | none => .next s
  | some j =>
    match s.gRun c 3 with
    | some o =>
      if j.op != o.id then .next (s.endJob j)
      else if o.owed != 0 then .next s
      else
        let dels := match (s.core c).gs.prog with | some p => p.dels | none => 0
        let rows := jobRows j dels
        let s' := s.modGs c (fun g => { g with
          lastOk := true, lastSet := some o.pages, rows := rows, rowsN := o.fld .g 11 + 1, dels := dels,
          poison := rowsPoison rows, cycles := jobCycles s j, bytes := jobBytes s j })
        .next ((s'.endJob j).gDone c o.id)
    | none => .next (s.endJob j)

/-! Stopping (R268 to R271). -/

/-- The resume record of a job. -/
def resumeOf (s : State) (j : BJob) : BResume :=
  { recs := j.units.map (fun n =>
      let u := s.unit n
      { pw := u.pw, loops := u.loops, wc := u.wc, ac := u.ac, exited := (u.run.map (·.exited)).getD false,
        scaleSeen := (u.run.map (·.scaleSeen)).getD false }),
    dels := j.dels, first := j.first, cycles := jobCycles s j, bytes := jobBytes s j }

/-- BANK_STOP: every unit has stopped at its N-th SAFE or exited before it. A pre-emption keeps the resume record;
otherwise the BEXEC completes STOPPED and its rows are discarded. A job that has not started stops at once. -/
def execBankStop (c : CoreId) (s : State) : Out :=
  match s.banks.jobs.find? (fun j => j.core == c && j.stop.isSome && (jobRuns s j).all (fun r => r.exited || r.stopped)
      && !(j.started && (jobRuns s j).all (·.exited))) with
  | none => .next s
  | some j =>
    match s.gRun c 3 with
    | some o =>
      if j.op != o.id then .next (s.endJob j)
      else if j.keep then
        let r := resumeOf s j
        let s := if j.started then s.modGs c (fun g => { g with resume := some r }) else s
        .next ((s.endJob j).modG c o.id (fun o => { o with no := none }))
      else
        let s' := s.modGs c (fun g => { g.clearLast with resume := none, cycles := jobCycles s j, bytes := jobBytes s j })
        .next ((s'.endJob j).modG c o.id (fun o => { o with fin := true, gstatus := 4 }))
    | none => .next (s.endJob j)

/-- The watchdog of a stop request has expired: BWDOG counts microseconds of 1,050 ticks (R270, R376). -/
def watchdogOver (s : State) (j : BJob) : Bool :=
  match j.stop with | some (_, t) => t.toNat + 1050 * s.base.bwdog.toNat ≤ s.gtc.toNat | none => false

/-- BANK_WATCHDOG: the four units of each channel with a unit that has not stopped lose everything, and the BEXEC
completes PREEMPT_RESET. -/
def execBankWatchdog (c : CoreId) (s : State) : Out :=
  match s.banks.jobs.find? (fun j => j.core == c && j.started && watchdogOver s j
      && (jobRuns s j).any (fun r => !r.exited && !r.stopped)) with
  | none => .next s
  | some j =>
    let late := j.units.filter (fun n => match (s.unit n).run with | some r => !r.exited && !r.stopped | none => false)
    let cyc := jobCycles s j
    let byt := jobBytes s j
    let s := s.endJob j
    let s := late.foldl (fun s n => (List.range 4).foldl (fun s g => s.setUnit (n / 4 * 4 + g) BUnit.reset) s) s
    match s.gRun c 3 with
    | some o =>
      if j.op != o.id then .next s
      else
        let s := s.modGs c (fun g => { g.clearLast with cycles := cyc, bytes := byt })
        .next (s.modG c o.id (fun o => { o with fin := true, status := 0x10A, gstatus := 3 }))
    | none => .next s

/-! BREAD, BSAFE and BSTAT (R262 to R264). -/

/-- The lane a landed place stands for: its word and its poison. Lanes at or above ROWS and poisoned lanes land as
zero. -/
def landedLane (g : GStore) (row : List KLane) (i : Nat) : Word × Bool :=
  match row[i]? with
  | some x => (if x.poison || g.rowsN ≤ i then 0 else x.v, x.poison)
  | none => (0, false)

/-- The first check of BREAD that fails. -/
def breadCause (s : State) (c : CoreId) (o : EOp) : Option Cause :=
  let k := s.core c
  let g := k.gs
  let m := (o.reg 21).toNat
  let base := wbits o.vview 18 0 + 256 * o.fld .g 18
  if !g.lastOk || g.lastSet != some o.pages || g.dels ≤ o.fld .g 19 then some .illOperand
  else if o.fld .g 21 != 0 && m % 8 != 0 then some .misaligned
  else if (o.fld .g 21 != 0 && m + 8 > spadSize k) || base + 256 > regionSize k then some .rangeFault
  else none

/-- DEDUCED (log 31). -/
def State.breadStep (s : State) (c : CoreId) (o : EOp) : State :=
  match breadCause s c o with
  | some x => s.gFailAt c o.id x
  | none =>
    let g := (s.core c).gs
    let row := g.rows.getD (o.fld .g 19) []
    let lanes := (List.range 32).map (fun b => 32 * o.fld .g 20 + b)
    let got := lanes.map (landedLane g row)
    let mask := packBool (got.map (·.2))
    if o.fld .g 21 != 0 && o.prog < 8 then
      let (n, s) := s.engWrite c .g o 1 (o.reg 21) o.prog ((leBytes 8 mask).drop o.prog) noMarks
      s.modG c o.id (fun o => { o with prog := o.prog + n })
    else
      let base := wbits o.vview 18 0 + 256 * o.fld .g 18
      let d := got.flatMap (fun x => leBytes 8 x.1.toNat)
      let s := (s.modCore c (fun k => k.landBytes o.id base d 0)).chargeBytes c .g 256
      let s := if mask != 0 then s.raisePoison c 3 o.tix.toNat 0 (some mask) else s
      let sat := lanes.any (fun i => i < g.rowsN && (match row[i]? with | some x => x.clamp | none => false))
      let s := if sat then s.raiseAccsat c 3 o.tix.toNat 0 else s
      s.gDone c o.id

/-- The four words of BSTAT. DEDUCED (log 31). -/
def bstatBytes (g : GStore) : List Byte :=
  leBytes 8 (g.stLoad + g.stExec * 2 ^ 8 + g.stAct * 2 ^ 16 + g.dels % 8 * 2 ^ 24) ++ leBytes 8 g.poison.toNat
    ++ leBytes 8 g.cycles ++ leBytes 8 g.bytes

def State.bstatStep (s : State) (c : CoreId) (o : EOp) : State :=
  let d := (o.reg 17).toNat
  if d % 8 != 0 then s.gFailAt c o.id .misaligned
  else if d + 32 > spadSize (s.core c) then s.gFailAt c o.id .rangeFault
  else if o.prog < 32 then
    let (n, s) := s.engWrite c .g o 1 (o.reg 17) o.prog ((bstatBytes (s.core c).gs).drop o.prog) noMarks
    s.modG c o.id (fun o => { o with prog := o.prog + n })
  else s.gDone c o.id

/-- Run a step of the operation at the head of G when it is of a kind. -/
def gStep (c : CoreId) (kind : Nat) (s : State) (f : EOp → State) : Out :=
  match s.gRun c kind with
  | some o => .next (f o)
  | none => .next s

def execBload (c : CoreId) (s : State) : Out := gStep c 1 s (fun o => s.bloadStep c o)
def execBact (c : CoreId) (s : State) : Out := gStep c 2 s (fun o => s.bactStep c o)
def execBexec (c : CoreId) (s : State) : Out := gStep c 3 s (fun o => s.bexecStep c o)
def execBread (c : CoreId) (s : State) : Out := gStep c 4 s (fun o => s.breadStep c o)
/-- BSAFE has marked at its GO and completes in its own turn (R263). -/
def execBsafe (c : CoreId) (s : State) : Out := gStep c 5 s (fun o => s.gDone c o.id)
def execBstat (c : CoreId) (s : State) : Out := gStep c 6 s (fun o => s.bstatStep c o)

end Sys2Proof.Machine
end

