-- ==== Sys2Proof/Machine/Kv.lean ====
section
/-! DEFINITION. Key-value operations (R235 to R237), the start of M, C, G and X operations and their completion (R182,
R257), and the reads of views (R274). -/

namespace Sys2Proof.Machine

open Sys2Proof

/-! KVAPPEND (R235). -/

/-- Its width in dims, its position, its source bytes. -/
def EOp.kvD (o : EOp) : Nat := 64 * gDw o.kvgen
def EOp.kvP (o : EOp) : Nat := (o.reg 23).toNat
def EOp.kvEsz (o : EOp) : Nat := if o.fld .g 24 = 0 then 4 else 2
def EOp.kvRot (o : EOp) : Bool := o.fld .g 25 == 1
/-- The object of the segment it writes. -/
def EOp.kvKey (o : EOp) (ctx : Nat) : Nat := objKey ctx (gBase o.kvgen + o.kvP / 64)

/-- The checks of KVAPPEND's start in the order R235 lists them, with the barrier's own (R221). -/
def kvCause (s : State) (c : CoreId) (o : EOp) : Option Cause :=
  let k := s.core c
  let g := o.kvgen
  let p := o.kvP
  let ssp := o.fld .g 7
  let d := s.slot (gSlot g)
  let id := gBase g + p / 64
  let e := s.obj (o.kvKey (coreCtx k))
  if !gV g || (gKv g && o.kvRot) || (ssp ≠ 1 && ssp ≠ 5) then some .illOperand
  else if o.kvRot && (o.reg 26).toNat % 8 ≠ 0 then some .misaligned
  else if p ≥ bucketSize (gBkt g) || p ≥ 2 ^ 20 then some .rangeFault
  else if (o.reg 5).toNat + o.kvD * o.kvEsz > (if ssp = 1 then spadSize k else regionSize k)
      || (o.kvRot && (o.reg 26).toNat + 4 * o.kvD > spadSize k) then some .rangeFault
  else if o.shut || !(d.st == .prompt || ((d.st == .handing || d.st == .gen) && d.hlen ≤ p)) then some .slotState
  else if id = 0 || otLimit s (coreCtx k) ≤ id then some .refTag
  else if e.st = .forwarded then some .permFault
  else if 4224 * gDw g > 512 * e.size then some .rangeFault
  else none

/-- The start of a KVAPPEND: its arrival at the slot table. DEDUCED (log 15). -/
def State.kvStart (s : State) (c : CoreId) (o : EOp) : State :=
  match kvCause s c o with
  | some x => s.setHead c .g (o.gFail x)
  | none =>
    let n := gSlot o.kvgen
    let d := s.slot n
    (s.setSlot n { d with appends := d.appends ++ [(c, o.id)] }).setHead c .g o

/-- One pair of the rotary encoding, on FP32 bits: exact products and sum, rounded once (R67). -/
def rotPair (p f a b : Nat) : Nat × Nat :=
  let ph := phase p f
  let c := fDec fp32 (cosTurn ph)
  let n := fDec fp32 (sinTurn ph)
  let x := fDec fp32 a
  let y := fDec fp32 b
  (fEnc fp32 .rne (exactSum [fMul x c, fNeg (fMul y n)]), fEnc fp32 .rne (exactSum [fMul x n, fMul y c]))

def rotAll (p : Nat) : List Nat → List Nat → List Nat
  | a :: b :: t, f :: fs => let (x, y) := rotPair p f a b; x :: y :: rotAll p t fs
  | l, _ => l

/-- The bytes KVAPPEND writes: the d codes, then the 2·DW scales. -/
def kvEncode (p : Nat) (bf rot : Bool) (src : List Byte) (freq : List Nat) (d : Nat) : List Byte :=
  let x := if bf then (lanesOf 2 d src).map (· * 65536) else lanesOf 4 d src
  let x := if rot then rotAll p x freq else x
  let recs := (List.range (d / 32)).map (fun r => quantRecord (((x.drop (32 * r)).take 32).map (fDec fp32)) 0)
  recs.flatMap (fun r => (r.drop 1).take 32) ++ recs.map (fun r => r.getD 0 0)

/-- The offset in the segment of byte i of those (R230). -/
def kvOffset (g : Word) (p i : Nat) : Nat :=
  let l := p % 64
  let d := 64 * gDw g
  if i < d then (if gKv g then d * l + i else 64 * i + l) else 4096 * gDw g + 64 * (i - d) + l

/-- One step of KVAPPEND: a read of its source, the encoding, one byte through the barrier, or its end. -/
def State.kvStep (s : State) (c : CoreId) (o : EOp) : State :=
  let k := s.core c
  let n := o.kvD * o.kvEsz
  let total := o.kvD + 2 * gDw o.kvgen
  if o.buf.length < n then
    takeRead c .g o.id (s.engRead c .g o (o.fld .g 7) (o.reg 5) o.buf.length (n - o.buf.length))
  else if o.aux = 0 then
    let freq := if o.kvRot then lanesOf 8 (o.kvD / 2) (s.readMem (spadKey s c (o.reg 26).toNat) (4 * o.kvD)) else []
    let s := if o.kvRot then s.ownStamp c .g o.id (o.reg 26).toNat (4 * o.kvD) else s
    s.modG c o.id (fun o => { o with aux := 1, last := kvEncode o.kvP (o.fld .g 24 == 1) o.kvRot o.buf freq o.kvD })
  else if o.prog < total then
    let key := o.kvKey (coreCtx k)
    let b := kvOffset o.kvgen o.kvP o.prog
    if (s.obj key).st = .forwarded then s.gFailAt c o.id .permFault
    else if b ≥ 512 * (s.obj key).size then s.gFailAt c o.id .rangeFault
    else
      let s := s.touched key
      match heapByte s key b with
      | none => s
      | some l =>
        let (m, s) := s.engPut c .g o l 4 2 [o.last.getD o.prog 0] noMarks
        (s.chargeBytes c .g m).modG c o.id (fun o => { o with prog := o.prog + m })
  else
    let z := gSlot o.kvgen
    let d := s.slot z
    (if d.st = .free then s else s.setSlot z { d with len := max d.len (o.kvP + 1) }).gDone c o.id

/-- KVAPPEND: up to n steps. -/
def kvRun (c : CoreId) : Nat → State → State
  | 0, s => s
  | n + 1, s => match s.gRun c 7 with | some o => kvRun c n (s.kvStep c o) | none => s
def execKvappend (c : CoreId) (n : Nat) (s : State) : Out := .next (kvRun c n s)

/-- A KVAPPEND has completed: the slot no longer waits for it, but a hand-over waits for its Vdevice (R237). -/
def State.kvEnded (s : State) (c : CoreId) (o : EOp) : State :=
  let n := gSlot o.kvgen
  let d := s.slot n
  let me := (c, o.id)
  if d.st = .free then s
  else s.setSlot n { d with
    appends := d.appends.filter (· != me), awaited := d.awaited.filter (· != me),
    floor := if d.st == .prompt || d.awaited.contains me then wmax d.floor o.stamps.device else d.floor }

/-! KVHAND (R237). -/

/-- KVHAND arrives at the slot table: the slot is HANDING and waits for the appends that came before. -/
def execKvhand (c : CoreId) (s : State) : Out := gStep c 8 s (fun o =>
  let n := (o.reg 5).toNat
  let d := s.slot n
  if o.prog ≠ 0 then s
  else if n ≥ 1024 || d.ctx ≠ coreCtx (s.core c) || d.st ≠ .prompt then s.gFailAt c o.id .slotState
  else
    let s := s.setSlot n { d with st := .handing, hlen := d.len, awaited := d.appends }
    s.modG c o.id (fun o => { o with prog := 1, cap := [n] }))

/-- An append a hand-over waits for is still in its core's queue. -/
def appendLive (s : State) (a : CoreId × Nat) : Bool := (s.core a.1).gq.any (fun o => o.id == a.2)

/-- KVHAND_GEN: the earlier appends are complete and visible, so the slot is GEN and its KVHAND completes. -/
def execKvhandGen (slot : BitVec 10) (s : State) : Out :=
  let n := slot.toNat
  let d := s.slot n
  if d.st ≠ .handing || d.awaited.any (appendLive s) || s.gtc.toNat < d.floor.toNat then .next s
  else
    let s := s.setSlot n { d with st := .gen, awaited := [] }
    .next (coreIds.foldl (fun s c => match s.gRun c 8 with
      | some o => if o.prog == 1 && o.cap == [n] then s.gDone c o.id else s
      | none => s) s)

/-! Start and completion (R182, R257). -/

/-- The start of a G operation, by its kind. -/
def State.genStart (s : State) (c : CoreId) (o : EOp) : State :=
  match o.kind with
  | 1 =>
    (match pageCause s o.pages with
     | some x => s.setHead c .g (o.gFail x)
     | none =>
       if o.fld .g 7 ≠ 0 || 96 < o.fld .g 8 then s.setHead c .g (o.gFail .illOperand)
       else s.setHead c .g (if (o.reg 5).toNat % 4 ≠ 0 then o.gFail .misaligned else o))
  | 2 =>
    (match pageCause s o.pages with
     | some x => s.setHead c .g (o.gFail x)
     | none =>
       let src := (List.range (66 * (o.fld .g 10 + 1))).map (fun i => engAt s (s.core c) (o.fld .g 7) (o.reg 5) i .r)
       (match firstCause (worstAt src) (causeIf (sealsOf s src).isNone .illOperand) with
        | some x => s.setHead c .g (o.gFail x)
        | none =>
          let seals := (sealsOf s src).getD []
          (s.countSeals seals true).setHead c .g { o with sealAt := seals }))
  | 3 => s.setHead c .g (if o.stop then { o with fin := true, gstatus := 4 } else o)
  | 7 => s.kvStart c o
  | _ => s.setHead c .g o

/-- ENGINE_OPERATION_START (R182). DEDUCED (log 15). -/
def execEngineOperationStart (c : CoreId) (e : Eng) (s : State) : Out :=
  match e with
  | .s => .next s
  | .v => .next (s.vecStart c)
  | e =>
    match s.opReady c e with
    | (s, none) => .next s
    | (s, some o) =>
      .next (match e with | .m => s.matStart c o | .g => s.genStart c o | e => s.copyStart c e o)

/-- What the G store keeps of a G operation that has completed (R264, R276); a BEXEC that BSAFE marked before it started
leaves it as it was. -/
def noteStatus (g : GStore) (o : EOp) : GStore :=
  match o.kind with
  | 1 => { g with stLoad := o.gstatus }
  | 2 => { g with stAct := o.gstatus }
  | 3 => if o.gstatus = 4 && o.aux = 0 then g else { g with stExec := o.gstatus }
  | _ => g

/-- The end of a G operation. -/
def State.afterG (s : State) (c : CoreId) (o : EOp) : State :=
  let s := match o.no with | some n => s.leave n | none => s
  if !o.live then s
  else
    let s := s.modGs c (fun g => noteStatus g o)
    let s := if o.kind = 7 then s.kvEnded c o else s
    if o.gstatus = 3 && !o.cut then s.endFault c else s

/-- Complete the operation at the head of an engine, with what follows for G. An operation of an ended task leaves at its
element boundary (R134). -/
def State.opFinish (s : State) (c : CoreId) (e : Eng) : State :=
  let s' := s.opComplete c e
  match (s.core c).headOp e with
  | some o =>
    if o.cut && !o.fin && opAtRest e o && s.banks.jobs.all (fun j => j.core != c || j.op != o.id) then s.dropOp c e o
    else if e == .g && !((s'.core c).gq.any (fun x => x.id == o.id)) then s'.afterG c o else s'
  | none => s'

/-- ENGINE_OPERATION_COMPLETE (R182). -/
def execEngineOperationComplete (c : CoreId) (e : Eng) (s : State) : Out := .next (s.opFinish c e)

/-! Reads of views (R274). -/

/-- VIEW_READ: the layout engine reads the next plane word of the view read i, or answers it when it has them all. -/
def execViewRead (i : Nat) (s : State) : Out :=
  match s.homeQ[i]? with
  | none => .next s
  | some a =>
    match s.now a.loc with
    | .ia ia =>
      if !isViewLoad s a || !mayServe s i || homeAt s ia != .own then .next s
      else match pageKeys s ia a.len false with
        | .view l n cl =>
          let got : PlaneGot := { bytes := a.plane, w := a.planeW, poison := a.planeP }
          (match nextPlane s (whoOf a) l n cl got with
           | .ready => .next (s.readHome i a (.done s (l.map (viewFrom a.plane)) a.planeW a.planeP) (fun t d w p => t.loaded a d w p))
           | .wait s => .next s
           | .more s g => .next (s.setEntry i { a with plane := g.bytes, planeW := g.w, planeP := g.poison }))
        | .fault => .next (s.faulted i a true)
        | .mig => .next (s.faulted i a false)
        | _ => .next s
    | _ => .next s

end Sys2Proof.Machine
end

