-- ==== Sys2Proof/Machine/Save.lean ====
section
/-! DEFINITION. The saved context (R293, R294): where a save frame's bytes lie, what a pre-emption writes there, and
what a resume loads from it. -/

namespace Sys2Proof.Machine

open Sys2Proof

/-! Save frames. -/

def frameLen : Nat := 2 ^ 21
def saveFrameIa (s : State) (ctx n : Nat) : Nat := (s.ctxs[ctx]?.getD Ctx.reset).frameBase.toNat + frameLen * n

/-- Pages of 64 KiB of a frame. -/
def frameChunks (ia : Nat) : List Nat := (List.range 32).map (fun i => ia + 65536 * i)
/-- A page whose bytes the scheduler can reach: mapped, neither compute-capable nor a view, not migrating. -/
def chunkPlain (s : State) (ia : Nat) : Bool :=
  homeAt s ia == .own &&
    (match pageKeys s ia 1 true with | .keys _ cc => !cc | _ => false)
/-- A save frame that can be written: its pages are plain, and neither the peer nor the host holds a grain of it. DEDUCED (log 33). -/
def frameReady (s : State) (ia : Nat) : Bool :=
  (frameChunks ia).all (chunkPlain s) && s.bridge.dir.all (fun e => e.1 + grSize e.2.gr ≤ ia || ia + frameLen ≤ e.1)
/-- The lowest free save frame of a context. -/
def freeFrame (s : State) (ctx : Nat) : Option Nat :=
  (List.range (s.ctxs[ctx]?.getD Ctx.reset).frameCount).find? (fun n =>
    s.sched.saved.all (fun v => v.it.ctx != ctx || v.frame != n) && frameReady s (saveFrameIa s ctx n))

/-- The place of a byte of a frame. -/
def frameByteKey (s : State) (ia off : Nat) : Nat :=
  match pageKeys s (ia + off) 1 false with | .keys (k :: _) _ => k | _ => 0
/-- The frame offset of a place, none when it lies outside the frame. -/
def offInFrame (s : State) (ia key : Nat) : Option Nat :=
  (List.range 32).findSome? (fun i => match leafOf s (ia + 65536 * i) with
    | some (n, l) =>
      let o := ia % 2 ^ 48 + 65536 * i - n * 65536
      if lTier l = 0 then
        let a := lAddr l % 2 ^ 21 + o
        if key < 2 ^ 46 && key / 2 ^ 21 == lAddr l / 2 ^ 21 && a ≤ plainOff key && plainOff key < a + 65536 then
          some (65536 * i + (plainOff key - a)) else none
      else
        let a := hostBase + (lAddr l + o) % 2 ^ 48
        if a ≤ key && key < a + 65536 then some (65536 * i + (key - a)) else none
    | none => none)

/-- The first place of an erased 64 KiB frame. -/
def erasedKey (n : Nat) : Nat := frameKey (n / 32 * 2 ^ 21 + n % 32 * 65536) 0 none

/-- Clear a frame: every byte reads zero, whole and unpoisoned, and no core holds a copy of it. -/
def State.clearFrame (s : State) (ia : Nat) : State :=
  let out (key : Nat) : Bool := (offInFrame s ia key).isNone
  { s with
    mem := s.mem.filter (fun e => out e.1),
    poison := s.poison.filter (fun n => out (64 * n)),
    xlat := { s.xlat with rewritten := s.xlat.rewritten.filter out,
                          erased := s.xlat.erased.filter (fun e => out (erasedKey e.1)) },
    cores := s.cores.map (fun k => { k with copies := dropCopies k.copies ia frameLen }) }

/-- Write bytes of a frame. -/
def State.putFrame (s : State) (ia : Nat) (cells : List (Nat × Byte)) : State :=
  cells.foldl (fun s e => s.putRow (frameByteKey s ia e.1) e.2) s

/-- Bytes lo to lo + n − 1 of a frame that are not zero, by offset from lo. -/
def frameCells (s : State) (ia lo n : Nat) : List (Nat × Byte) :=
  let touched := s.poison.any (fun p => (offInFrame s ia (64 * p)).isSome)
    || s.xlat.erased.any (fun e => (offInFrame s ia (erasedKey e.1)).isSome) || s.xlat.wiped.isSome
  let all := if touched then (List.range n).map (fun i => (i, homeByte s (frameByteKey s ia (lo + i))))
    else s.mem.filterMap (fun e => match offInFrame s ia e.1 with
      | some o => if lo ≤ o && o < lo + n then some (o - lo, e.2) else none
      | none => none)
  all.filter (fun e => e.2 != 0)

/-! The layout (R293). -/

/-- The configuration registers of the frame by number and word. -/
def frameRegs : List (Nat × Nat) :=
  let one (l : List Nat) : List (Nat × Nat) := l.map (fun n => (n, 0))
  one [0x000, 0x010, 0x011, 0x012, 0x020] ++ one ((List.range 16).map (0x030 + ·)) ++ one ((List.range 4).map (0x040 + ·))
    ++ one [0x050, 0x060, 0x061] ++ (List.range 8).flatMap (fun i => [(0x080 + i, 0), (0x080 + i, 1)])
    ++ one [0x090, 0x091, 0x092, 0x093, 0x0A0, 0x0B0, 0x0C0]
    ++ (List.range 8).flatMap (fun i => (List.range 4).map (fun w => (0x100 + i, w)))
    ++ one ((List.range 8).map (0x110 + ·))

/-- Set a register to the value a frame holds. -/
def regLoad (k : Core) (n word : Nat) (v : Word) : Core :=
  match n with
  | 0x010 => { k with pbreg := v }
  | 0x011 => { k with pbsp := v }
  | 0x012 => { k with pbcache := v }
  | 0x050 => { k with tqcfg := v }
  | 0x0A0 => { k with status := v }
  | 0x0B0 => { k with lseed := v }
  | _ => cfgApply k n word v

/-- The words of consecutive registers. -/
def wordBytes (l : List Word) : List Byte := l.flatMap (fun v => leBytes 8 v.toNat)

/-- The progress record of an engine (R187). -/
def progressRec (k : Core) (e : Eng) : List Word :=
  match k.headOp e with
  | some o =>
    if (o.started || (e == .m && o.popped)) && !o.fin then
      let kind := if o.chain.isSome then 10 else o.kind
      [w64 (2 ^ 63 + kind * 2 ^ 56 + o.tix.toNat * 2 ^ 50 + (o.progress e).1 % 2 ^ 48), w64 (o.progress e).2]
    else [0, 0]
  | none => [0, 0]

/-- The parts of a frame outside the pool: offset and bytes. -/
def frameParts (s : State) (c : CoreId) (pc : Word) (atYield : Bool) : List (Nat × List Byte) :=
  let k := s.core c
  let mode := (if k.handler then 1 else 0) + (if atYield then 2 else 0)
  [(0x0, wordBytes k.s.toList), (0x200, k.p.toList.flatMap (fun p => leBytes 32 p.toNat)), (0x400, wordBytes k.h.toList),
   (0x480, leBytes 8 pc.toNat), (0x488, leBytes 8 mode),
   (0x490, wordBytes ([0, 1, 2, 3, 5, 6].map (hznValue s c))),
   (0x4C0, (k.tok.toList.drop 1).map (BitVec.ofNat 8)), (0x4C8, leBytes 8 k.lantern.toNat),
   (0x500, wordBytes (frameRegs.map (fun r => (cfgRead s k c r.1 r.2).getD 0))), (0x7E0, leBytes 8 k.phentry.toNat),
   (0x800, k.slots.toList.flatMap (fun x => leBytes 32 x.bits.toNat ++ leBytes 8 ((if x.isOpen then 64 else 0) + x.tix.toNat))),
   (0x4000, if atYield then [] else wordBytes ([Eng.m, .c, .g, .x].flatMap (progressRec k)))]
  ++ k.tmpl.map (fun t => (0x1000 + 32 * t.1, leBytes 32 t.2.toNat))

/-- The memory of a core, by frame offset: register region, scratchpad, working bank (R293). -/
def poolCells (s : State) (c : CoreId) : List (Nat × Byte) :=
  let k := s.core c
  let at_ (base n dst : Nat) : List (Nat × Byte) :=
    (s.mem.filter (fun e => base ≤ e.1 && e.1 < base + n)).map (fun e => (dst + (e.1 - base), e.2))
  at_ (regionKey c 0) (regionSize k) 0x20000 ++ at_ (spadKey s c 0) (k.pbsp.toNat * 16384) 0xA0000
    ++ at_ (wbankKey c 0) 65536 0x1B0000
/-- The full words of a core's scratchpad, from its first. -/
def fullWords (s : State) (c : CoreId) : List Nat :=
  let b := spadKey s c 0 / 8
  (s.full.filter (fun n => b ≤ n && n < b + (s.core c).pbsp.toNat * 2048)).map (· - b)
/-- The bytes of the full/empty area. -/
def fullCells (l : List Nat) : List (Nat × Byte) :=
  l.foldl (fun t n =>
    let o := 0x1A0000 + n / 8
    tabSet t o (((tabGet t o).getD 0) ||| BitVec.ofNat 8 (2 ^ (n % 8)))) []

/-- Bytes of the engine area, which has no layout: free values. DEDUCED (log 33). -/
def engineArea (s : State) (ia : Nat) : List (Nat × Byte) :=
  (List.range 0x1BFC0).map (fun i => (0x4040 + i, Config.erasedByte (ia + 0x4040 + i) (2 * s.free + 1)))

/-- Write a core's context into a frame. -/
def State.saveFrame (s : State) (c : CoreId) (ia : Nat) (pc : Word) (atYield : Bool) : State :=
  let cells := (frameParts s c pc atYield).flatMap (fun x =>
    ((List.range x.2.length).zip x.2).map (fun e => (x.1 + e.1, e.2))) ++ poolCells s c ++ fullCells (fullWords s c)
  let extra := if atYield then [] else engineArea s ia
  let s := s.clearFrame ia
  let s := if s.xlat.wiped.isSome then s.putFrame ia ((List.range frameLen).map (fun i => (i, 0))) else s
  let s := s.putFrame ia (cells ++ extra)
  { s with free := s.free + 1 }

/-! Loading a frame. -/

/-- Clear a core's pool and working bank. -/
def State.clearPool (s : State) (c : CoreId) : State :=
  let b := poolBase + c.toNat * 2 ^ 21
  { s with mem := memClear s.mem b (b + 2 ^ 21), full := s.full.filter (fun n => 8 * n < b || b + 2 ^ 21 ≤ 8 * n) }
def State.clearBank (s : State) (c : CoreId) : State :=
  { s with mem := memClear s.mem (wbankKey c 0) (wbankKey c 65536) }

/-- n bytes of a frame. -/
def frameRead (s : State) (ia off n : Nat) : List Byte :=
  (List.range n).map (fun i => homeByte s (frameByteKey s ia (off + i)))
def frameWord (s : State) (ia off : Nat) : Word := w64 (leNat (frameRead s ia off 8))

/-- The registers a frame gives a core. -/
def loadRegs (s : State) (ia : Nat) (k : Core) : Core :=
  let hz (i : Nat) : Word := frameWord s ia (0x490 + 8 * i) &&& 0x7FFFFFFFFFFFFFFF#64
  let k := { k with
    s := Vector.ofFn (fun i => frameWord s ia (8 * i.val)),
    p := Vector.ofFn (fun i => BitVec.ofNat 256 (leNat (frameRead s ia (0x200 + 32 * i.val) 32))),
    h := Vector.ofFn (fun i => frameWord s ia (0x400 + 8 * i.val)),
    pc := frameWord s ia 0x480, handler := (frameWord s ia 0x488).getLsbD 0,
    hz := { core := wmax (hz 0) k.hz.core, cluster := wmax (hz 1) k.hz.cluster, device := wmax (hz 2) k.hz.device,
            system := wmax (hz 3) k.hz.system, uo := wmax (hz 4) k.hz.uo },
    obs := wmax (hz 5) k.obs,
    tok := Vector.ofFn (fun i => if i.val = 0 then 0 else (homeByte s (frameByteKey s ia (0x4BF + i.val))).toNat),
    lantern := (frameWord s ia 0x4C8).truncate 16, phentry := frameWord s ia 0x7E0,
    slots := Vector.ofFn (fun i =>
      let w := frameWord s ia (0x800 + 40 * i.val + 32)
      { isOpen := w.getLsbD 6, tix := w.truncate 6,
        bits := BitVec.ofNat 256 (leNat (frameRead s ia (0x800 + 40 * i.val) 32)) }),
    tmpl := ((List.range 320).map (fun i => (i, BitVec.ofNat 256 (leNat (frameRead s ia (0x1000 + 32 * i) 32))))).filter
      (fun (e : Nat × BitVec 256) => e.2 != 0) }
  ((List.range frameRegs.length).zip frameRegs).foldl (fun k x => regLoad k x.2.1 x.2.2 (frameWord s ia (0x500 + 8 * x.1))) k

/-- The pool and the working bank a frame gives a core, whose sizes are already set. -/
def State.loadPool (s : State) (c : CoreId) (ia : Nat) : State :=
  let k := s.core c
  let put (s : State) (key : Nat) (l : List (Nat × Byte)) : State :=
    { s with mem := l.foldl (fun m e => memSet m (key + e.1) e.2) s.mem }
  let full := (frameCells s ia 0x1A0000 16384).flatMap (fun e =>
    ((List.range 8).filter (fun b => e.2.getLsbD b)).map (fun b => 8 * e.1 + b))
  let s' := (s.clearPool c).clearBank c
  let s' := put s' (regionKey c 0) (frameCells s ia 0x20000 (regionSize k))
  let s' := put s' (spadKey s c 0) (frameCells s ia 0xA0000 (k.pbsp.toNat * 16384))
  let s' := put s' (wbankKey c 0) (frameCells s ia 0x1B0000 65536)
  { s' with full := (full.filter (· < k.pbsp.toNat * 2048)).foldl (fun f n => setAdd f (spadKey s c 0 / 8 + n)) s'.full }

/-! Taking a core and giving it back. -/

/-- What stays with a core while another iteration runs on it: its own memory unit, its ids and requests (R89). DEDUCED (log 33). -/
def Core.keepUnit (k own : Core) : Core :=
  { k with lid := own.lid, pend := own.pend, groups := own.groups, stamps := own.stamps ++ k.stamps, sidelog := own.sidelog,
           seq := max k.seq own.seq, copies := [], wcache := [], icache := [], landing := [], busyS := [],
           soFloor := wmax k.soFloor own.soFloor, xfloor := wmax k.xfloor own.xfloor,
           held := 0, took := 0, scRev := (match k.scRev, own.scRev with | some a, some b => some (max a b) | none, x => x | x, none => x),
           fenced := own.fenced, preReq := own.preReq, migReq := own.migReq, lastCtx := own.lastCtx, wait := none }

/-- A core without an iteration after one was saved. -/
def Core.vacate (k : Core) (ctx : Nat) : Core :=
  { k with iter := none, handler := false, preReq := none, lastCtx := some ctx, stamps := [], vq := [], mq := [], cq := [], gq := [],
           xq := [], wait := none, busyS := [], deferred := [], tok := Vector.replicate 8 0,
           rsv := Vector.replicate 8 0, held := 0, took := 0, slots := Vector.replicate 10 Slot.reset, gs := GStore.reset,
           lastCopy := none }

/-- What a core holds for a context it saves: the stamps still to return come with it, those of its side-log entries too
(R89); a matrix command asks for the array again (R292), and a BEXEC without a job for a number (R257). DEDUCED (log 33). -/
def savedCore (s : State) (c : CoreId) (pc : Word) : Core :=
  let k := s.core c
  let side := (ownSide s c).filter (fun a => engRank a.eng < 2)
  { k with
    pc := pc, wait := none
    stamps := k.stamps ++ side.map (fun a => { core := c, seq := a.seq, cls := a.cls, sc := a.sc, stamps := none })
    mq := k.mq.map (fun o => if o.started && !o.fin then { o with started := false, popped := true } else o)
    gq := k.gq.map (fun o => { o with no := none }) }

/-- Save the iteration of a core into a free frame (R289, R293): it waits, to resume where it left. DEDUCED (log 33). -/
def State.saveIter (s : State) (c : CoreId) (frame : Nat) (pc : Word) (atYield : Bool) : State :=
  let k := s.core c
  match k.iter with
  | none => s
  | some it =>
    let s := s.charge it.sib (2 * (s.gtc.toNat - it.since.toNat)) 0 0
    let v : Saved := { it := it, lid := k.lid.toNat, frame := frame, core := savedCore s c pc }
    let s := { s with banks := { s.banks with enrolled := s.banks.enrolled.filter (fun a => a.2.1 != c) } }
    let s := s.saveFrame c (saveFrameIa s it.ctx frame) pc atYield
    let s := s.setCore c (k.vacate it.ctx)
    let s := match s.node it.node with
      | some x => s.setNode it.node (some { x with running := x.running - 1 })
      | none => s
    { s with sched := { s.sched with saved := s.sched.saved ++ [v] } }

/-- Resume a saved iteration on a core (R294). DEDUCED (log 33). -/
def State.loadIter (s : State) (c : CoreId) (v : Saved) : State :=
  let own := s.core c
  let ia := saveFrameIa s v.it.ctx v.frame
  let it := { v.it with since := s.gtc, disp := s.sched.dispNo }
  let k := { ((loadRegs s ia v.core).keepUnit own) with iter := some it }
  let s := (s.setCore c k).loadPool c ia
  let s := match s.node it.node with
    | some x => s.setNode it.node (some { x with running := x.running + 1, clock := s.gtc })
    | none => s
  { s with sched := { s.sched with saved := s.sched.saved.filter (fun x => x != v), dispNo := s.sched.dispNo + 1 } }

end Sys2Proof.Machine
end

