-- ==== Sys2Proof/Machine/Task.lean ====
section
/-! DEFINITION. What a task asks of the scheduler: END, YIELD, SPAWN, KILL and BALLOT (R133, R147 to R150, R291, R295
to R298). -/

namespace Sys2Proof.Machine

open Sys2Proof

/-- The device still owes the core nothing but stamps: every operation has completed and every result has landed. -/
def settled (k : Core) : Bool := drained k && k.landing.isEmpty && k.groups.isEmpty

/-- A deferred trap waits for the boundary (R185). -/
def trapWaits (k : Core) : Bool := match k.deferred with | d :: _ => !k.handler || d.page | [] => false

/-! END (R147). -/

/-- The lease and the tokens go, the staging slots are discarded, and the iteration retires. -/
def State.endTask (s : State) (c : CoreId) : State :=
  ((s.dropLease c).modCore c (fun k => { k with
    tok := Vector.replicate 8 0, rsv := Vector.replicate 8 0, slots := Vector.replicate 10 Slot.reset })).retire c .done

/-- END: it traps with a phase active (R137), waits for every operation, lets a deferred trap come first, fences at .full, and retires the iteration. -/
def execEndIter (w : Fields) (s : State) : Out := sRun s w (fun s c =>
  let k := s.core c
  if isCancelled k then .hold (s.abandon c)
  else if phActive k.phstate then .trapFree .illOperand
  else if !settled k || trapWaits k then .hold s
  else match afterFence s c (some 4) (fun s => .done s k.npc) with
    | .done s _ => .hold (s.endTask c)
    | r => r)

/-! YIELD (R148, R295). -/

/-- The sensor reading of a core: the higher diode, in sixteenths of a degree (R389). -/
def readingOf (s : State) (c : CoreId) : Nat := (s.fleet.cores[c.toNat]?.getD FleetCore.reset).hi
def moveBusy (s : State) (c : CoreId) : Bool := s.sched.moves.any (fun m => m.src == c || m.dst == c)
/-- A core of a cluster that a mask admits, not fenced, without a migration request or a move (R287, R295). -/
def isEligible (s : State) (x : Node) (c : CoreId) : Bool :=
  let k := s.core c
  x.cmask.getLsbD (clusterOf c) && !k.fenced && !k.migReq && !moveBusy s c
/-- A core with no iteration and nothing of one under way. -/
def isFree (s : State) (c : CoreId) : Bool := let k := s.core c; k.iter.isNone && drained k && k.landing.isEmpty

/-- The target of a migration: the lowest reading below the threshold, then the lowest physical id (R295). -/
def moveTarget (s : State) (x : Node) : Option CoreId :=
  (coreIds.filter (fun c => isEligible s x c && isFree s c && readingOf s c < 16 * s.fleet.mig)).foldl
    (fun (r : Option CoreId) c => match r with
      | some b => if readingOf s c < readingOf s b then some c else some b
      | none => some c) none

/-- Nothing of the core is on its way. -/
def quiet (s : State) (c : CoreId) : Bool :=
  let k := s.core c
  settled k && k.pend.isEmpty && k.stamps.isEmpty && k.sidelog.isEmpty && s.homeQ.all (fun a => a.core != c)

/-- Where a core's yield saves: a free frame of its context, when a pre-emption is asked for (R289). -/
def yieldFrame (s : State) (k : Core) : Option Nat :=
  match k.preReq, k.iter with
  | some _, some it => freeFrame s it.ctx
  | _, _ => none

/-- The engine state that a context saved at YIELD does not hold (R148, R293). DEDUCED (log 33). -/
def Core.dropEngines (k : Core) : Core :=
  { k with gs := GStore.reset, phsnap := Vector.replicate 2 none }

def execYield (w : Fields) (s : State) : Out := sRun s w (fun s c =>
  let k := s.core c
  if !settled k then .hold s
  else if isCancelled k then .hold (s.abandon c)
  else
    let t := (s.modCore c (fun k => k.finish w k.npc true)).dropLease c
    match yieldFrame s k, k.iter with
    | some f, _ => .hold ((t.modCore c Core.dropEngines).saveIter c f k.npc true)
    | none, some it =>
      if !k.migReq then .done s k.npc
      else match (s.node it.node).bind (moveTarget s) with
        | none => .done s k.npc
        | some b =>
          if !quiet s c then .hold s
          else
            let s := t.modCore c (fun k => { k.dropEngines with wait := some .moving })
            .hold { s with sched := { s.sched with moves := s.sched.moves ++ [{ src := c, dst := b }] } }
    | none, none => .done s k.npc)

/-! SPAWN and KILL (R149, R150, R291). -/

/-- The scheduler takes a SPAWN: its result, and the counter. -/
def State.spawnNode (s : State) (ctx n : Nat) : Nat × State :=
  match s.node n with
  | none => (1, s)
  | some x =>
    if x.ctx ≠ ctx then (1, s)
    else if x.counter = 0 then (2, s)
    else
      let x := { x with counter := x.counter - 1 }
      (0, (if x.counter = 0 then s.makeReady n x else s.setNode n (some x)).settleSched)

def execSpawn (w : Fields) (s : State) : Out := sRun s w (fun s c =>
  let k := s.core c
  let v := k.rs w.a
  if isCancelled k then .hold (s.abandon c)
  else if wbits v 63 12 ≠ 0 then .trap .illOperand v
  else afterFence s c (some 2) (fun s =>
    let r := s.spawnNode (coreCtx k) v.toNat
    .done (r.2.modCore c (fun k => k.ws w.d (w64 r.1))) k.npc))

/-- KILL of a node. -/
def State.killNode (s : State) (ctx n : Nat) : Nat × State :=
  let x := s.ctxs[ctx]?.getD Ctx.reset
  if n < x.first || x.first + x.count ≤ n then (1, s)
  else match s.node n with
    | none => (2, s)
    | some y =>
      let s := s.setNode n (some { y with stopped := true, outcome := y.outcome ||| 2 })
      let s := s.discardSaved (fun v => v.it.node == n)
      let s := { s with cores := s.cores.map (fun (k : Core) => match k.iter with
        | some i => if i.node == n then { k with iter := some { i with cancelled := true } } else k
        | none => k) }
      (0, s.settleSched)

/-- KILL of a sibling group: a closed ballot's members have all finished (R298, R301). -/
def State.killGroup (s : State) (ctx g : Nat) : Nat × State :=
  match s.ballot g with
  | none => (1, s)
  | some b =>
    let full := 2 ^ b.size - 1
    if b.ctx ≠ ctx then (1, s)
    else if b.closed then (2, s)
    else
      let s := s.closeBallot g b b.leader false
      match s.ballot g with
      | some b => (0, ((s.setBallot g (some { b with cancelled := full })).cancelSibs g full).settleSched)
      | none => (0, s)

def execKill (w : Fields) (s : State) : Out := sRun s w (fun s c =>
  let k := s.core c
  let v := k.rs w.a
  if (if w.f = 1 then wbits v 63 6 else wbits v 63 12) ≠ 0 then .trap .illOperand v
  else
    let r := if w.f = 1 then s.killGroup (coreCtx k) v.toNat else s.killNode (coreCtx k) v.toNat
    .done (r.2.modCore c (fun k => k.ws w.d (w64 r.1))) k.npc)

/-! BALLOT (R133, R298). -/

/-- Sibling i of a group posts a hash: the status, and the table. DEDUCED (log 46). -/
def State.postHash (s : State) (g i : Nat) (h : Word) : Nat × State :=
  match s.ballot g with
  | none => (3, s)
  | some b =>
    if b.closed then (2, s.setBallot g (some { b with late := min (2 ^ 64 - 1) (b.late + 1) }))
    else if b.posted.testBit i then (4, s)
    else
      let b := { b with posted := b.posted ||| 2 ^ i, fin := b.fin ||| 2 ^ i,
                        hash := setNth b.hash i h, pgtc := setNth b.pgtc i s.gtc }
      if b.quorum ≤ b.count h then (1, (s.closeBallot g b (some (b.firstOf h)) true).settleSched)
      else if b.fin % 2 ^ b.size = 2 ^ b.size - 1 then (0, (s.closeBallot g b b.leader false).settleSched)
      else (0, s.setBallot g (some b))

def execBallot (w : Fields) (s : State) : Out := sRun s w (fun s c =>
  let k := s.core c
  afterFence s c (some 2) (fun s =>
    let r := match k.iter.bind (·.sib) with
      | some (g, i) => s.postHash g i (k.rs w.a)
      | none => (3, s)
    .done (r.2.modCore c (fun k => k.ws w.d (w64 r.1))) k.npc))

/-! The slot of a cancelled sibling (R299). -/

def hasTag (t : Nat × Nat) (x : Option (Nat × Nat)) : Bool := x == some t
/-- The KVAPPENDs of a slot that have not started, in one queue: each will end with ENGINE_FAULT (R240). -/
def shutAppends (n : Nat) (q : List EOp) : List EOp :=
  q.map (fun o => if o.kind == 7 && !o.started && wbits o.kvgen 59 50 == n then { o with shut := true } else o)
/-- Those of every task of a context, whether it runs or is saved. -/
def State.shutSlot (s : State) (ctx n : Nat) : State :=
  { s with
    cores := s.cores.map (fun (k : Core) => if k.iter.any (·.ctx == ctx) then { k with gq := shutAppends n k.gq } else k)
    sched := { s.sched with saved := s.sched.saved.map (fun (v : Saved) =>
      if v.it.ctx == ctx then { v with core := { v.core with gq := shutAppends n v.core.gq } } else v) } }

/-- Release a slot's arena (R240): a forwarder is cleared and its target loses a reference, an owned segment loses its own,
and the appends still queued fail. Untouched segments of the slot go with its descriptor. -/
def State.releaseSlot (s : State) (n : Nat) : State :=
  let d := s.slot n
  let lo := objKey d.ctx d.idbase
  let mine := (s.heap.objs.filter (fun e => lo ≤ e.1 && e.1 < lo + d.segs)).map (·.1)
  let s := (s.setSlot n SlotDesc.free).shutSlot d.ctx n
  mine.foldl (fun s key =>
    let o := s.obj key
    if o.st = .forwarded then (s.clearObj key).unref (objKey d.ctx o.target) else s.unref key) s

/-- The sibling's last iteration has retired and its BEXECs have completed. -/
def sibGone (s : State) (t : Nat × Nat) : Bool :=
  s.cores.all (fun k => match k.iter with | some i => !hasTag t i.sib | none => true)
    && s.sched.saved.all (fun v => !hasTag t v.it.sib) && s.banks.jobs.all (fun j => !hasTag t j.sib)

/-- Release the slot of a sibling, where its context still has it open. -/
def State.freeSibling (s : State) (o : SibOwed) : State :=
  let d := s.slot o.slot
  if d.st ≠ .free && d.ctx = o.ctx then s.releaseSlot o.slot else s
/-- The slot of a cancelled sibling whose release is still owed: by a group that was freed (R361), or by a registered one. -/
def sibOwed (s : State) (grp idx : Nat) : Option SibOwed :=
  match s.sched.owed.find? (fun o => o.grp == grp && o.idx == idx) with
  | some o => some o
  | none => (s.ballot grp).bind (fun b =>
    if b.cancelled.testBit idx && !b.released.testBit idx then
      some { grp := grp, idx := idx, ctx := b.ctx, slot := b.slots.getD idx 0 } else none)
/-- It is no longer owed. -/
def State.clearOwed (s : State) (o : SibOwed) : State :=
  if s.sched.owed.contains o then { s with sched := { s.sched with owed := s.sched.owed.filter (· != o) } }
  else match s.ballot o.grp with
    | some b => s.setBallot o.grp (some { b with released := b.released ||| 2 ^ o.idx })
    | none => s

/-- SIBLING_RELEASE: the scheduler releases a cancelled sibling's slot (R299, R302). -/
def execSiblingRelease (grp : BitVec 6) (idx : BitVec 4) (s : State) : Out :=
  match sibOwed s grp.toNat idx.toNat with
  | none => .next s
  | some o =>
    if !sibGone s (o.grp, o.idx) || (s.slot o.slot).st = .handing then .next s
    else .next ((s.freeSibling o).clearOwed o)

end Sys2Proof.Machine
end

