-- ==== Sys2Proof/Machine/Sched.lean ====
section
/-! DEFINITION. The scheduler's own steps: dispatch, aging, pre-emption, resume and the end of a migration (R285 to R295,
R38). -/

namespace Sys2Proof.Machine

open Sys2Proof

/-! Waiting iterations (R287, R288). -/

/-- The logical ids in the order a node tries them. -/
def lidsAfter (l : Nat) : List Nat := (List.range 64).map (fun i => (l + 1 + i) % 64)
/-- A node has an iteration that no core has run. -/
def hasNew (x : Node) : Bool := x.ready.isSome && !x.stopped && x.nextOrd < x.total
def savedOf (s : State) (n : Nat) : List Saved := s.sched.saved.filter (fun v => v.it.node == n)
def isWaiting (s : State) (n : Nat) (x : Node) : Bool := hasNew x || !(savedOf s n).isEmpty

/-- A core on which a saved iteration can resume: the one that answers to the logical id it left (R289). -/
def canResume (s : State) (v : Saved) (c : CoreId) : Bool :=
  (s.core c).lid.toNat == v.lid && isFree s c
    && (match s.node v.it.node with | some x => isEligible s x c | none => false)
/-- The core the next new iteration of a node goes to. -/
def placeOf (s : State) (x : Node) : Option CoreId :=
  ((lidsAfter x.served).map s.byLid).find? (fun c => isEligible s x c && isFree s c)

/-- The nodes with waiting iterations of an effective priority, in the order they became ready. -/
def nodesAt (s : State) (ep : Nat) : List (Nat × Node) :=
  (s.sched.nodes.filter (fun e => e.2.ep == ep && isWaiting s e.1 e.2)).foldl (fun l e =>
    l.filter (fun (y : Nat × Node) => y.2.ready.getD 0 < e.2.ready.getD 0) ++ [e]
      ++ l.filter (fun (y : Nat × Node) => e.2.ready.getD 0 ≤ y.2.ready.getD 0)) []

/-- What the scheduler serves next: a saved iteration on a core, or a node's new one on a core. -/
inductive Pick where
  | saved (v : Saved) (c : CoreId)
  | fresh (n : Nat) (c : CoreId)
  deriving DecidableEq, Repr

/-- The pick inside one effective priority: saved iterations first (R288). -/
def pickAt (s : State) (ep : Nat) : Option Pick :=
  let ns := nodesAt s ep
  let fromSaved := (ns.flatMap (fun e => savedOf s e.1)).findSome? (fun v =>
    (coreIds.find? (canResume s v)).map (Pick.saved v))
  match fromSaved with
  | some p => some p
  | none => ns.findSome? (fun e => if hasNew e.2 then (placeOf s e.2).map (Pick.fresh e.1) else none)

def nextPick (s : State) : Option Pick := [3, 2, 1, 0].findSome? (pickAt s)

/-! Dispatch (R38, R286, R287). -/

/-- The state of R38 for iteration ord of a node. -/
def firstState (k : Core) (x : Node) (id ord : Nat) : Core :=
  let ix := walkIdx x.n (permOf x.ord) ord
  let i (d : Nat) : Word := w64 (((ix.find? (fun (e : Nat × Nat) => e.1 == d)).map (fun (e : Nat × Nat) => e.2)).getD 0)
  let regs := (((((((((Vector.replicate 64 (0 : Word)).set 1 (i 0)).set 2 (i 1)).set 3 (i 2)).set 4 (i 3)).set 5
    (w64 ord)).set 6 (w64 x.ctx)).set 7 (w64 id)).set 8 (if x.join then x.status else 0)).set 9
    (if x.sib.isSome then w64 x.slot else BitVec.allOnes 64)
  { k with
    s := regs.set 62 (w64 (x.pbsp * 16384)), p := (Vector.replicate 16 (0 : Pred)).set 0 (predOf true),
    h := Vector.replicate 16 0, pc := w64 x.entry, handler := false,
    taskid := w64 (x.ctx * 2 ^ 44 + id * 2 ^ 32 + ord % 2 ^ 32), vview := 0, tview := Vector.replicate 16 0,
    aview := Vector.replicate 4 0, tqcfg := x.tqcfg, ae := 0, fmode := 0,
    win := Vector.ofFn (fun n => x.wins.getD n.val (0, 0)), tvec := x.tvec, tcause := 0, tepc := 0, tval := 0,
    status := 0, lseed := 0, lantern := 0xACE1, phstate := 0, phentry := 0, phsnap := Vector.replicate 2 none,
    range := Vector.ofFn (fun n => x.ranges.getD n.val Range.reset), kvgen := Vector.replicate 8 0,
    tok := Vector.replicate 8 0, rsv := Vector.replicate 8 0, wcache := [], icache := [], vq := [], mq := [], cq := [],
    gq := [], xq := [], gs := GStore.reset, tmpl := x.tmpl, slots := Vector.replicate 10 Slot.reset, mfail := 0,
    lastCopy := none, deferred := [], wait := none, busyS := [] }

/-- Zero the whole register region and scratchpad of a core, every word empty (R20). -/
def State.freshPool (s : State) (c : CoreId) (x : Node) : State :=
  let k := s.core c
  let same := k.pbreg.toNat == x.pbreg && k.pbsp.toNat == x.pbsp && k.pbcache.toNat == x.pbcache
  let s := if same then s else s.recut c x.pbreg x.pbsp x.pbcache
  if k.lastCtx = some x.ctx then s else s.clearPool c

/-- Dispatch the next iteration of a node to a core. -/
def State.dispatch (s : State) (id : Nat) (x : Node) (c : CoreId) : State :=
  let it : Iter :=
    { ctx := x.ctx, node := id, ord := x.nextOrd,
      idx := (walkIdx x.n (permOf x.ord) x.nextOrd).map (fun (e : Nat × Nat) => e.2), cancelled := false, phase := x.phase,
      persist := x.persist, preemptible := x.preempt, sib := x.sib, since := s.gtc, disp := s.sched.dispNo, begun := false }
  let s := (s.freshPool c x).clearBank c
  let s := s.modCore c (fun k => { (firstState k x id x.nextOrd) with iter := some it })
  let s := s.setNode id (some { x with
    nextOrd := x.nextOrd + 1, served := (s.core c).lid.toNat, clock := s.gtc, running := x.running + 1 })
  { s with sched := { s.sched with dispNo := s.sched.dispNo + 1 } }

/-! Asking for a core (R289). -/

/-- The waiting iteration a request serves: a node's new ones, or one saved iteration. -/
def tagOfSaved (v : Saved) : Nat := 4096 + 4096 * v.it.ord + v.it.node

/-- The highest waiting work: its tag, how many iterations wait, its node, and the core it needs. -/
def headWaiting (s : State) : Option (Nat × Nat × Node × Option Nat) :=
  [3, 2, 1, 0].findSome? (fun ep =>
    let ns := nodesAt s ep
    match ns.flatMap (fun e => (savedOf s e.1).map (fun v => (e.2, v))) with
    | (x, v) :: _ => some (tagOfSaved v, 1, x, some v.lid)
    | [] => (ns.find? (fun e => hasNew e.2)).map (fun e => (e.1, e.2.total - e.2.nextOrd, e.2, none)))

/-- A core whose task may be pre-empted for a waiting iteration of a node. -/
def isVictim (s : State) (x : Node) (lid : Option Nat) (c : CoreId) : Bool :=
  let k := s.core c
  match k.iter with
  | some it =>
    (match s.node it.node with
     | some y => it.preemptible && y.ep < x.ep && k.preReq.isNone && isEligible s x c
         && (match lid with | some l => k.lid.toNat == l | none => true)
     | none => false)
  | none => false

/-- The order of victims: the lowest EP, then the latest dispatch, then the highest logical id. -/
def victimBefore (s : State) (a b : CoreId) : Bool :=
  let ep (c : CoreId) : Nat := (((s.core c).iter.bind (fun i => s.node i.node)).map (·.ep)).getD 0
  let disp (c : CoreId) : Nat := ((s.core c).iter.map (·.disp)).getD 0
  let l (c : CoreId) : Nat := (s.core c).lid.toNat
  ep a < ep b || (ep a == ep b && (disp b < disp a || (disp b == disp a && l b < l a)))

/-- The victim among the cores that a test admits. -/
def victimOf (s : State) (x : Node) (lid : Option Nat) : Option CoreId :=
  (coreIds.filter (isVictim s x lid)).foldl (fun (r : Option CoreId) c => match r with
    | some b => if victimBefore s c b then some c else some b
    | none => some c) none
/-- The victim's context has a free save frame. -/
def hasFrame (s : State) (c : CoreId) : Bool := ((s.core c).iter.bind (fun it => freeFrame s it.ctx)).isSome

/-- Ask for one core for the highest waiting iteration when no free core takes it, one request for each such iteration; a
victim's context must have a free save frame first. -/
def State.askCore (s : State) : State :=
  match headWaiting s with
  | none => s
  | some (tag, count, x, lid) =>
    let found := match lid with | some l => isFree s (s.byLid l) && isEligible s x (s.byLid l) | none => (placeOf s x).isSome
    if found || count ≤ s.cores.toList.countP (fun k => k.preReq == some tag) then s
    else match victimOf s x lid with
      | some c => if hasFrame s c then s.modCore c (fun k => { k with preReq := some tag }) else s
      | none => s

/-- DISPATCH: the highest waiting iteration that has a core goes to it, when it is a node's new one; the scheduler asks
for a core for one that has none. -/
def execDispatch (s : State) : Out :=
  let s := match nextPick s with
    | some (.fresh n c) => (match s.node n with | some x => s.dispatch n x c | none => s)
    | _ => s
  .next s.askCore

/-- RESUME: the saved iteration that comes next resumes on its core (R288, R289, R294). -/
def execResume (c : CoreId) (s : State) : Out :=
  match nextPick s with
  | some (.saved v d) => if c = d then .next (s.loadIter c v) else .next s
  | _ => .next s

/-- AGING_STEP: a waiting node's effective priority rises after 65,536 ticks (R288). -/
def execAgingStep (node : BitVec 12) (s : State) : Out :=
  match s.node node.toNat with
  | some x =>
    if isWaiting s node.toNat x && x.ready.isSome && x.ep < 3 && x.clock.toNat + 65536 ≤ s.gtc.toNat then
      .next (s.setNode node.toNat (some { x with ep := x.ep + 1, clock := s.gtc }))
    else .next s
  | none => .next s

/-! Pre-emption (R152, R156, R186, R241). -/

/-- A full/empty access that waits at a scratchpad, which a pre-emption abandons. -/
def feWaiting (a : Acc) : Bool :=
  a.waiting.isSome && (match a.op with | .ldf _ | .ste _ | .vldf .. | .vste .. => true | _ => false)
/-- Abandon the full/empty waits of a core, and every instruction from the oldest vector instruction that has not
passed its start checks on (R156): no effect of them remains. -/
def State.abandonFe (s : State) (c : CoreId) : State :=
  let s := s.rewind c
  let gone := (s.homeQ.filter (fun a => a.core == c && feWaiting a)).map (fun a => a.seq)
  let s := { s with homeQ := s.homeQ.filter (fun a => !(a.core == c && feWaiting a)) }
  s.modCore c (fun k =>
    let k := match k.wait with
      | some (.home n w) => if gone.contains n then
          { (k.letGo.setReserved w.push (k.reserved w.push - (if w.push == 0 then 0 else 1))) with wait := none } else k
      | _ => k
    let lost := k.groups.filter (fun g => gone.contains g.id)
    { k with
      busyS := k.busyS.filter (fun n => lost.all (fun g => match g.dest with | .sreg r _ => r.toNat != n | _ => true)),
      groups := k.groups.filter (fun g => !gone.contains g.id),
      stamps := k.stamps.filter (fun e => e.core != c || !gone.contains e.seq) })

/-- S stands at a boundary, or waits in an instruction that a pre-emption abandons. -/
def waitYields : Option Wait → Bool
  | none | some (.token ..) | some (.sleep ..) | some (.fence ..) | some .lease | some (.unseal ..) | some (.touch _) | some (.again true) => true
  | _ => false

/-- A full/empty request of a core that the peer holds (R365). -/
def feAsked (s : State) (c : CoreId) (r : LinkReq) : Bool :=
  r.core == c && !r.flit.wd && s.homeQ.any (fun a => a.asked && a.core == c && a.seq == r.seq &&
    (match a.op with | .ldf _ | .ste _ => true | _ => false))
/-- Send WITHDRAW for every full/empty request that waits at the peer (R365). -/
def State.withdrawFe (s : State) (c : CoreId) : State :=
  let asked := s.bridge.reqs.filter (fun (e : Nat × LinkReq) => feAsked s c e.2)
  asked.foldl (fun s e =>
    let r : LinkReq := { e.2 with flit := { e.2.flit with wd := true } }
    ({ s with bridge := { s.bridge with reqs := tabSet s.bridge.reqs e.1 r } }).send
      { flit0 with msg := 0x05, port := r.flit.port, tag := r.flit.tag, ia := r.flit.ia, opf := 0x18 }) s

/-- The write-back of a REFLD.heal that has loaded its value (R241). -/
def isHeal (a : Acc) : Bool := match a.op with | .rmw 9 _ _ _ false => true | _ => false

/-- The core can be saved: every owed result has arrived and each engine is at rest. DEDUCED (log 33). -/
def atBoundary (s : State) (c : CoreId) : Bool :=
  let k := s.core c
  waitYields k.wait && !(match k.deferred with | d :: _ => d.page | [] => false) && k.landing.isEmpty && k.busyS.isEmpty
    && k.groups.all (fun g => (match g.dest with | .none => true | _ => false) && g.push == 0)
    && ([Eng.m, .c, .g, .x].all (fun e => (k.queueOf e).all (opAtRest e)))
    && s.banks.jobs.all (fun j => j.core != c) && k.pend.isEmpty
    && s.homeQ.all (fun a => a.core != c || !isHeal a)

/-- An UNSEAL that is abandoned leaves its descriptor as it was (R152). -/
def State.unclose (s : State) (c : CoreId) : State :=
  match (s.core c).wait with
  | some (.unseal sl o _) => { s with seals := s.seals.map (fun (d : SealDesc) =>
      if d.slice == sl && d.off == o then { d with closing := false } else d) }
  | _ => s

/-- PREEMPTION: a requested pre-emption is taken at the core's boundary; a running BEXEC is stopped first (R268, R289). A
persistent node is pre-empted only at its YIELD. -/
def execPreemption (c : CoreId) (s : State) : Out :=
  let k := s.core c
  match k.preReq, k.iter with
  | some _, some it =>
    if it.persist || !hasFrame s c then .next s
    else if s.banks.jobs.any (fun j => j.core == c) then .next (s.stopJobs c true)
    else if s.bridge.reqs.any (fun e => feAsked s c e.2) then .next (s.withdrawFe c)
    else
      let t := s.abandonFe c
      if !atBoundary t c then .next s
      else match freeFrame t it.ctx with
        | none => .next s
        | some f =>
          let t := ((t.unclose c).dropLease c).modCore c (fun k => { k.letGo with wait := none })
          .next (t.saveIter c f (t.core c).pc false)
  | _, _ => .next s

/-! The end of a migration (R295, R378). -/

/-- What moves with the task from core k to the place of core own. DEDUCED (log 33). -/
def Core.movedTo (k own : Core) : Core := { (k.keepUnit own) with
  lid := k.lid, lastCtx := own.lastCtx }

/-- Copy the pool and the working bank of one core to another. -/
def State.movePool (s : State) (a b : CoreId) : State :=
  let copy (base dst n : Nat) (m : List Host.Cell) : List Host.Cell :=
    (s.mem.filter (fun e => base ≤ e.1 && e.1 < base + n)).foldl (fun m e => memSet m (dst + (e.1 - base)) e.2) m
  let full := s.full.filter (fun n => poolBase + a.toNat * 2 ^ 21 ≤ 8 * n && 8 * n < poolBase + (a.toNat + 1) * 2 ^ 21)
  let t := (s.clearPool b).clearBank b
  let m := copy (regionKey a 0) (regionKey b 0) (2 ^ 21) (copy (wbankKey a 0) (wbankKey b 0) 65536 t.mem)
  let f := full.foldl (fun f n => setAdd f (n - regionKey a 0 / 8 + regionKey b 0 / 8)) t.full
  (({ t with mem := m, full := f }).clearPool a).clearBank a

/-- MIGRATION_RELEASE: the move of core c's task ends: its state stands on the target, the logical ids are swapped, and
the task goes on (R295 steps 3 to 5). -/
def execMigrationRelease (c : CoreId) (s : State) : Out :=
  match s.sched.moves.find? (fun m => m.src == c) with
  | none => .next s
  | some m =>
    let a := s.core m.src
    let b := s.core m.dst
    let s := s.movePool m.src m.dst
    let gone := { (a.vacate (a.iter.map (·.ctx) |>.getD 0)) with lid := b.lid, copies := [] }
    let s := (s.setCore m.dst (a.movedTo b)).setCore m.src gone
    .next { s with sched := { s.sched with moves := s.sched.moves.filter (fun x => x.src != c) } }

end Sys2Proof.Machine
end

