-- ==== Sys2Proof/Machine/Ring.lean ====
section
/-! DEFINITION. The command rings (R359, R360): taking records, the units' order, completions; and reading and writing
host memory. -/

namespace Sys2Proof.Machine

open Sys2Proof

/-! Host memory as Basecamp reaches it. -/

def hostRead (s : State) (a n : Nat) : List Byte := (List.range n).map (fun i => memGet s.mem (hostBase + (a + i) % 2 ^ 48))
def State.hostWrite (s : State) (a : Nat) (d : List Byte) : State :=
  { s with mem := ((List.range d.length).zip d).foldl (fun m e => memSet m (hostBase + (a + e.1) % 2 ^ 48) e.2) s.mem }

/-! Commands (R361, R390). -/

/-- The units of R360. -/
inductive CUnit where
  | t | s | k | b
  deriving DecidableEq, Repr

/-- The unit of an operation code; none for an unknown code. -/
def cmdUnit (opc : Nat) : Option CUnit :=
  if opc ≤ 0x07 || (0x0A ≤ opc && opc ≤ 0x0C) then some .b
  else if opc = 0x08 || opc = 0x09 || (0x10 ≤ opc && opc ≤ 0x15) then some .t
  else if (0x20 ≤ opc && opc ≤ 0x24) || (0x30 ≤ opc && opc ≤ 0x32) then some .k
  else if opc = 0x28 || opc = 0x29 || (0x2C ≤ opc && opc ≤ 0x2E) then some .s
  else none

/-- Commands that need no open context (R360): HELLO, CTXOPEN, TPOOL and MIGPOOL. -/
def needsCtx (opc : Nat) : Bool := !([0x00, 0x01, 0x08, 0x09].contains opc)

def State.ctx (s : State) (n : Nat) : Ctx := s.ctxs[n]?.getD Ctx.reset
def State.setCtx (s : State) (n : Nat) (x : Ctx) : State := { s with ctxs := s.ctxs.setIfInBounds n x }
def cxOf (q : Cmd) : Nat := q.ctx.toNat

/-- Write one completion: TAG, RESULT, VALUE; vector 0 (R359). A VALUE the spec does not give is free. DEDUCED (log 37). -/
def State.completion (s : State) (tag : BitVec 32) (res : Nat) (val : Option Word) : State :=
  let v := match val with | some v => v | none => Config.freeWord s.free
  let at_ := s.base.cq.base.toNat + 16 * s.base.cq.tail.toNat
  let s := s.hostWrite at_ (leBytes 4 tag.toNat ++ leBytes 4 res ++ leBytes 8 v.toNat)
  { s with base := { s.base with cq := ringNext s.base.cq, msix := s.base.msix ++ [0] }, free := s.free + 1 }

/-- Remove the first entry equal to i. -/
def dropCmd (i : Nat × Cmd) : List (Nat × Cmd) → List (Nat × Cmd)
  | [] => []
  | x :: t => if x = i then t else x :: dropCmd i t

/-- The commands queued before i. -/
def cmdsBefore (i : Nat × Cmd) : List (Nat × Cmd) → List (Nat × Cmd)
  | [] => []
  | x :: t => if x = i then [] else x :: cmdsBefore i t

/-- A command may run: it is queued, no earlier command of its unit is, and with FENCE no earlier command at all. DEDUCED (log 36). -/
def cmdTurn (s : State) (i : Nat × Cmd) : Bool :=
  s.base.cmds.contains i && (cmdsBefore i s.base.cmds).all (fun x => cmdUnit x.1 != cmdUnit i.1 && !i.2.fence)

/-- The results every command has: 0x81 before READY and without an open context, 0x80 for a reserved bit (R360, R369). DEDUCED (log 35). -/
def cmdRefused (s : State) (opc : Nat) (q : Cmd) : Option Nat :=
  if !s.base.ready && opc != 0 then some 0x81
  else if q.reserved then some 0x80
  else if needsCtx opc && !(s.ctx (cxOf q)).isOpen then some 0x81
  else none

/-- What a command's body answers: a result, with VALUE when the spec gives it, or nothing while it waits. -/
inductive CRes where
  | done (s : State) (res : Nat) (val : Option Word)
  | wait (s : State)

/-- Run a queued command: its common refusals, then its body, then its completion, which waits for room in its ring. DEDUCED (log 36). -/
def cmdRun (opc : Nat) (q : Cmd) (s : State) (body : State → CRes) : Out :=
  if !cmdTurn s (opc, q) || ringFull s.base.cq then .next s
  else
    let finish (s : State) (r : Nat) (v : Option Word) : State :=
      ({ s with base := { s.base with cmds := dropCmd (opc, q) s.base.cmds } }).completion q.tag r v
    match cmdRefused s opc q with
    | some r => .next (finish s r none)
    | none =>
      match body s with
      | .done s r v => .next (finish s r v)
      | .wait s => .next s

/-- A refusal and an acceptance without a VALUE of their own. DEDUCED (log 35). -/
def CRes.no (s : State) : CRes := .done s 0x82 none
/-- DEDUCED (log 35). -/
def CRes.bad (s : State) : CRes := .done s 0x80 none
def CRes.ok (s : State) : CRes := .done s 0 none

/-! TAIL_REREAD. -/

/-- The record at an index of the command ring. -/
def recordAt (s : State) (n : Nat) : Nat × Cmd :=
  let b := hostRead s (s.base.cr.base.toNat + 64 * n) 64
  let at_ (i k : Nat) : Nat := leNat ((b.drop i).take k)
  let arg (i : Nat) : Word := w64 (at_ (8 + 8 * i) 8)
  (at_ 0 1, { ctx := BitVec.ofNat 4 (at_ 1 1), fence := at_ 2 1 % 2 == 1,
              reserved := at_ 1 1 / 16 != 0 || at_ 2 1 / 2 != 0 || at_ 3 1 != 0,
              tag := BitVec.ofNat 32 (at_ 4 4), a0 := arg 0, a1 := arg 1, a2 := arg 2, a3 := arg 3, a4 := arg 4,
              a5 := arg 5, a6 := arg 6 })

/-- Take records until the tail, at most n; none while the completion ring is full. An unknown code completes with
BADCMD. DEDUCED (log 35). DEDUCED (log 36). -/
def takeCmds : Nat → Nat → State → State
  | 0, _, s => s
  | n + 1, tail, s =>
    if s.base.cr.head.toNat = tail || ringFull s.base.cq then s
    else
      let r := recordAt s s.base.cr.head.toNat
      let head := w64 ((s.base.cr.head.toNat + 1) % s.base.cr.size.toNat)
      let s := { s with base := { s.base with cr := { s.base.cr with head := head } } }
      takeCmds n tail (match cmdUnit r.1 with
        | some _ => { s with base := { s.base with cmds := s.base.cmds ++ [r] } }
        | none => s.completion r.2.tag (if s.base.ready then 0x80 else 0x81) none)

/-- TAIL_REREAD: the device reads the tail word and takes the new records. DEDUCED (log 36). -/
def execTailReread (s : State) : Out :=
  let b := s.base
  if b.stg < 3 || b.cr.size = 0 || b.cq.size = 0 then .next s
  else
    let tail := leNat (hostRead s b.crtail.toNat 8) % b.cr.size.toNat
    .next (takeCmds b.cr.size.toNat tail { s with base := { b with cr := { b.cr with tail := w64 tail } } })

/-! Basecamp's commands on contexts (R361, R373). -/

def execHello (q : Cmd) (s : State) : Out := cmdRun 0x00 q s (fun s =>
  if s.base.ready then .no s
  else if q.a0 ≠ 1 then .done s 0x82 (some 1)
  else .done { s with base := { s.base with ready := true } } 0 (some 1))

/-- Node ranges of two contexts share an id. -/
def rangesMeet (a n b m : Nat) : Bool := a < b + m && b < a + n

/-- CTXOPEN. The key it draws makes earlier contents under the context's KEYID unreadable, as CTXCLOSE did. DEDUCED (log 37). -/
def execCtxopen (q : Cmd) (s : State) : Out := cmdRun 0x01 q s (fun s =>
  let first := wbits q.a1 11 0
  let count := wbits q.a1 27 16
  let x := s.ctx (cxOf q)
  if wbits q.a1 15 12 ≠ 0 || wbits q.a1 63 28 ≠ 0 then .bad s
  else if x.isOpen || s.ctxs.any (fun y => y.isOpen && rangesMeet first count y.first y.count) then .no s
  else .ok (s.setCtx (cxOf q) { x with
    isOpen := true, table := q.a0, first := first, count := count, frameBase := q.a2, frameCount := q.a3.toNat,
    keyver := x.keyver + 1, otbase := 0, otlimit := 0, ttbase := none, tens := [], heapPool := [] }))

/-- The 64 KiB frames of a leaf of device memory (R349). -/
def framesOf (l : Leaf) : List Nat :=
  if lTier l ≠ 0 || lView l then [] else (List.range (lSize l / 65536)).map (fun i => lAddr l / 65536 + i)
/-- Erase what a set of frames holds: their bytes are free until written (R373). -/
def State.eraseFrames (s : State) (l : List Nat) : State :=
  let n := s.free
  { s with free := s.free + 1,
           xlat := { s.xlat with
             erased := l.foldl (fun t f => tabSet t f n) s.xlat.erased,
             rewritten := s.xlat.rewritten.filter (fun k => !l.contains (frameOf k)) } }
/-- The frames of the pages of a KEYID. -/
def keyFrames (s : State) (key : Nat) : List Nat :=
  s.xlat.pages.flatMap (fun e => if lV e.2 && lKey e.2 == key then framesOf e.2 else [])

/-- A context may be closed: no resident node, open slot, registered group or pin. -/
def canClose (s : State) (c : Nat) : Bool :=
  s.sched.nodes.all (fun e => e.2.ctx != c) && s.heap.slots.all (fun e => e.2.ctx != c || e.2.st == .free)
    && s.sched.ballots.all (fun e => e.2.ctx != c) && s.heap.objs.all (fun e => e.1 / 2 ^ 40 != c || e.2.pin == 0)

/-- CTXCLOSE erases the context's key; its tables go with it. -/
def execCtxclose (q : Cmd) (s : State) : Out := cmdRun 0x02 q s (fun s =>
  if !canClose s (cxOf q) then .no s
  else if (match s.base.reloc with | some (c, _) => c == cxOf q | none => false) then .wait s
  else
    let s := s.eraseFrames (keyFrames s (cxOf q))
    let x := s.ctx (cxOf q)
    let s := { s with heap := { s.heap with objs := s.heap.objs.filter (fun e => e.1 / 2 ^ 40 != (cxOf q)) } }
    .ok (s.setCtx (cxOf q) { Ctx.reset with keyver := x.keyver, refused := x.refused }))

end Sys2Proof.Machine
end

