-- ==== Sys2Proof/Machine/Launch.lean ====
section
/-! DEFINITION. Launching a node (R278 to R282, R297, R362): its record, auxiliary block, kernel header and templates. -/

namespace Sys2Proof.Machine

open Sys2Proof

/-! Reading device memory for the scheduler. -/

inductive DRead where
  | got (s : State) (d : List Byte)
  | wait (s : State)
  | bad (s : State) (x : Cause)

/-- Put bytes before those of a read. -/
def DRead.before (d : List Byte) : DRead → DRead
  | .got s e => .got s (d ++ e)
  | r => r

/-- A place of the peer that no line of the RDC holds. -/
def isUncached (s : State) (l : Loc) : Bool := match l with | .ia a => homeAt s a == .peerUncached | _ => false
/-- Read at most 32 bytes at one place; what the RDC cannot hold of the peer has no reader here. DEDUCED (log 36). -/
def readOnce (s : State) (l : Loc) (n : Nat) : DRead :=
  if isUncached s l then .bad s .rangeFault
  else match readAt s whoNone l n 0 with
  | .done s d _ _ => .got s d
  | .retry s => .wait s
  | .mig s => .wait s
  | .held s => .bad s .pageFaultLoad

/-- Read n bytes of an address space that place maps, in pieces inside 32 bytes; fuel is n. -/
def readMany (place : State → Nat → Except Cause Loc) : Nat → State → Nat → Nat → DRead
  | 0, s, _, _ => .got s []
  | f + 1, s, a, n =>
    if n = 0 then .got s []
    else
      let m := min n (32 - a % 32)
      match place s a with
      | .error x => .bad s x
      | .ok l =>
        match readOnce s l m with
        | .got s d => (readMany place f s (a + m) (n - m)).before d
        | r => r

/-- Bytes by IA. -/
def readDev (s : State) (ia n : Nat) : DRead :=
  readMany (fun s a => match locOfIa s a 0 with | some l => .ok l | none => .error .rangeFault) n s ia n

/-- Bytes by VA through a range set. -/
def readVa (ranges : List Range) (s : State) (va n : Nat) : DRead :=
  let k := { Core.reset 0 with range := Vector.ofFn (fun i => ranges.getD i.val Range.reset) }
  readMany (fun s a => match byteGlobal s k a .r false with
    | .ok l _ _ => .ok l
    | .denied .. => .error .permFault
    | .bad x => .error x
    | .beyond => .error .rangeFault) n s va n

/-! The record (R278, R279). -/

def wordAt (b : List Byte) (i : Nat) : Word := w64 (leNat ((b.drop (8 * i)).take 8))

/-- The ranges of an auxiliary block. -/
def auxRanges (b : List Byte) : List Range :=
  (List.range 8).map (fun i => { w0 := wordAt b (4 * i), w1 := wordAt b (4 * i + 1), w2 := wordAt b (4 * i + 2),
                                 w3 := wordAt b (4 * i + 3) })
def recCount (r : List Byte) : Nat := wbits (wordAt r 15) 63 56
/-- The successors, in list order. -/
def recSuccs (r b : List Byte) : List Nat :=
  (List.range (min 132 (recCount r))).map (fun i =>
    if i < 4 then wbits (wordAt r 15) (12 * i + 11) (12 * i) else leNat ((b.drop (256 + 2 * (i - 4))).take 2) % 4096)
def recCounts (r : List Byte) : List Nat :=
  [wbits (wordAt r 12) 31 0, wbits (wordAt r 12) 63 32, wbits (wordAt r 13) 31 0, wbits (wordAt r 13) 63 32]

/-- The node a record describes, before its header is read. -/
def recNode (ctx : Nat) (r b : List Byte) (now : Word) : Node :=
  let w := wordAt r
  { ctx := ctx, entry := wbits (w 0) 55 0, pbreg := wbits (w 0) 63 57, pbsp := wbits (w 1) 63 57,
    pbcache := wbits (w 3) 63 57,
    wins := (List.range 8).map (fun n =>
      (w64 ((wbits (w 3) 55 0 + wbits (w (4 + n)) 41 0) % 2 ^ 56),
       w64 ((if (w (4 + n)).getLsbD 63 then 2 ^ 63 else 0) + wbits (w (4 + n)) 62 42))),
    n := recCounts r, ord := wbits (w 14) 4 0,
    sib := if (w 14).getLsbD 12 then some (wbits (w 14) 34 29, wbits (w 14) 38 35) else none,
    slot := wbits (w 14) 48 39, cmask := BitVec.ofNat 16 (wbits (w 14) 28 13), last := (w 14).getLsbD 11,
    join := (w 14).getLsbD 10, phase := (w 14).getLsbD 9, preempt := (w 14).getLsbD 8, persist := (w 14).getLsbD 7,
    prio := wbits (w 14) 6 5, succs := recSuccs r b, ranges := auxRanges b, tqcfg := 0x2E0D804A402, tvec := 0,
    tmpl := [], counter := wbits (w 14) 60 49, status := 0, ready := none, nextOrd := 0, served := 63, ep := 0,
    clock := now, running := 0, outcome := 0, stopped := false }

def rangeOk (r : Range) : Bool := rangeWordOk 0 r.w0 && rangeWordOk 1 r.w1 && rangeWordOk 2 r.w2 && rangeWordOk 3 r.w3

/-- A context's node range holds an id. -/
def Ctx.has (x : Ctx) (n : Nat) : Bool := x.first ≤ n && n < x.first + x.count

/-- The field checks of R281 on the record and the auxiliary block. -/
def fieldsOk (x : Ctx) (r b : List Byte) (y : Node) : Bool :=
  let w := wordAt r
  !(w 0).getLsbD 56 && !(w 1).getLsbD 56 && !(w 3).getLsbD 56 && wbits (w 2) 63 52 == 0 && wbits (w 14) 63 61 == 0
    && wbits (w 15) 55 48 == 0 && y.ord < 24 && y.n.all (· != 0) && y.total ≤ 2 ^ 48
    && poolOk y.pbreg y.pbsp y.pbcache && recCount r ≤ 132 && y.succs.all x.has
    && (List.range (min 132 (recCount r) - 4)).all (fun i => leNat ((b.drop (256 + 2 * i)).take 2) < 4096)
    && y.wins.all (fun v => wbits v.2 20 0 ≤ 2 ^ 20 && wbits v.2 62 0 ≤ 2 ^ 20) && y.ranges.all rangeOk && y.cmask != 0

/-- The sibling tag of a record (R297): its group is the context's, and its slot is the entry's. -/
def tagOk (s : State) (y : Node) : Bool :=
  match y.sib with
  | none => true
  | some (g, i) => match s.ballot g with
    | some b => b.ctx == y.ctx && i < b.size && b.slots.getD i 0 == y.slot
    | none => false

/-- The header's TQCFG, none where it breaks R17. -/
def headTqcfg (h : List Byte) : Option Word :=
  let w := wordAt h 0
  if wbits w 62 42 ≠ 0 || wordAt h 7 ≠ 0 then none
  else if !w.getLsbD 63 then some 0x2E0D804A402
  else let v := w64 (wbits w 41 0); if tqcfgOk v then some v else none

/-- The declared templates: engine and index, ascending (R280). -/
def declared (h : List Byte) : List Nat :=
  (List.range 320).filter (fun n => (wordAt h (2 + n / 64)).getLsbD (n % 64))
def headTmpl (l : List Nat) (b : List Byte) : Table (BitVec 256) :=
  (((List.range l.length).zip l).map (fun e => (e.2, BitVec.ofNat 256 (leNat ((b.drop (32 * e.1)).take 32))))).filter
    (fun (e : Nat × BitVec 256) => e.2 != 0)

/-! The launch (R281, R282). -/

/-- What a launch comes to: a node, a node that faults, or a wait for its memory. -/
inductive Loaded where
  | node (s : State) (y : Node)
  | fault (s : State) (y : Node) (x : Cause)
  | wait (s : State)

/-- Read the header and the templates of a record that passed its field checks. -/
def loadHeader (s : State) (khdr : Nat) (y : Node) : Loaded :=
  match readVa y.ranges s khdr 64 with
  | .wait s => .wait s
  | .bad s x => .fault s y x
  | .got s h =>
    match headTqcfg h with
    | none => .fault s y .illField
    | some q =>
      match readVa y.ranges s (khdr + 64) (32 * (declared h).length) with
      | .wait s => .wait s
      | .bad s x => .fault s y x
      | .got s t => .node s { y with tqcfg := q, tvec := wordAt h 1, tmpl := headTmpl (declared h) t }

/-- Read a node's record and its auxiliary block, and check them: ILL_FIELD first, then MISALIGNED, then what reading
them meets (R35, R281). DEDUCED (log 36). -/
def loadNode (s : State) (ctx n : Nat) : Loaded :=
  let x := s.ctx ctx
  match readDev s (x.table.toNat + 128 * n) 128 with
  | .wait s => .wait s
  | .bad s c => .fault s (recNode ctx (List.replicate 128 0) (List.replicate 512 0) s.gtc) c
  | .got s r =>
    let aux := wbits (wordAt r 2) 51 0
    let entry := wbits (wordAt r 0) 55 0
    let khdr := wbits (wordAt r 1) 55 0
    match readDev s aux 512 with
    | .wait s => .wait s
    | a =>
      let (s, b, c) : State × List Byte × Option Cause := match a with
        | .got s b => (s, b, none)
        | .bad s c => (s, List.replicate 512 0, some c)
        | .wait s => (s, [], none)
      let y := recNode ctx r b s.gtc
      let z := { y with succs := y.succs.filter x.has, sib := if tagOk s y then y.sib else none }
      let odd := entry % 4 != 0 || khdr % 64 != 0 || aux % 512 != 0
      if !fieldsOk x r b y || !tagOk s y then .fault s z .illField
      else match c with
        | some c => .fault s z (if odd then .misaligned else c)
        | none =>
          if khdr % 64 ≠ 0 then .fault s z .misaligned
          else match loadHeader s khdr y with
            | .node s v => if odd then .fault s z .misaligned else .node s v
            | .fault s v c => .fault s v (if odd && c != .illField then .misaligned else c)
            | r => r

/-- Its sibling has been cancelled already (R297). -/
def tagGone (s : State) (y : Node) : Bool :=
  match y.sib with
  | some (g, i) => (match s.ballot g with | some b => b.cancelled.testBit i | none => false)
  | none => false

/-- The node becomes resident, or completes at once: FAULTED, or KILLED for a cancelled sibling. -/
def State.enter (s : State) (n : Nat) (y : Node) (fault : Option Cause) : State :=
  match fault with
  | some x => ((s.schedRecord y.ctx n (causeCode x)).endNode n { y with outcome := 1 }).settleSched
  | none =>
    if tagGone s y then (s.endNode n { y with outcome := 2 }).settleSched
    else (if y.counter = 0 then s.makeReady n y else s.setNode n (some y)).settleSched

/-- A refused launch: its record, and the count of CTXSTAT (R362, R376). DEDUCED (log 37). -/
def State.refuseLaunch (s : State) (ctx n code : Nat) : State :=
  let x := s.ctx ctx
  (s.schedRecord ctx n code).setCtx ctx { x with refused := min (2 ^ 32 - 1) (x.refused + 1) }

/-- LAUNCH: a write to a context's LAUNCH register (R282, R362). One whose record's memory is not at hand waits. DEDUCED (log 36). -/
def execLaunch (ctx : BitVec 4) (val : Word) (s : State) : Out :=
  let c := ctx.toNat
  let x := s.ctx c
  let n := val.toNat % 4096
  let s := { s with base := { s.base with launches := s.base.launches.filter (fun e => e != (ctx, val)) } }
  if !s.base.ready then .next s
  else if !x.isOpen then .next (s.refuseLaunch c n 0x0113)
  else if val.toNat ≥ 4096 || !x.has n || (s.node n).isSome then .next (s.refuseLaunch c n (causeCode .illOperand))
  else match loadNode s c n with
    | .node s y => .next (s.enter n y none)
    | .fault s y e => .next (s.enter n y (some e))
    | .wait s => .next { s with base := { s.base with launches := s.base.launches ++ [(ctx, val)] } }

end Sys2Proof.Machine
end

