-- ==== Sys2Proof/Machine/Dir.lean ====
section
/-! DEFINITION. The home directory (R320 to R332): requests of the peer's RDC, grants, refusals and reservations, the
answers to snoops, write-backs, and evictions. -/

namespace Sys2Proof.Machine

open Sys2Proof

/-! The grain's data at the home. -/

/-- The home takes the bytes of a grain, whatever the page's migration; a page with a replica collapses. -/
def State.homeTake (s : State) (ia : Nat) (d : List Byte) : State :=
  match leafOf s ia with
  | none => s
  | some (n, l) =>
    let o := ia % 2 ^ 48 - n * 65536
    let os := (List.range d.length).map (· + o)
    match lTier l with
    | 0 => s.putAll (lCc l) (leafKeys l os) d
    | t => (if t = 2 then s.collapse n else s).putAll false (os.map (fun o => hostBase + (lAddr l + o) % 2 ^ 48)) d

/-- A message of this home to the peer about a grain, with the tag and port of a request. DEDUCED (log 55). -/
def replyTo (f : Flit) (msg g gr : Nat) : Flit :=
  { flit0 with msg := BitVec.ofNat 8 msg, port := f.port, tag := f.tag, ia := g, grain := BitVec.ofNat 2 gr }

/-- What a request is granted. -/
inductive Grant where
  | shared | exclusive | upgrade
  deriving DecidableEq, Repr

/-- Grant a grain to the peer: DataS, DataE, DataM or GntU with W and X (R324, R325), and the directory's new state; h says
that the host stays a sharer. A CC line is granted as DataS (R332); so is a view, which is invalidated at once, since no RDC line
holds a view byte (R315). The Bool is false when the page does not let it be served yet. DEDUCED (log 55). -/
def State.giveGrain (s : State) (f : Flit) (g gr : Nat) (h : Bool) (w : Grant) (conv : Bool) : Bool × State :=
  let dir (st : DirSt) : Dir := { gr := gr, st := st, p := true, h := h, needP := false, needH := false, req := none, next := none }
  let l := leaseAt s g gr
  let x := wmax s.gtc l.e + 1
  match pageKeys s g (grSize gr) (w != .shared) with
  | .keys ks cc =>
    let d := homeBytes s g ks
    let s := countAccess { s with free := s.free + 1 } g false
    if cc || w = .shared then
      (true, (s.send { (replyTo f 0x07 g gr) with cc := cc, stamp := l.w, data := d }).setDir g (some (dir .hS)))
    else if w = .upgrade && !conv then
      (true, (s.send { (replyTo f 0x0A g gr) with stamp := x }).setDir g (some { (dir .hE) with h := false }))
    else
      (true, (s.send { (replyTo f (if f.msg = 0x01 then 0x08 else 0x09) g gr) with conv := conv, stamp := x, data := d, w := l.w }).setDir g
        (some { (dir .hE) with h := false }))
  | .view vs _ cl =>
    let s := s.send { (replyTo f 0x07 g gr) with cc := true, stamp := l.w, data := vs.map (viewRead s cl) }
    (true, (s.snoop 0x11 g gr).setDir g (some { (dir .tInv) with needP := true }))
  | .collapse n => (false, s.collapse n)
  | .fault => (false, s.noteFault g none 0)
  | .mig => (false, s)

/-! Waiters, refusals and reservations (R327, R328). -/

def isWaiter (f : Flit) (g : Nat) (w : Waiter) : Bool := w.tag == f.tag.toNat && w.port == f.port && w.grain == g
def isHolder (f : Flit) (r : Resv) : Bool := r.tag == f.tag.toNat && r.port == f.port
/-- The reservations of grains that bytes overlap. -/
def resvIn (s : State) (a n : Nat) : List (Nat × Resv) := s.bridge.resv.filter (fun e => bytesMeet e.1 (grSize e.2.gr) a n)
/-- Bytes are reserved for another requester. -/
def reservedAway (s : State) (f : Flit) (a n : Nat) : Bool := (resvIn s a n).any (fun e => !isHolder f e.2)
/-- The oldest waiter on a grain: the earliest first refusal. -/
def oldestWaiter (s : State) (g : Nat) : Option Waiter :=
  (s.bridge.waiters.filter (fun w => w.grain == g)).foldl (fun (r : Option Waiter) w => match r with
    | some v => if w.first.toNat < v.first.toNat then some w else some v
    | none => some w) none
def State.reserve (s : State) (g : Nat) : State :=
  match oldestWaiter s g with
  | some w => { s with bridge := { s.bridge with
      resv := tabSet s.bridge.resv g { gr := w.gr, tag := w.tag, port := w.port, since := s.gtc } } }
  | none => s

/-- REFUSE a request: Refuse carries its earlier refusals; the eighth one reserves the grain for the oldest waiter. -/
def State.refuse (s : State) (f : Flit) (g gr : Nat) : State :=
  let old := s.bridge.waiters.find? (isWaiter f g)
  let k := (old.map (·.count)).getD 0
  let w : Waiter := { tag := f.tag.toNat, port := f.port, grain := g, gr := gr, count := k + 1, first := (old.map (·.first)).getD s.gtc }
  let s := s.send { flit0 with msg := 0x0D, port := f.port, tag := f.tag, ia := f.ia, grain := f.grain, opf := BitVec.ofNat 16 k }
  let s := { s with bridge := { s.bridge with waiters := s.bridge.waiters.filter (fun x => !isWaiter f g x) ++ [w] } }
  match tabGet s.bridge.resv g with
  | some r =>
    if isHolder f r then { s with bridge := { s.bridge with resv := tabSet s.bridge.resv g { r with since := s.gtc } } } else s
  | none => if k + 1 ≥ 8 then s.reserve g else s

/-- The reservation of a grain ends, and the next goes to the oldest remaining waiter if one was refused eight times. -/
def State.endResv (s : State) (g : Nat) : State :=
  let s := { s with bridge := { s.bridge with resv := tabDel s.bridge.resv g } }
  if s.bridge.waiters.any (fun w => w.grain == g && w.count ≥ 8) then s.reserve g else s

/-- A request is served: its waiter entry goes, and its reservation. -/
def State.wasServed (s : State) (f : Flit) (g : Nat) : State :=
  let s := { s with bridge := { s.bridge with waiters := s.bridge.waiters.filter (fun x => !isWaiter f g x) } }
  match tabGet s.bridge.resv g with
  | some r => if isHolder f r then s.endResv g else s
  | none => s

/-- RESERVATION_END: 8,192 ticks after its last refusal without a retry. -/
def execReservationEnd (g : Nat) (s : State) : Out :=
  match tabGet s.bridge.resv g with
  | some r =>
    if r.since.toNat + 8192 ≤ s.gtc.toNat then
      let ws := s.bridge.waiters.filter (fun w => !(w.grain == g && w.tag == r.tag && w.port == r.port))
      .next ({ s with bridge := { s.bridge with waiters := ws } }.endResv g)
    else .next s
  | none => .next s

/-- The holder of a reservation is served as if the grain were not reserved; once it is, the reservation ends (R328). -/
def State.asHolder (s : State) (f : Flit) (g : Nat) (go : State → Bool × State) : Bool × State :=
  match tabGet s.bridge.resv g with
  | some r =>
    if isHolder f r then
      let t := go { s with bridge := { s.bridge with resv := tabDel s.bridge.resv g } }
      if t.1 then (true, t.2.endResv g)
      else (false, { t.2 with bridge := { t.2.bridge with resv := tabSet t.2.bridge.resv g r } })
    else go s
  | none => go s

/-! Requests of the peer's RDC (R325). -/

/-- A message of the peer joins what waits here. DEDUCED (log 55). -/
def State.holdFlit (s : State) (f : Flit) (cyc : Nat) : State :=
  { s with bridge := { s.bridge with linkHeld := s.bridge.linkHeld ++ [{ flit := f, arr := w64 (cyc / 2), cyc := cyc }] } }

/-- Grant, and note that the request is served; the Bool is false when its page does not let it be served. -/
def State.grantTo (s : State) (f : Flit) (g gr : Nat) (h : Bool) (w : Grant) (conv : Bool) : Bool × State :=
  let r := s.giveGrain f g gr h w conv
  if r.1 then (true, r.2.wasServed f g) else r

/-- A CC line, or a view, is granted shared whatever the request (R332). -/
def sharedOnly (s : State) (g : Nat) : Bool :=
  match leafOf s g with | some (_, l) => lCc l || lView l | none => false

/-- A request for a grain in a stable state: granted, or recorded in the transient it starts (R325). -/
def State.serveGrain (s : State) (f : Flit) (g gr : Nat) (d : Option Dir) (cyc : Nat) : Bool × State :=
  let read := f.msg == 0x01#8 || sharedOnly s g
  let owner : Flit := { f with msg := if read then 0x01#8 else 0x02#8 }
  match d with
  | none => s.grantTo f g gr false .exclusive false
  | some d =>
    let wait (s : State) (f : Flit) (st : DirSt) : Bool × State :=
      (true, (s.setDir g (some (d.turn st (some (whoPeer f cyc)) false true))).wasServed f g)
    match d.st with
    | .hS =>
      if read then s.grantTo f g gr d.h .shared false
      else
        let f := if f.msg == 0x03#8 && !d.p then { f with msg := 0x02#8 } else f
        if d.h then wait (s.toHost (.bisnpInv g)) f .tInv
        else s.grantTo f g gr false (if f.msg == 0x03#8 then .upgrade else .exclusive) false
    | .hA => if read then wait (s.toHost (.bisnpData g)) f .tBS else wait (s.toHost (.bisnpInv g)) { f with msg := 0x02#8 } .tInv
    | .hO =>
      if d.h && !read then wait (s.toHost (.bisnpInv g)) owner .tInv
      else s.grantTo owner g gr d.h (if read then .shared else .exclusive) false
    | _ => s.grantTo owner g gr false .exclusive false

/-- The grain a request is served at: that of the entry its IA lies in; without one its own, or a smaller one where an
entry holds a part of that (R321). -/
def linkGrain (s : State) (f : Flit) : Nat × Nat × Option Dir :=
  match dirAt s f.ia with
  | some (g, d) => (g, d.gr, some d)
  | none =>
    let gr := (dirIn s (grBase f.ia f.grain.toNat) (grSize f.grain.toNat)).foldl (fun n e => min n e.2.gr) f.grain.toNat
    (grBase f.ia gr, gr, none)

/-- Message n of the peer has its turn at its home (R69, R329). -/
def linkTurn (s : State) (n : Nat) (x : LinkWait) : Bool := x.arr.toNat ≤ s.gtc.toNat && headsQueue s (s.homeQ.length + n)

/-- An upgrade that lost to a store of its own cycle: the store has sent Inv to the S copy (R330). -/
def lostUpgrade (x : LinkWait) (d : Dir) : Bool :=
  x.flit.msg == 0x03#8 && d.st == .tInv && d.p && d.next.isNone
    && (match d.req with | some w => w.cyc == x.cyc && !(w.flit.any (fun f => f.msg != 0x04#8 && f.msg != 0x05#8)) | none => false)

/-- ReqS, ReqX or ReqU, message n, at the home: the Bool is false while it waits. A grain that is transient, whose stamps
are pending, or that is reserved for another, refuses it; an upgrade that lost waits behind the store as a read-exclusive
(R327, R330). -/
def State.linkReq (s : State) (n : Nat) (x : LinkWait) : Bool × State :=
  let f := x.flit
  let (g, gr, d) := linkGrain s f
  match d with
  | some d =>
    if isTransient d.st then
      if lostUpgrade x d then (true, s.setDir g (some { d with next := some { f with conv := true } }))
      else (true, s.refuse f g gr)
    else if stampsPending s g (grSize gr) || reservedAway s f g (grSize gr) then (true, s.refuse f g gr)
    else if linkTurn s n x then s.serveGrain f g gr (some d) x.cyc
    else (false, s)
  | none =>
    if stampsPending s g (grSize gr) || reservedAway s f g (grSize gr) then (true, s.refuse f g gr)
    else if linkTurn s n x then s.serveGrain f g gr none x.cyc
    else (false, s)

/-! The ends of transient states. -/

/-- The stamps of a store whose last acknowledgement came now (R74, R335). -/
def StampWait.ended (x : StampWait) (now : Word) : Stamps :=
  let st := if x.ak then minStamps x.stamps (now + 1) else x.stamps
  { st with system := wmax st.system x.floor }

/-- An acknowledgement for a store: the rest of it waits on, or its stamps go back. -/
def State.acked (s : State) (i : Nat) (x : StampWait) : State :=
  if !x.left.isEmpty || !x.dirs.isEmpty then { s with bridge := { s.bridge with swaits := setNth s.bridge.swaits i x } }
  else ({ s with bridge := { s.bridge with swaits := delNth s.bridge.swaits i } }).endStamps { x with stamps := x.ended s.gtc }

/-- The invalidations of a grain are over for the stores that waited for them, from the n-th on down. -/
def dirAcked (g : Nat) : Nat → State → State
  | 0, s => s
  | n + 1, s =>
    match s.bridge.swaits[n]? with
    | some x =>
      if x.dirs.contains g then
        let dirs := x.dirs.filter (· != g)
        let st := if dirs.isEmpty then { x.stamps with system := wmax x.stamps.device (s.gtc + 1) } else x.stamps
        dirAcked g n (s.acked n { x with dirs := dirs, stamps := st })
      else dirAcked g n s
    | none => dirAcked g n s

/-- A request that a transient recorded is granted; where its page does not let it, it waits (R325). -/
def State.giveRecorded (s : State) (f : Flit) (cyc g gr : Nat) (h : Bool) (w : Grant) : State :=
  let r := s.grantTo f g gr h w f.conv
  if r.1 then r.2 else r.2.holdFlit f cyc

/-- The transient of a grain ends: what is left of its remote copies stays in the directory, and a request of the peer
that it recorded is granted (R325). A recorded request of this device or of the host heads its queue. -/
def State.endTransient (s : State) (g : Nat) (d : Dir) (st : DirSt) : State :=
  let rest : Dir := { d with st := st, needP := false, needH := false, req := none, next := none }
  let s := s.setDir g (if d.p || d.h then some rest else none)
  match d.next, d.req with
  | some f, w => s.giveRecorded f ((w.map (·.cyc)).getD 0) g d.gr false .exclusive
  | none, some w =>
    (match w.flit with
     | some f =>
       if f.msg == 0x01#8 then s.giveRecorded f w.cyc g d.gr d.h .shared
       else if f.msg == 0x02#8 then s.giveRecorded f w.cyc g d.gr d.h .exclusive
       else if f.msg == 0x03#8 then s.giveRecorded f w.cyc g d.gr d.h (if d.p then .upgrade else .exclusive)
       else s
     | none => s)
  | none, none => s

/-- T-INV ends when nothing is awaited: pending stamps are known. -/
def State.invAcked (s : State) (g : Nat) (d : Dir) : State :=
  if d.needP || d.needH then s.setDir g (some d)
  else (dirAcked g s.bridge.swaits.length s).endTransient g d .hS

/-- The peer's copy is gone: T-INV waits for the host, or ends. -/
def State.peerAcked (s : State) (g : Nat) (d : Dir) : State := s.invAcked g { d with p := false, needP := false }

/-- The peer has given its data up, or has nothing: T-FS and T-FX end. -/
def State.peerGone (s : State) (g : Nat) (d : Dir) : State := s.endTransient g { d with p := false } .hS

/-- The home takes the data of a grain that the peer has held, with the stamp of its writes. -/
def State.takeData (s : State) (g : Nat) (d : Dir) (f : Flit) : State :=
  (s.homeTake g f.data).raiseW (sectorsOf g d.gr) (if f.dirty then f.w + 2 else 0)

/-- SNPRSPDATA: the home takes the data of T-FS or T-FX; in T-INV the data of an O copy is not needed (R325). -/
def execSnprspdata (f : Flit) (s : State) : Out := if !s.bridge.up then .next s else
  match dirAt s f.ia with
  | none => .next s
  | some (g, d) =>
    if !d.needP then .next s
    else match d.st with
      | .tFS => .next ((s.takeData g d f).endTransient g { d with p := true } (if f.dirty then .hO else .hS))
      | .tFX => .next ((s.takeData g d f).peerGone g d)
      | .tInv => .next (s.peerAcked g d)
      | _ => .next s

/-- SNPRSPS: the peer keeps a shared copy and sends no data. -/
def execSnprsps (f : Flit) (s : State) : Out := if !s.bridge.up then .next s else
  match dirAt s f.ia with
  | some (g, d) =>
    if d.needP && d.st == .tFS then .next (s.endTransient g { d with p := true } .hS) else .next s
  | none => .next s

/-- SNPRSPI: the peer holds nothing. With WBPEND the transient waits for the write-back, unless that has answered the
snoop already: then the answer is discarded (R331). -/
def execSnprspi (f : Flit) (s : State) : Out := if !s.bridge.up then .next s else
  let g := grBase f.ia f.grain.toNat
  let n := (tabGet s.bridge.stale g).getD 0
  if f.wbpend && 0 < n then
    .next { s with bridge := { s.bridge with stale := tabPut s.bridge.stale g (if n = 1 then none else some (n - 1)) } }
  else match dirAt s f.ia with
  | some (g, d) =>
    if !d.needP then .next s
    else match d.st with
      | .tFS | .tFX => if f.wbpend then .next (s.setDir g (some { d with needP := false })) else .next (s.peerGone g d)
      | .tInv => .next (s.peerAcked g d)
      | _ => .next s
  | none => .next s

/-- INVACK: the peer's copy is gone. -/
def execInvack (f : Flit) (s : State) : Out := if !s.bridge.up then .next s else
  match dirAt s f.ia with
  | some (g, d) => if d.needP && d.st == .tInv then .next (s.peerAcked g d) else .next s
  | none => .next s

/-- WB: the owner's data is taken; one that crosses a forwarded snoop answers it, and the SnpRspI that is still to come
is discarded; any other is discarded (R325, R331). -/
def execWb (f : Flit) (s : State) : Out := if !s.bridge.up then .next s else
  let ack (s : State) : State := s.send (replyTo f 0x0E f.ia f.grain.toNat)
  match dirAt s f.ia with
  | some (g, d) =>
    let take (s : State) : State := s.takeData g d { f with dirty := true }
    (match d.st with
     | .hE | .hO => .next (ack ((take s).endTransient g { d with p := false } .hS))
     | .tFS | .tFX =>
       let k := grBase f.ia f.grain.toNat
       let s := if d.needP then { s with bridge := { s.bridge with
           stale := tabSet s.bridge.stale k ((tabGet s.bridge.stale k).getD 0 + 1) } } else s
       .next ((ack (take s)).peerGone g d)
     | _ => .next (ack s))
  | none => .next (ack s)

/-! Recalls of the AK class (R335). -/

/-- The cores of clusters drop their copies of sectors. -/
def State.dropIn (s : State) (cls secs : List Nat) : State :=
  { s with cores := Vector.ofFn (fun i =>
      let k := s.cores[i]
      if cls.contains (clusterOf (BitVec.ofNat 6 i.val)) then
        { k with copies := k.copies.filter (fun e => !secs.contains e.1) } else k) }

/-- AK_RECALL_ACK: the cluster of core c has dropped its copies for the store at entry i, and acknowledges. -/
def execAkRecallAck (c : CoreId) (i : Nat) (s : State) : Out :=
  match s.bridge.swaits[i]? with
  | none => .next s
  | some x =>
    let cl := clusterOf c
    if !x.left.contains cl then .next s
    else .next ((s.dropIn [cl] x.secs).acked i { x with left := x.left.filter (· != cl) })

end Sys2Proof.Machine
end

