-- ==== Sys2Proof/Machine/Link.lean ====
section
/-! DEFINITION. The bridge link (R324, R326, R331, R332, R364 to R368): grants and snoops at the RDC, accesses of the
peer performed here, completions of this device's requests, refusals, and the ports. -/

namespace Sys2Proof.Machine

open Sys2Proof

/-! Requests of this device that end. -/

def linkReqOf (s : State) (f : Flit) : Option LinkReq := tabGet s.bridge.reqs f.tag.toNat
def State.endReq (s : State) (f : Flit) : State :=
  { s with bridge := { s.bridge with reqs := tabDel s.bridge.reqs f.tag.toNat } }

/-! Grants at the RDC (R326). -/

/-- The request of a grain that has come is over: its place in the RDC is free, unless the grain is there to stay. -/
def State.endAsk (s : State) (r : LinkReq) : Option (CoreId × Eng × Nat) × State :=
  match rdcAt s r.flit.ia with
  | some (g, x) => if isTransientRdc x.st then (x.want, s.setRdc g none) else (none, s)
  | none => (none, s)

/-- Install a grain for the access it was asked for (R326): its sectors take the place of clean shared ones; a grain that
this die owns stays. -/
def State.installGrain (s : State) (ia : Nat) (x : RdcGrain) : State :=
  let g := grBase ia x.gr
  let meets (e : Nat × RdcGrain) : Bool := bytesMeet e.1 (grSize e.2.gr) g (grSize x.gr)
  if s.bridge.rdc.any (fun e => meets e && e.2.st != .s && !isTransientRdc e.2.st) then s
  else
    let s := { s with bridge := { s.bridge with rdc := s.bridge.rdc.filter (fun e => !meets e) } }
    (s.setRdc g (some x)).touchRdc g

/-- DATAS: a shared grant (R326). Its W gains 2 on crossing (R74). -/
def execDatas (f : Flit) (s : State) : Out := if !s.bridge.up then .next s else
  match linkReqOf s f with
  | none => .next s
  | some r =>
    let (want, s) := (s.endReq f).endAsk r
    .next (s.installGrain f.ia { gr := f.grain.toNat, st := .s, data := f.data, w := f.stamp + 2, floor := 0, cc := f.cc,
                                 want := want })

/-- An exclusive grant, with its W and its floor X (R324). -/
def State.takeExclusive (s : State) (f : Flit) (st : RdcSt) : State :=
  match linkReqOf s f with
  | none => s
  | some r =>
    let (want, s) := (s.endReq f).endAsk r
    s.installGrain f.ia { gr := f.grain.toNat, st := st, data := f.data, w := f.w + 2, floor := f.stamp, cc := false, want := want }

def execDatae (f : Flit) (s : State) : Out := if !s.bridge.up then .next s else
  .next (s.takeExclusive f .e)
def execDatam (f : Flit) (s : State) : Out := if !s.bridge.up then .next s else
  .next (s.takeExclusive f .m)

/-- GNTU: the upgrade is granted, and the grain may be written (R326). -/
def execGntu (f : Flit) (s : State) : Out := if !s.bridge.up then .next s else
  match linkReqOf s f with
  | none => .next s
  | some _ =>
    let s := s.endReq f
    match rdcAt s f.ia with
    | some (g, x) => if x.st == .sM then .next ((s.setRdc g (some { x with st := .m, floor := f.stamp })).touchRdc g) else .next s
    | none => .next s

/-- WBACK: the write-back is taken (R326). -/
def execWback (f : Flit) (s : State) : Out := if !s.bridge.up then .next s else
  match linkReqOf s f with
  | none => .next s
  | some r =>
    let s := s.endReq f
    match tabGet s.bridge.rdc r.flit.ia with
    | some x => if x.st == .xI then .next (s.setRdc r.flit.ia none) else .next s
    | none => .next s

/-! Snoops at the RDC (R326). -/

def snoopReply (f : Flit) (msg g gr : Nat) : Flit :=
  { flit0 with msg := BitVec.ofNat 8 msg, port := f.port, tag := f.tag, ia := g, grain := BitVec.ofNat 2 gr }
def isDirty (x : RdcGrain) : Bool := x.st == .m || x.st == .o
/-- Every lease this die was granted on a grain has expired (R324). -/
def leasesOver (s : State) (g gr : Nat) : Bool := (leaseAt s g gr).e.toNat ≤ s.gtc.toNat

/-- The store a grain was asked for has not been applied yet: it is before a snoop takes the grain (R326). -/
def isWanted (s : State) (x : RdcGrain) : Bool :=
  x.st == .m && (match x.want with
    | some (c, e, n) => s.homeQ.any (fun a => a.core == c && a.seq == n && a.op.writes) || ((s.core c).queueOf e).any (fun o => o.id == n)
    | none => false)

/-- FWDS: the RDC gives its data and keeps a shared, or an owned, copy. -/
def State.giveShared (s : State) (f : Flit) : Bool × State :=
  match rdcAt s f.ia with
  | none => (true, s.send (snoopReply f 0x14 f.ia f.grain.toNat))
  | some (g, x) =>
    let data : Flit := { (snoopReply f 0x12 g x.gr) with dirty := isDirty x, data := x.data, w := rdcW s g x }
    if isWanted s x then (false, s)
    else match x.st with
    | .m | .o => (true, (s.send data).setRdc g (some { x with st := .o }))
    | .e => (true, (s.send data).setRdc g (some { x with st := .s }))
    | .s | .sM => (true, s.send (snoopReply f 0x13 g x.gr))
    | .xI => (true, s.send { (snoopReply f 0x14 g x.gr) with wbpend := true })
    | .iS | .iM => (true, s.send (snoopReply f 0x14 g x.gr))

/-- The copies of the AK class that live leases of this die cover are recalled at once (R335). -/
def State.recallHere (s : State) (g gr : Nat) : State :=
  let secs := sectorsOf g gr
  let l := leaseOver s secs
  if secs.all (fun n => match tabGet s.leases n with | some x => x.ak || x.e.toNat ≤ s.gtc.toNat | none => true) then
    (s.dropIn (recallSet l s.gtc) secs).modSecs secs (fun l => { l with e := wmin l.e s.gtc, m := 0 })
  else s

/-- The RDC gives a grain up: FwdX and Inv are answered once its leases have expired, or its AK copies are recalled; the
Bool is false while the snoop waits. -/
def State.giveUp (s : State) (f : Flit) (isInv : Bool) : Bool × State :=
  let ack (s : State) (g gr : Nat) : Bool × State :=
    (true, s.send (if isInv then { (snoopReply f 0x15 g gr) with stamp := s.gtc } else snoopReply f 0x14 g gr))
  match rdcAt s f.ia with
  | none =>
    let s := s.recallHere f.ia f.grain.toNat
    if leasesOver s f.ia f.grain.toNat then ack s f.ia f.grain.toNat else (false, s)
  | some (g, x) =>
    if isWanted s x || stampsPending s g (grSize x.gr) then (false, s)
    else
    let s := s.recallHere g x.gr
    let data (s : State) : State := s.send { (snoopReply f 0x12 g x.gr) with dirty := isDirty x, data := x.data, w := rdcW s g x }
    if !leasesOver s g x.gr then (false, s)
    else match x.st with
      | .m | .o | .e => (true, (data s).setRdc g none)
      | .s => if isInv then ack (s.setRdc g none) g x.gr else (true, (data s).setRdc g none)
      | .sM => ack (s.setRdc g (some { x with st := .iM, data := [] })) g x.gr
      | .xI => (true, s.send { (snoopReply f 0x14 g x.gr) with wbpend := true })
      | .iS | .iM => ack s g x.gr

/-! Accesses of the peer performed here (R332, R365). -/

/-- The bytes a strong request or a write-through store names: from which IA on, and how many. -/
def flitBytes (f : Flit) : Nat × Nat :=
  if f.msg == 0x04#8 || isBlock f then (f.ia, 64) else (f.ia, opSize f)
/-- A line of a strong request or a write-through store is transient, its stamps are pending, or it is reserved for
another (R74, R327, R328). -/
def lineBusy (s : State) (f : Flit) : Bool :=
  let (a, n) := flitBytes f
  homeAt s a == .own && ((dirIn s a n).any (fun e => isTransient e.2.st || reservedAway s f e.1 (grSize e.2.gr))
    || stampsPending s a n || reservedAway s f a n)
def lineOf (s : State) (f : Flit) : Nat := match dirAt s f.ia with | some (g, _) => g | none => grBase f.ia f.grain.toNat
def lineGr (s : State) (f : Flit) : Nat := match dirAt s f.ia with | some (_, d) => d.gr | none => f.grain.toNat

/-- The bits of a mask. -/
def maskList (m : BitVec 64) : List Bool := (List.range 64).map (fun i => m.getLsbD i)

/-- ReqWT at the home; the Bool is false while it waits. -/
def State.performWt (s : State) (x : LinkWait) : Bool × State :=
  let f := x.flit
  let who := whoPeer f x.cyc
  let done (s : State) : Bool × State := (true, s.wasServed f (lineOf s f))
  if f.mask = 0 then done (s.giveStamps who (flatStamps (x.arr + 1)))
  else match locOfIa s f.ia 0 with
  | none => done (s.giveStamps who (flatStamps (x.arr + 1)))
  | some l =>
    if stampsPending s l.key 64 || isMoving s l then (false, s)
    else match writeAt s who l 1 f.grain.toNat x.arr f.data (maskList f.mask) with
    | .done s _ _ _ => done s
    | .retry s | .mig s => (false, s)
    | .held s => (false, s.noteFault l.key none 1)

/-- The completion of a strong access: its stamp, the value it returns and the W of that. -/
def strongDone (f : Flit) (v : Nat) (w : Word) : Flit :=
  { (replyTo f 0x0C f.ia 0) with stamp := w, mask := BitVec.ofNat 64 v, w := w }

/-- The run of wanted bytes of a block from byte i on, at most n. -/
def maskRun (m : BitVec 64) : Nat → Nat → Nat
  | 0, _ => 0
  | n + 1, i => if m.getLsbD i && i < 64 then 1 + maskRun m n (i + 1) else 0

/-- Read the wanted bytes of a block, from byte i on. -/
def blockGo : Nat → State → Flit → Nat → List Byte → Word → Option (List Byte × Word) × State
  | 0, s, _, _, d, w => (some (d, w), s)
  | n + 1, s, f, i, d, w =>
    if i ≥ 64 then (some (d, w), s)
    else
      let len := maskRun f.mask (32 - i % 32) i
      if len = 0 then blockGo n s f (i + 1) (d ++ [0]) w
      else match locOfIa s (f.ia + i) 0 with
        | none => blockGo n s f (i + len) (d ++ List.replicate len 0) w
        | some l =>
          match readAt s (whoPeer f 0) l len f.grain.toNat with
          | .done s e v _ => blockGo n s f (i + len) (d ++ e) (wmax w v)
          | .retry s => (none, s)
          | .mig s => (none, s)
          | .held s => (none, s.noteFault l.key none 0)

/-- A full/empty operation of the peer at a word that is in the state it needs (R31, R124, R129). -/
def State.peerFe (s : State) (f : Flit) (l : Loc) (key : Nat) (arr : Word) : State :=
  let old := leNat (s.readMem key 8)
  let w := arr + 1
  let w0 := (leaseAt s l.key 0).w
  let s' := s.setW [l.key / 32] w
  let put (s : State) (v : Nat) : State := (s.writeMem key (leBytes 8 v)).setFull key true
  match opn f with
  | 0x11 => s.send (strongDone f old w0)
  | 0x12 => (s.setFull key false).send (strongDone f old w0)
  | 0x13 | 0x14 => (put s' f.val.toNat).send (strongDone f 0 w)
  | 0x15 => s.send { (strongDone f 0 w0) with full := isFull s key }
  | 0x16 => (s.setFull key false).send (strongDone f 0 w)
  | _ =>
    let r := flagNew old f.val.toNat
    let s := s'.writeMem key (leBytes 8 r.1)
    (if r.2 then s.setFull key true else s).send { (strongDone f old w) with w := w0 }

/-- WITHDRAW: a waiting request with the same tag is removed and answered with WD; a performed one has been answered. DEDUCED (log 55). -/
def State.withdraw (s : State) (f : Flit) : State :=
  let mine (e : LinkWait) : Bool := e.flit.msg == 0x05#8 && e.flit.tag == f.tag && e.flit.port == f.port
  if s.bridge.linkHeld.any mine then
    { s with bridge := { s.bridge with linkHeld := s.bridge.linkHeld.filter (fun e => !mine e) } }.send
      { (strongDone f 0 s.gtc) with wd := true }
  else s

/-- The bytes of view l that a read of the peer wants, the others as zero. -/
def wantedViews (f : Flit) (l : List ViewByte) : List ViewByte :=
  if isBlock f then l.zipIdx.map (fun e => if f.mask.getLsbD e.2 then e.1 else .beyond) else l

/-- A read of a view for message n of the peer: the next plane word, or the answer (R274). -/
def State.linkView (s : State) (n : Nat) (x : LinkWait) (l : List ViewByte) (p : Nat) (cl : Leaf) : Bool × State :=
  let f := x.flit
  match nextPlane s (whoPeer f x.cyc) l p cl x.got with
  | .ready =>
    let d := l.map (viewFrom x.got.bytes)
    (true, (s.send (if isBlock f then { (strongDone f 0 x.got.w) with data := d } else strongDone f (leNat d) x.got.w)).wasServed f
      (lineOf s f))
  | .wait s => (false, s)
  | .more s g => (false, { s with bridge := { s.bridge with linkHeld := setNth s.bridge.linkHeld n { x with got := g } } })

/-- Perform strong access n of the peer; the Bool is false while it waits. -/
def State.performStrong (s : State) (n : Nat) (x : LinkWait) : Bool × State :=
  let f := x.flit
  let who := whoPeer f x.cyc
  let served (s : State) : Bool × State := (true, s.wasServed f (lineOf s f))
  let none_ (s : State) : Bool × State := served (s.send (strongDone f 0 (x.arr + 1)))
  match locOfIa s f.ia 0 with
  | none => none_ s
  | some l =>
    let fromHome (r : HRes) (go : State → List Byte → Word → State) : Bool × State :=
      match r with
      | .done s d w _ => served (go s d w)
      | .retry s | .mig s => (false, s)
      | .held s => (false, s.noteFault l.key none (if opn f == 0x0F then 0 else 1))
    if stampsPending s l.key (flitBytes f).2 || isMoving s l then (false, s)
    else if opn f == 0x0F then
      match viewAt s l.key (flitBytes f).2 with
      | some (v, p, cl) => s.linkView n x (wantedViews f v) p cl
      | none =>
      if isBlock f then
        match blockGo 64 s f 0 [] 0 with
        | (some (d, w), s) => served (s.send { (strongDone f 0 w) with data := d })
        | (none, s) => (false, s)
      else fromHome (readAt s who l (opSize f) f.grain.toNat) (fun s d w => s.send (strongDone f (leNat d) w))
    else if opn f == 0x10 then
      fromHome (writeAt s who l 1 f.grain.toNat x.arr (leBytes (opSize f) f.val.toNat)) (fun s _ _ => s)
    else if opn f ≤ 0x0A then
      fromHome (updateAt s who l (opSize f) 1 f.grain.toNat x.arr
        (fun o => rmwNew (opn f) (opSize f) o f.val.toNat f.repl.toNat)) (fun s _ _ => s)
    else
      match l with
      | .spad n o =>
        (match spadPlace s n o 8 with
         | none => none_ (s.dropAt who n o)
         | some key => if peerFeReady s (opn f) key then served (s.peerFe f l key x.arr) else (false, s))
      | _ => none_ s

/-! Messages of the peer as they arrive, and as they wait (R69, R327, R329). -/

/-- Message n of the peer is tried; it keeps its place while it waits. -/
def State.linkTry (s : State) (n : Nat) : State :=
  match s.bridge.linkHeld[n]? with
  | none => s
  | some x =>
    let f := x.flit
    let strong (go : State → Bool × State) : Bool × State :=
      if lineBusy s f then (true, s.refuse f (lineOf s f) (lineGr s f))
      else if linkTurn s n x then s.asHolder f (lineOf s f) go
      else (false, s)
    let r := match f.msg.toNat with
      | 0x01 | 0x02 | 0x03 => let g := (linkGrain s f).1; s.asHolder f g (fun t => t.linkReq n x)
      | 0x04 => strong (fun t => t.performWt x)
      | 0x05 => strong (fun t => t.performStrong n x)
      | 0x0F => s.giveShared f
      | 0x10 => s.giveUp f false
      | 0x11 => s.giveUp f true
      | _ => (true, s)
    if r.1 then { r.2 with bridge := { r.2.bridge with linkHeld := delNth r.2.bridge.linkHeld n } } else r.2

/-- A message of the peer arrives at its home, and is taken when nothing is before it. -/
def State.linkArrives (s : State) (f : Flit) : State :=
  let (_, n, s) := s.arrive (if f.port then 3 else 2)
  (s.holdFlit f n).linkTry s.bridge.linkHeld.length

def execReqs (f : Flit) (s : State) : Out := if !s.bridge.up then .next s else .next (s.linkArrives { f with msg := 0x01 })
def execReqx (f : Flit) (s : State) : Out := if !s.bridge.up then .next s else .next (s.linkArrives { f with msg := 0x02 })
def execRequ (f : Flit) (s : State) : Out := if !s.bridge.up then .next s else .next (s.linkArrives { f with msg := 0x03 })
def execReqwt (f : Flit) (s : State) : Out := if !s.bridge.up then .next s else .next (s.linkArrives { f with msg := 0x04 })
def execFwds (f : Flit) (s : State) : Out := if !s.bridge.up then .next s else .next (s.linkArrives { f with msg := 0x0F })
def execFwdx (f : Flit) (s : State) : Out := if !s.bridge.up then .next s else .next (s.linkArrives { f with msg := 0x10 })
def execInv (f : Flit) (s : State) : Out := if !s.bridge.up then .next s else .next (s.linkArrives { f with msg := 0x11 })

/-- A flit that breaks its format is dropped and recorded, and its port retrains (R364). -/
def State.badFlit (s : State) (port : Bool) : State :=
  let s := s.report { code := 0x010E, sev := 2, src := 12, ctx := none, eng := 7, tix := 0, gstat := 0, addr := none, data := none,
                      wher := some (if port then 1 else 0) }
  let train (v : Word) : Word := w64 (setBits v.toNat 1 0 1)
  { s with bridge := if port then { s.bridge with port1 := false, brstat1 := train s.bridge.brstat1 }
                     else { s.bridge with port0 := false, brstat0 := train s.bridge.brstat0 } }

/-- ReqStrong (R365): a reserved operation is a broken flit. -/
def execReqstrong (f : Flit) (s : State) : Out := if !s.bridge.up then .next s else
  let f := { f with msg := 0x05 }
  if opn f == 0x18 then .next (s.withdraw f)
  else if (0x0B ≤ opn f && opn f ≤ 0x0E) || 0x19 ≤ opn f || wbits (f.opf.zeroExtend 64) 15 12 ≠ 0 then .next (s.badFlit f.port)
  else .next (s.linkArrives f)

/-! Completions of this device's accesses. -/

def entryOf (s : State) (r : LinkReq) : Option Acc := s.homeQ.find? (fun a => a.asked && a.core == r.core && a.seq == r.seq)
def State.dropAcc (s : State) (a : Acc) : State :=
  { s with homeQ := s.homeQ.filter (fun e => !(e.asked && e.core == a.core && e.seq == a.seq)) }

/-- The bytes of this die's own part of a request. -/
def LinkReq.secs (r : LinkReq) : List Nat := sectorsOf r.flit.ia 0 (flitBytes r.flit).2
/-- A store performed at the peer: this die's own part of its stamps, and the peer's Vsystem plus 2 (R74, R82); in the AK
class this die's copies are recalled (R335). -/
def State.closePeer (s : State) (r : LinkReq) (cls : Nat) (arr v : Word) : State :=
  let who : Who := { core := r.core, eng := r.eng, seq := r.seq }
  if homeAt s r.flit.ia == .peer then s.stampOwn who r.secs cls arr [] (v + 2) else s.giveStamps who (flatStamps (v + 2))

/-- CMPWT: a write-through store's stamps return (R324). -/
def execCmpwt (f : Flit) (s : State) : Out := if !s.bridge.up then .next s else
  match linkReqOf s f with
  | none => .next s
  | some r =>
    let s := s.endReq f
    match entryOf s r with
    | some a =>
      .next (((s.dropAcc a).closePeer r a.cls a.arr f.stamp).partDone a)
    | none => .next (s.closePeer r r.cls r.arr f.stamp)

/-- A withdrawn access leaves no effect; its instruction will issue again (R365). -/
def State.unissue (s : State) (a : Acc) : State :=
  (s.dropAcc a).modCore a.core (fun k =>
    let k := match k.wait with
      | some (.home n w) => if n == a.seq then
          { (k.setReserved w.push (k.reserved w.push - (if w.push == 0 then 0 else 1))) with wait := none } else k
      | _ => k
    let lost := k.groups.filter (fun g => g.id == a.grp)
    { k with
      busyS := k.busyS.filter (fun n => lost.all (fun g => match g.dest with | .sreg r _ => r.toNat != n | _ => true)),
      groups := k.groups.filter (fun g => g.id != a.grp), stamps := k.stamps.filter (fun e => e.seq != a.seq) })

/-- A core's strong access completes with what the peer answered. -/
def State.strongAnswer (s : State) (r : LinkReq) (a : Acc) (f : Flit) : State :=
  let v := leBytes 8 f.mask.toNat
  let w := f.w + 2
  let s := s.dropAcc a
  let s := if a.op.writes then s.modCore a.core (fun k => { k with copies := match a.op with
      | .rmw .. => dropCopies k.copies (s.keyNow a.loc) a.len
      | _ => k.copies }) else s
  let st (s : State) : State := s.closePeer r a.cls a.arr f.stamp
  match a.op with
  | .load | .wload .. =>
    let block := f.data.drop ((match a.loc with | .ia x => x | l => l.key) % 64)
    s.answer a (if isBlock r.flit then block.take a.len else v.take a.len) w false
  | .rmw _ size _ _ ret => if ret then (st s).answer a (v.take size) w false else (st s).partDone a
  | .ldf _ => s.answer a v w false
  | .flagadd _ => (st s).answer a v w false
  | .feq => s.answer a [if f.full then 1 else 0] w false
  | .feclr _ => s.partDone a
  | _ => (st s).partDone a

/-- An engine's strong request completes: a block read appends its bytes, an operation its value, a write its stamps. -/
def State.strongEngine (s : State) (r : LinkReq) (f : Flit) : State :=
  let wanted := ((List.range 64).filter (fun i => r.flit.mask.getLsbD i)).map (fun i => f.data.getD i 0)
  if isBlock r.flit then
    (s.readStamp r.core r.eng r.seq (f.w + 2)).modCore r.core (fun k => k.modOp r.eng r.seq (fun o =>
      { o with buf := o.buf ++ wanted, sent := false }))
  else
    let s := if opn r.flit == 0x0F then s.readStamp r.core r.eng r.seq (f.w + 2)
      else s.closePeer r r.cls r.arr f.stamp
    s.modCore r.core (fun k => k.modOp r.eng r.seq (fun o =>
      { o with cap := if r.flit.opf.getLsbD 5 then o.cap else o.cap ++ [f.mask.toNat], sent := false }))

/-- CMPSTRONG (R365). -/
def execCmpstrong (f : Flit) (s : State) : Out := if !s.bridge.up then .next s else
  match linkReqOf s f with
  | none => .next s
  | some r =>
    let s := s.endReq f
    match entryOf s r with
    | some a => if f.wd then .next (s.unissue a) else .next (s.strongAnswer r a f)
    | none => .next (s.strongEngine r f)

/-! Refusals of this device's requests (R327). -/

/-- The back-off after k earlier refusals. -/
def backOff (k : Nat) : Nat := 64 * 2 ^ min k 6

def execRefuse (f : Flit) (s : State) : Out := if !s.bridge.up then .next s else
  match linkReqOf s f with
  | none => .next s
  | some r =>
    let k := f.opf.toNat
    .next { s with bridge := { s.bridge with
      reqs := tabSet s.bridge.reqs f.tag.toNat { r with k := k + 1, retry := some (s.gtc + w64 (backOff k)) } } }

/-- REFUSE_RETRY: the request with tag i is sent again once its back-off has passed. -/
def execRefuseRetry (i : Nat) (s : State) : Out :=
  match tabGet s.bridge.reqs i with
  | some r =>
    (match r.retry with
     | some t =>
       if t.toNat ≤ s.gtc.toNat then
         .next ({ s with bridge := { s.bridge with reqs := tabSet s.bridge.reqs i { r with retry := none } } }.send r.flit)
       else .next s
     | none => .next s)
  | none => .next s

/-! Flits (R364). -/

/-- The fields that R364 marks 0 for a message: the mask, the value and the replacement it does not carry. -/
def strayField (msg opf mask val repl : Nat) : Bool :=
  let opn := if msg = 0x05 then opf % 32 else 0x0F
  (mask ≠ 0 && !(msg = 0x04 || msg = 0x0C || (msg = 0x05 && bits opf 8 6 = 7)))
    || (val ≠ 0 && !(opn ≤ 0x0A || [0x10, 0x13, 0x14, 0x17].contains opn)) || (repl ≠ 0 && opn ≠ 9)
    || (opf ≠ 0 && msg ≠ 0x05 && msg ≠ 0x0D)

/-- The message of raw flits; none where the format is broken. A W that no byte carries is a free value, at most the stamp
or floor that one does. DESIGN CHOICE (log 72). -/
def flitOf (port : Bool) (raw : List Byte) (n : Nat) : Option Flit :=
  let at_ (i n : Nat) : Nat := leNat ((raw.drop i).take n)
  let ndat := bits (at_ 1 1) 5 2
  let b7 := at_ 4 7
  let fl := at_ 11 1
  let msg := at_ 0 1
  if raw.length ≠ 64 * (1 + ndat) || msg = 0 || 0x15 < msg || ndat > 8 || at_ 1 1 / 64 ≠ 0 || bits (at_ 2 2) 15 12 ≠ 0
      || b7 / 2 ^ 54 ≠ 0 || fl / 64 ≠ 0 || (raw.drop 46).take 18 != List.replicate 18 0
      || strayField msg (at_ 28 2) (at_ 20 8) (at_ 30 8) (at_ 38 8) then none
  else
    some { msg := BitVec.ofNat 8 msg, port := port, tag := BitVec.ofNat 12 (at_ 2 2), ia := b7 % 2 ^ 52,
           grain := BitVec.ofNat 2 (b7 / 2 ^ 52), cc := fl.testBit 0, conv := fl.testBit 1, wbpend := fl.testBit 2,
           dirty := fl.testBit 3, full := fl.testBit 4, wd := fl.testBit 5, stamp := w64 (at_ 12 8),
           mask := BitVec.ofNat 64 (at_ 20 8), opf := BitVec.ofNat 16 (at_ 28 2), val := w64 (at_ 30 8), w := wmin (w64 (at_ 12 8)) (Config.freeWord n),
           repl := w64 (at_ 38 8), data := (raw.drop 64).take (if msg = 0x04 || msg = 0x05 || msg = 0x0C then 64
             else grSize (b7 / 2 ^ 52 % 4)) }

/-- The step a message stands for. -/
def runMsg (f : Flit) (s : State) : Out :=
  match f.msg.toNat with
  | 0x01 => execReqs f s | 0x02 => execReqx f s | 0x03 => execRequ f s | 0x04 => execReqwt f s | 0x05 => execReqstrong f s
  | 0x06 => execWb f s | 0x07 => execDatas f s | 0x08 => execDatae f s | 0x09 => execDatam f s | 0x0A => execGntu f s
  | 0x0B => execCmpwt f s | 0x0C => execCmpstrong f s | 0x0D => execRefuse f s | 0x0E => execWback f s | 0x0F => execFwds f s
  | 0x10 => execFwdx f s | 0x11 => execInv f s | 0x12 => execSnprspdata f s | 0x13 => execSnprsps f s
  | 0x14 => execSnprspi f s | 0x15 => execInvack f s | _ => .next s

/-- LINK_FLIT: flits arrive at a port; a sound message acts, a broken one is dropped and recorded. DESIGN CHOICE (log 1). -/
def execLinkFlit (port : Bool) (raw : List Byte) (s : State) : Out :=
  if !s.bridge.up then .next s
  else match flitOf port raw s.free with
    | some f => runMsg f { s with free := s.free + 1 }
    | none => .next (s.badFlit port)

/-! The bridge and its ports (R366 to R368). -/

/-- BRSTAT's ST and PEER fields. -/
def brWord (v : Word) (st : Nat) (peer : Bool) : Word := w64 (v.toNat / 2 ^ 32 * 2 ^ 32 + (if peer then 4 else 0) + st)
def State.setBr (s : State) (st : Nat) (peer : Bool) : State :=
  { s with bridge := { s.bridge with brstat0 := brWord s.bridge.brstat0 st peer, brstat1 := brWord s.bridge.brstat1 st peer } }

/-- The next multiple of n after a tick. -/
def nextMultiple (t : Word) (n : Nat) : Word := w64 ((t.toNat / n + 1) * n)

/-- BRIDGE_UP: between devices whose DEVNUM differs; device 1 takes device 0's GTC, with no open context, or the bridge
stays in training (R367). -/
def execBridgeUp (peer : Bool) (peerGtc : Word) (s : State) : Out :=
  if s.bridge.up || peer == s.devnum then .next s
  else if s.devnum && s.ctxs.any (·.isOpen) then .next (s.setBr 1 peer)
  else
    let s := if s.devnum then { s with gtc := peerGtc, cyc := 0, rank := 0 } else s
    .next ({ s with bridge := { s.bridge with
      up := true, port0 := true, port1 := true, wheelNext := some (128, nextMultiple s.gtc 512) } }.setBr 2 peer)

/-- WHEEL_RESIZE: the slot wheel changes at its multiple (R367, R368). -/
def execWheelResize (s : State) : Out :=
  match s.bridge.wheelNext with
  | some (n, t) =>
    if t.toNat ≤ s.gtc.toNat then .next { s with bridge := { s.bridge with wheel := n, wheelNext := none } } else .next s
  | none => .next s

/-- A record of a lost access or grain. -/
def State.peerLost (s : State) (addr : Nat) : State :=
  s.report { code := 0x010F, sev := 2, src := 12, ctx := none, eng := 7, tix := 0, gstat := 0, addr := some addr, data := none,
             wher := none }

/-- An access that waits for the peer ends: a load with zero data and poison; a store, RED or AMO with a record, its stamps
closed. DEDUCED (log 55). -/
def State.loseAcc (s : State) (a : Acc) : State :=
  let s := { s with homeQ := s.homeQ.filter (fun e => e != a) }
  let close (s : State) : State := (s.peerLost (s.keyNow a.loc)).giveStamps (whoOf a) (flatStamps (s.gtc + 1))
  let n := match a.op with | .wload _ _ n => n | .feq => 1 | _ => a.len
  match a.op with
  | .load | .wload .. | .ldf _ | .feq => s.answer a (List.replicate n 0) 0 true
  | .rmw _ size _ _ true => let x := s.freshWord; (close x.2).answer a (leBytes size x.1.toNat) 0 false
  | .flagadd _ => let x := s.freshWord; (close x.2).answer a (leBytes 8 x.1.toNat) 0 false
  | .fill _ => s
  | _ => (close s).partDone a

/-- One outstanding request ends when the bridge goes down (R368): with the access it was sent for; an X operation with
ENGINE_FAULT. DEDUCED (log 55). -/
def State.loseReq (s : State) (r : LinkReq) : State :=
  match entryOf s r with
  | some a => s.loseAcc a
  | none =>
    match r.flit.msg.toNat with
    | 0x01 | 0x02 | 0x03 | 0x06 => s
    | _ =>
      let wr := r.flit.msg == 0x04#8 || opn r.flit != 0x0F
      let s := if wr then
          (s.peerLost r.flit.ia).giveStamps { core := r.core, eng := r.eng, seq := r.seq } (flatStamps (s.gtc + 1)) else s
      s.modCore r.core (fun k => k.modOp r.eng r.seq (fun o =>
        if r.eng == .x then { (o.fail .rangeFault) with sent := false }
        else { o with buf := o.buf ++ List.replicate ((List.range 64).countP (fun i => r.flit.mask.getLsbD i)) 0, sent := false }))

/-- The accesses that wait in the RDC for a grain of the peer. -/
def waitsForGrain (s : State) (a : Acc) : Bool :=
  match s.now a.loc with
  | .ia x => !a.asked && homeAt s x == .peer && (match rdcAt s x with | some (_, g) => isTransientRdc g.st || g.st == .xI | none => false)
  | _ => false

/-- Poison the words of a grain at the home, whatever its tier (R368). DEDUCED (log 34). -/
def State.poisonGrain (s : State) (g n : Nat) : State :=
  match leafOf s g with
  | some (m, l) =>
    let o := g % 2 ^ 48 - m * 65536
    { s with poison := (leafKeys l ((List.range n).map (· + o))).foldl (fun t k => setAdd t (k / 64)) s.poison }
  | none => s

/-- A transient entry does not grant what the peer asked for. -/
def Dir.dropPeer (d : Dir) : Dir :=
  { d with p := false, needP := false, next := none, req := if d.req.any (·.flit.isSome) then none else d.req }

/-- What the home does with one directory entry when the bridge goes down: a copy that may be dirty is lost; P clears;
a transient entry goes on as after SnpRspI. -/
def State.loseDir (s : State) (g : Nat) (d : Dir) : State :=
  let e := d.dropPeer
  match d.st with
  | .hE => (s.poisonGrain g (grSize d.gr)).setDir g none
  | .hO => (s.poisonGrain g (grSize d.gr)).endTransient g e .hS
  | .hS => s.endTransient g e .hS
  | .tFS | .tFX => (s.poisonGrain g (grSize d.gr)).endTransient g e .hS
  | .tInv => s.invAcked g e
  | .tBS => s.setDir g (some e)
  | .hA => s

/-- Both ports are down: the bridge is down (R368). DEDUCED (log 55). -/
def State.bridgeDown (s : State) : State :=
  let reqs := s.bridge.reqs.map (fun (e : Nat × LinkReq) => e.2)
  let s := { s with bridge := { s.bridge with up := false, reqs := [], linkHeld := [], waiters := [], resv := [], stale := [] } }
  let lost := s.homeQ.filter (waitsForGrain s)
  let s := lost.foldl (fun s a => s.loseAcc a) (reqs.foldl (fun s r => s.loseReq r) s)
  let peers := s.bridge.rdc.filter (fun e => !isHostIa e.1)
  let s := peers.foldl (fun s e => if isDirty e.2 || e.2.st == .xI then s.peerLost e.1 else s) s
  let s := { s with bridge := { s.bridge with rdc := s.bridge.rdc.filter (fun e => isHostIa e.1) } }
  let s := s.bridge.dir.foldl (fun s e => s.loseDir e.1 e.2) s
  { (s.setBr 0 (!s.devnum)) with bridge := { (s.setBr 0 (!s.devnum)).bridge with wheelNext := some (64, nextMultiple s.gtc 256) } }

/-- A port's flits go again on the other one (R368). DEDUCED (log 55). -/
def State.resend (s : State) (port : Bool) : State :=
  let mine := s.bridge.reqs.filter (fun e => e.2.flit.port == port && e.2.retry.isNone)
  let n := mine.length
  let count (v : Word) : Word := w64 (min (2 ^ 32 - 1) (v.toNat / 2 ^ 32 + n) * 2 ^ 32 + v.toNat % 2 ^ 32)
  let move (r : LinkReq) : LinkReq := { r with flit := { r.flit with port := !port } }
  let b := { s.bridge with
    reqs := s.bridge.reqs.map (fun (e : Nat × LinkReq) => if e.2.flit.port == port then (e.1, move e.2) else e),
    out := s.bridge.out ++ mine.map (fun (e : Nat × LinkReq) => (move e.2).flit) }
  { s with bridge := if port then { b with brstat0 := count b.brstat0 } else { b with brstat1 := count b.brstat1 } }

/-- PORT_DOWN (R368). -/
def execPortDown (port : Bool) (s : State) : Out :=
  let b := s.bridge
  let was := if port then b.port1 else b.port0
  let st (v : Word) : Word := w64 (setBits v.toNat 1 0 0)
  let b := if port then { b with port1 := false, brstat1 := st b.brstat1 } else { b with port0 := false, brstat0 := st b.brstat0 }
  let s := { s with bridge := b }
  if !b.up then .next s
  else if !b.port0 && !b.port1 then .next s.bridgeDown
  else if was then .next (s.resend port) else .next s

/-- PORT_UP: a port that was down or in training carries traffic again (R366). -/
def execPortUp (port : Bool) (s : State) : Out :=
  let b := s.bridge
  if !b.up then .next s
  else
    let up (v : Word) : Word := w64 (setBits v.toNat 1 0 2)
    .next { s with bridge := if port then { b with port1 := true, brstat1 := up b.brstat1 }
                             else { b with port0 := true, brstat0 := up b.brstat0 } }

end Sys2Proof.Machine
end

