-- ==== Sys2Proof/Machine/HostPort.lean ====
section
/-! DEFINITION. The host port (R325, R330, R333, R334, R353, R363): CXL.mem requests at the home, the host's answers to
back-invalidations, and the host as home of its own memory under CXL.cache. -/

namespace Sys2Proof.Machine

open Sys2Proof

/-- The host reaches device memory: start-up is over and the decoder's 512 GiB hold the IA (R363, R369). DEDUCED (log 41). -/
def hdmHas (s : State) (ia : Nat) : Bool := s.base.stg == 3 && homeAt s ia == .own && ia % 2 ^ 48 < 2 ^ 39

/-- What one directory entry asks of a host request before it can be served: nothing, or the state in which the request
waits. own says that the host takes the line exclusively; then what the host held itself stays with it (R325). DEDUCED (log 38). -/
def hostPrep (s : State) (w : Who) (own : Bool) (e : Nat × Dir) : Option State :=
  let g := e.1
  let d := e.2
  let start (t : State) : Option State := some (if isReserved s g then s else t)
  let inv : Option State := start ((s.snoop 0x11 g d.gr).setDir g (some ({ d with p := true }.turn .tInv (some w) true false)))
  match d.st with
  | .hS => if own && d.p then inv else none
  | .hE => start ((s.snoop (if own then 0x10 else 0x0F) g d.gr).setDir g (some (d.turn (if own then .tFX else .tFS) (some w) true false)))
  | .hO => if own then inv else none
  | .hA => none
  | _ => some s

/-- The directory records what the host now holds of a line: the sharer bit H, or H-A. DEDUCED (log 39). -/
def State.hostHolds (s : State) (ia : Nat) (own : Bool) : State :=
  let es := dirIn s ia 64
  let fresh (gr : Nat) : Dir :=
    { gr := gr, st := if own then .hA else .hS, p := false, h := true, needP := false, needH := false, req := none,
      next := none }
  let s := es.foldl (fun s e => match e.2.st with
    | .hA => s
    | _ => s.setDir e.1 (some (if own then { e.2 with st := .hA, p := false, h := true } else { e.2 with h := true }))) s
  if es.isEmpty && (dirIn s (grBase ia 1) 128).isEmpty then s.setDir (grBase ia 1) (some (fresh 1))
  else [ia, ia + 32].foldl (fun s a => if (dirAt s a).isSome then s else s.setDir a (some (fresh 0))) s

/-- The host holds nothing of a line any more. A grain larger than the line keeps its entry. -/
def State.hostLeaves (s : State) (ia : Nat) : State :=
  (dirIn s ia 64).foldl (fun s e =>
    if grSize e.2.gr > 64 then s
    else match e.2.st with
      | .hA => s.setDir e.1 none
      | .hS => s.setDir e.1 (if e.2.p then some { e.2 with h := false } else none)
      | .hO => s.setDir e.1 (some { e.2 with h := false })
      | _ => s) s

/-- The completion of a host read, or of an invalidation, which takes no data. -/
def State.hostReply (s : State) (h : HostMsg) (withData : Bool) (mv : MetaValue) (d : List Byte) (p : Bool) : Bool × State :=
  (true, { (s.toHost (.cmp h.tag mv (if withData then d else []) (withData && p))) with free := s.free + 1 })

/-- Host request n reads a view: the next plane word, or the answer, after which the line is taken back (R274, R315). -/
def State.hostView (s : State) (n : Nat) (x : HostWait) (h : HostMsg) (withData : Bool) (l : List ViewByte) (p : Nat) (cl : Leaf) :
    Bool × State :=
  match nextPlane s (whoHost x.req x.cyc) l p cl x.got with
  | .ready =>
    let g := grBase (lineBase h) 1
    let t := s.hostReply h withData .shared (l.map (viewFrom x.got.bytes)) x.got.poison
    (true, (t.2.toHost (.bisnpInv g)).setDir g (some
      { gr := 1, st := .tInv, p := false, h := true, needP := false, needH := true, req := none, next := none }))
  | .wait s => (false, s)
  | .more s g => (false, { s with bridge := { s.bridge with hostWait := setNth s.bridge.hostWait n { x with got := g } } })

/-- Host request n is a read or an invalidation, with its data or without (R325, R332, R333); the Bool is false while it waits. PRESUMED (log 40). -/
def State.hostGet (s : State) (n : Nat) (x : HostWait) (h : HostMsg) (withData : Bool) : Bool × State :=
  let ia := lineBase h
  let w := whoHost x.req x.cyc
  let reply (s : State) : MetaValue → List Byte → Bool → Bool × State := s.hostReply h withData
  match pageKeys s ia 64 false with
  | .fault => (false, s.noteFault ia none 0)
  | .mig | .collapse _ => (false, s)
  | .view vs p cl =>
    (match dirLoads s w (dirIn s ia 64) with
     | .wait s | .inval s _ => (false, s)
     | .go s => s.hostView n x h withData vs p cl)
  | .keys ks cc =>
    let own := h.mv == .any && !cc
    match (dirIn s ia 64).findSome? (hostPrep s w own) with
    | some s => (false, s)
    | none =>
      let s := if withData then countAccess s ia false else s
      let d := homeBytes s ia ks
      let p := ks.any (isPoison s)
      match h.mv with
      | .inv => reply (if withData then s else s.hostLeaves ia) .inv d p
      | _ => reply (s.hostHolds ia own) (if own then .any else .shared) d p

/-- A host write (R325, R333): performed at the home; the Bool is false while it waits. DEDUCED (log 38). PRESUMED (log 40). -/
def State.hostStore (s : State) (x : HostWait) (h : HostMsg) : Bool × State :=
  let w := whoHost x.req x.cyc
  let es := dirIn s (lineBase h) 64
  let cmp (s : State) (p : Bool) : Bool × State := (true, s.toHost (.cmp h.tag .inv [] p))
  match pageKeys s h.ia 1 true with
  | .fault => cmp (s.noteFault h.ia none 1) true
  | .mig => (false, s)
  | _ =>
    let want (e : Nat × Dir) : Option State := match e.2.st with
      | .hS | .hO => if isReserved s e.1 then some s else none
      | _ => hostPrep s w true e
    match es.findSome? want with
    | some s => (false, s)
    | none =>
      let held := es.filter (fun e => e.2.st == .hA)
      let lift (s : State) : State := held.foldl (fun s (e : Nat × Dir) => s.setDir e.1 none) s
      let put (s : State) : State := held.foldl (fun s (e : Nat × Dir) => s.setDir e.1 (some e.2)) s
      match writeIa (lift s) w h.ia 1 0 x.arr h.data with
      | .done s _ _ _ =>
        let s := put s
        let cc := match leafOf s h.ia with | some (_, l) => lCc l || lView l | none => false
        let s := if es.any (fun e => e.2.st != .hA) then s
          else match h.mv with
            | .any => s.hostHolds (lineBase h) (!cc)
            | .shared => (s.hostLeaves (lineBase h)).hostHolds (lineBase h) false
            | .inv => s.hostLeaves (lineBase h)
        cmp s false
      | .retry t => (false, put t)
      | .mig _ | .held _ => (false, s)

/-- A host snoop of a line of host memory (R334): SnpData leaves a shared copy, SnpInv none, once its leases are over. DEDUCED (log 38). -/
def State.hostSnoop (s : State) (h : HostMsg) : Bool × State :=
  let keep := h.mv == .shared
  let reply (s : State) (d : List Byte) (dirty : Bool) : State := s.toHost (.snoopRsp h.ia d dirty)
  match rdcAt s h.ia with
  | none =>
    let s := if keep then s else s.recallHere h.ia 0
    if keep || leasesOver s h.ia 0 then (true, reply s [] false) else (false, s)
  | some (g, x) =>
    if isWanted s x || (!keep && stampsPending s g (grSize x.gr)) then (false, s)
    else
    let s := if keep then s else s.recallHere g x.gr
    if !keep && !leasesOver s g x.gr then (false, s)
    else (true, match x.st with
      | .m | .o | .e => (reply s x.data (isDirty x)).setRdc g (if keep then some { x with st := .s } else none)
      | .s => (reply s [] false).setRdc g (if keep then some x else none)
      | .sM => (reply s [] false).setRdc g (some (if keep then x else { x with st := .iM, data := [] }))
      | _ => reply s [] false)

/-- The host's write is the data of a snoop it is about to answer (R333). -/
def isSnoopData (s : State) (h : HostMsg) : Bool := (dirIn s (lineBase h) 64).any (fun e => e.2.needH && isTransient e.2.st)

/-- The host request at place n is tried in its turn (R69, R329); it keeps its place while it waits. A page fault holds a
read from now on (R353). -/
def State.hostTry (s : State) (n : Nat) : State :=
  match s.bridge.hostWait[n]? with
  | none => s
  | some x =>
    let turn := x.arr.toNat ≤ s.gtc.toNat && headsQueue s (s.homeQ.length + s.bridge.linkHeld.length + n)
    let r : Bool × State := match x.req with
      | .snoop h => s.hostSnoop h
      | .memWr h =>
        if isSnoopData s h then (true, (s.homeTake h.ia h.data).toHost (.cmp h.tag .inv [] false))
        else if turn && !stampsPending s (lineBase h) 64 then s.hostStore x h else (false, s)
      | .memRd h | .memRdData h => if turn && !stampsPending s (lineBase h) 64 then s.hostGet n x h true else (false, s)
      | .memInv h => if turn && !stampsPending s (lineBase h) 64 then s.hostGet n x h false else (false, s)
    let faults := !r.1 && turn && (match pageKeys s (lineOfReq x.req) 64 false with | .fault => true | _ => false)
      && (match x.req with | .snoop _ | .memWr _ => false | _ => true)
    let y := (r.2.bridge.hostWait[n]?).getD x
    let x' : HostWait := { y with since := if faults then some (x.since.getD s.gtc) else none }
    { r.2 with bridge := { r.2.bridge with
        hostWait := if r.1 then delNth r.2.bridge.hostWait n else setNth r.2.bridge.hostWait n x' } }

/-- A host request arrives, and is taken when nothing is before it. DEDUCED (log 41). -/
def State.hostArrives (s : State) (q : HostReq) : State :=
  let (t, n, s) := s.arrive 4
  let x : HostWait := { req := q, since := none, arr := t, cyc := n }
  ({ s with bridge := { s.bridge with hostWait := s.bridge.hostWait ++ [x] } } : State).hostTry s.bridge.hostWait.length

/-- DESIGN CHOICE (log 1). PRESUMED (log 40). -/
def execMemrd (h : HostMsg) (s : State) : Out := if hdmHas s h.ia then .next (s.hostArrives (.memRd h)) else .next s
/-- PRESUMED (log 40). -/
def execMemrddata (h : HostMsg) (s : State) : Out := if hdmHas s h.ia then .next (s.hostArrives (.memRdData h)) else .next s
/-- PRESUMED (log 40). -/
def execMeminv (h : HostMsg) (s : State) : Out := if hdmHas s h.ia then .next (s.hostArrives (.memInv h)) else .next s
/-- PRESUMED (log 40). -/
def execMemwr (h : HostMsg) (s : State) : Out := if hdmHas s h.ia then .next (s.hostArrives (.memWr h)) else .next s
def execHostSnoop (h : HostMsg) (s : State) : Out := if isHostIa h.ia then .next (s.hostArrives (.snoop h)) else .next s

/-! Answers to back-invalidations (R325, R333). -/

/-- The host acknowledges BISnpData or BISnpInv. -/
def State.biAck (s : State) (ia : Nat) : State :=
  match dirAt s ia with
  | none => s
  | some (g, d) =>
    if !d.needH then s
    else match d.st with
      | .tBS => s.endTransient g { d with h := true } .hS
      | .tInv => s.invAcked g { d with h := false, needH := false }
      | _ => s

def execBirspi (h : HostMsg) (s : State) : Out := .next (s.biAck h.ia)
def execBirsps (h : HostMsg) (s : State) : Out := .next (s.biAck h.ia)
def execBirspe (h : HostMsg) (s : State) : Out := .next (s.biAck h.ia)

/-- BICONFLICT: the handshake is answered in arrival order; the request it concerns waits behind the transient. -/
def execBiconflict (h : HostMsg) (s : State) : Out := .next (s.toHost (.biconflictAck h.ia))

/-! Lines of host memory (R334). -/

/-- CXL_CACHE_COMPLETION: the host grants a line; a store's Vsystem is at least the completion's tick plus 2. DEDUCED (log 39). -/
def execCxlCacheCompletion (h : HostMsg) (s : State) : Out :=
  match rdcAt s h.ia with
  | none => .next s
  | some (g, x) =>
    let d := if h.data.isEmpty && x.st == .sM then x.data else h.data
    if !isHostIa g || !isTransientRdc x.st then .next s
    else if h.mv == .inv || d.length ≠ grSize x.gr then .next (s.setRdc g none)
    else .next ((s.setRdc g (some { x with
      st := if h.mv == .shared then .s else if x.st == .iS then .e else .m, data := d, w := s.gtc, floor := s.gtc })).touchRdc g)

end Sys2Proof.Machine
end

