-- ==== Sys2Proof/Machine/Xlat.lean ====
section
/-! DEFINITION. Translation (R350 to R358): the commands of unit T, accesses held on a page fault, and the migration
engine. -/

namespace Sys2Proof.Machine

open Sys2Proof

/-! Leaves and frames. -/

def State.setLeaf (s : State) (n : Nat) (l : Option Leaf) : State :=
  { s with xlat := { s.xlat with pages := tabPut s.xlat.pages n l } }
/-- The leaf that maps an IA of this device's home node. -/
def ownLeaf (s : State) (ia : Nat) : Option (Nat × Leaf) := if homeAt s ia == .own then leafOf s ia else none
def pageSize (w0 : Word) : Nat := if w0.getLsbD 48 then 2 ^ 21 else 2 ^ 16

/-- Device memory of a page size at a PA is backed: frames 0 to 1,535 of a channel in service (R349, R370). -/
def isBacked (s : State) (pa : Nat) : Bool :=
  pa < 2 ^ 39 && pa / 2 ^ 21 % 2048 < 1536 &&
    (let ch := pa / 2 ^ 32
     if ch < 64 then s.base.chanok0.getLsbD ch else s.base.chanok1.getLsbD (ch - 64))

/-- n bytes at a PA lie in the table pool, which no IA maps (R350, R361). -/
def inTpool (s : State) (pa n : Nat) : Bool :=
  match s.xlat.tpool with
  | some (a, f) => a.toNat < pa + n && pa < a.toNat + 2 ^ 21 * f.toNat
  | none => false

/-- A stripe descriptor that MAP accepts (R310, R312). -/
def descOk (d : Word) : Bool :=
  d.getLsbD 0 && wbits d 63 62 == 0 && dFmt d != 3 && dNu d != 3 && dG d ≤ 13 && wbits d 14 1 == 0 && dKu d != 0
    && dShofs d + dNblk d * dBw d ≤ 8192

/-- The IA of word 1 lies in a mapped CC page of this device (R314, R351). -/
def viewsCc (s : State) (w1 : Word) : Bool :=
  homeAt s w1.toNat == .own && (match leafOf s w1.toNat with | some (_, l) => lCc l | none => false)

/-- The entry rules of R351 for word 0 and word 1 of a leaf of a context. DEDUCED (log 42). -/
def leafOk (s : State) (ctx : Nat) (l : Leaf) : Bool :=
  let key := lKey l
  let ps := lBig l
  let whole := lV l && l.w0.getLsbD 62 && !lMig l && wbits l.w0 50 49 == 0 && wbits l.w0 15 0 == 0 && lTier l != 3
    && (key == ctx || key == 16)
  whole &&
    (if lCc l then ps && lPin l && !lView l && lTier l == 0 && descOk l.w1 && lAddr l % 2 ^ 21 == 0 && isBacked s (lAddr l)
      && !inTpool s (lAddr l) (lSize l)
     else if lView l then ps && lTier l == 0 && lAddr l == 0 && wbits l.w1 63 52 == 0 && wbits l.w1 20 0 == 0
      && viewsCc s l.w1
     else
       lAddr l % lSize l == 0 && wbits l.w1 63 46 == 0
         && (match lTier l with
             | 0 => wbits l.w1 45 16 == 0 && isBacked s (lAddr l) && !inTpool s (lAddr l) (lSize l)
             | 1 => wbits l.w1 45 16 == 0
             | _ => isBacked s (wbits l.w1 45 16 * 65536) && !inTpool s (wbits l.w1 45 16 * 65536) (lSize l) && wbits l.w1 45 16 * 65536 % lSize l == 0))

/-- Page i of a MAP: the IA, and the leaf, whose counters start at 0. -/
def mapLeaf (w0 w1 : Word) (i : Nat) : Leaf :=
  let step := i * pageSize w0
  if w0.getLsbD 58 then { w0 := w0, w1 := w1 + w64 step }
  else if w0.getLsbD 61 then { w0 := w0 + w64 step, w1 := w1 }
  else { w0 := w0 + w64 step, w1 := w64 (w1.toNat / 65536 * 65536 + (if wbits w0 57 56 = 2 then step else 0)) }

/-- The page stands free: no valid page covers it, and none lies in it (R352). DEDUCED (log 42). -/
def pageFree (s : State) (n : Nat) (big : Bool) : Bool :=
  (leafOf s (n * 65536)).isNone
    && (!big || (List.range 32).all (fun i => match tabGet s.xlat.pages (n + i) with | some l => !lV l | none => true))

/-- MAP refuses none of n pages from an IA on. DEDUCED (log 42). -/
def mapOk (s : State) (ctx ia : Nat) (w0 w1 : Word) : Nat → Bool
  | 0 => true
  | n + 1 =>
    let z := pageSize w0
    let a := ia + n * z
    homeAt s a == .own && a < 2 ^ 52 && a % z == 0 && leafOk s ctx (mapLeaf w0 w1 n)
      && pageFree s (a % 2 ^ 48 / 65536) (w0.getLsbD 48) && mapOk s ctx ia w0 w1 n

/-- The faults noted for a page are over (R353). DEDUCED (log 43). -/
def State.clearFaults (s : State) (n z : Nat) : State :=
  { s with xlat := { s.xlat with faulted := s.xlat.faulted.filter (fun x => x < n || n + z / 65536 ≤ x) } }

/-- DEDUCED (log 42). -/
def mapPages (s : State) (ia : Nat) (w0 w1 : Word) : Nat → State
  | 0 => s
  | n + 1 =>
    let z := pageSize w0
    let a := (ia + n * z) % 2 ^ 48 / 65536
    ((mapPages s ia w0 w1 n).setLeaf a (some (mapLeaf w0 w1 n))).clearFaults a z

/-! The commands. -/

def execTpool (q : Cmd) (s : State) : Out := cmdRun 0x08 q s (fun s =>
  if s.xlat.tpool.isSome then .no s
  else .ok { s with xlat := { s.xlat with tpool := some (q.a0, q.a1) } })

/-- MIGPOOL: the frames join the pool, in ascending order. -/
def execMigpool (q : Cmd) (s : State) : Out := cmdRun 0x09 q s (fun s =>
  .ok { s with xlat := { s.xlat with
    migFree := (List.range q.a1.toNat).foldl (fun l i => setAdd l (q.a0.toNat / 65536 + i)) s.xlat.migFree } })

/-- A migration names one of n pages from an IA on. -/
def anyMig (s : State) (ia z n : Nat) : Bool :=
  s.xlat.migs.any (fun m => m.page * 65536 < ia % 2 ^ 48 + n * z && ia % 2 ^ 48 < m.page * 65536 + (if m.big then 2 ^ 21 else 2 ^ 16))

/-- MAP: without a table pool it has nowhere for its entries. DESIGN CHOICE (log 42). -/
def execMap (q : Cmd) (s : State) : Out := cmdRun 0x10 q s (fun s =>
  if anyMig s q.a0.toNat (pageSize q.a1) q.a3.toNat then .wait s
  else if s.xlat.tpool.isNone || !mapOk s (cxOf q) q.a0.toNat q.a1 q.a2 q.a3.toNat then .no s
  else .ok (mapPages s q.a0.toNat q.a1 q.a2 q.a3.toNat))

/-- The leaves of n pages from an IA on; where no page is mapped, 64 KiB count as one. DEDUCED (log 42). -/
def leavesFrom (s : State) : Nat → Nat → List (Nat × Leaf)
  | _, 0 => []
  | ia, n + 1 =>
    match leafOf s ia with
    | some (m, l) => (m, l) :: leavesFrom s (ia / 2 ^ 48 * 2 ^ 48 + m * 65536 + lSize l) n
    | none => leavesFrom s (ia / 65536 * 65536 + 65536) n

/-- The directory entries of a page. -/
def pageDir (s : State) (n : Nat) (l : Leaf) : List (Nat × Dir) :=
  s.bridge.dir.filter (fun e => homeAt s e.1 == .own && n * 65536 ≤ e.1 % 2 ^ 48 && e.1 % 2 ^ 48 < n * 65536 + lSize l)
/-- A write to a page has not reached the rows yet. -/
def pageDraining (s : State) (l : Leaf) : Bool := s.wtq.any (fun e => (framesOf l).contains (frameOf e.1))

/-- UNMAP: remote copies are recalled, every access under way is performed, and the pages go. DEDUCED (log 42). -/
def execUnmap (q : Cmd) (s : State) : Out := cmdRun 0x11 q s (fun s =>
  let ls := leavesFrom s q.a0.toNat q.a1.toNat
  if homeAt s q.a0.toNat != .own || ls.any (fun e => lPin e.2) then .no s
  else if ls.any (fun e => lMig e.2) then .wait s
  else
    let dirs := ls.flatMap (fun e => pageDir s e.1 e.2)
    let s := { s with xlat := { s.xlat with leaving := ls.foldl (fun t e => setAdd t e.1) s.xlat.leaving } }
    if !dirs.isEmpty then .wait (dirs.foldl (fun s e => s.evictDir e.1 e.2) s)
    else if ls.any (fun e => pageDraining s e.2) then .wait s
    else .ok (ls.foldl (fun s e =>
      let s := { s with xlat := { s.xlat with
        leaving := setDel s.xlat.leaving e.1,
        migFree := if lTier e.2 = 2 then setAdd s.xlat.migFree (wbits e.2.w1 45 16) else s.xlat.migFree } }
      s.setLeaf e.1 none) s))

/-- A leaf with MIG or PIN set or cleared. -/
def Leaf.mig (l : Leaf) (b : Bool) : Leaf := { l with w0 := w64 (setBits l.w0.toNat 59 59 (if b then 1 else 0)) }
def Leaf.pin (l : Leaf) (b : Bool) : Leaf := { l with w0 := w64 (setBits l.w0.toNat 60 60 (if b then 1 else 0)) }
/-- A migration that has not committed ends: its frames are free again. -/
def State.abortMig (s : State) (n : Nat) : State :=
  match s.xlat.migs.find? (fun m => m.page == n), tabGet s.xlat.pages n with
  | some m, some l =>
    let s := s.setLeaf n (some (l.mig false))
    { s with xlat := { s.xlat with
      migs := s.xlat.migs.filter (fun x => x.page != n),
      migFree := m.frames.foldl (fun (t : List Nat) f => setAdd t f) s.xlat.migFree } }
  | _, _ => s

/-- PIN: a migration of the page that has not committed aborts (R358). -/
def execPin (q : Cmd) (s : State) : Out := cmdRun 0x12 q s (fun s =>
  match ownLeaf s q.a0.toNat with
  | none => .no s
  | some (n, _) =>
    let s := s.abortMig n
    match tabGet s.xlat.pages n with
    | some l => .ok (s.setLeaf n (some (l.pin true)))
    | none => .no s)

def execUnpin (q : Cmd) (s : State) : Out := cmdRun 0x13 q s (fun s =>
  match ownLeaf s q.a0.toNat with
  | none => .no s
  | some (n, l) => if lCc l then .no s else .ok (s.setLeaf n (some (l.pin false))))

def execPtread (q : Cmd) (s : State) : Out := cmdRun 0x14 q s (fun s =>
  let l := ((ownLeaf s q.a0.toNat).map (fun e => e.2)).getD { w0 := 0, w1 := 0 }
  .ok (s.hostWrite q.a1.toNat (leBytes 8 l.w0.toNat ++ leBytes 8 l.w1.toNat)))

/-! Accesses held on a page fault (R353 to R355). -/

/-- The IA of a held access; a heap object without frames has none. -/
def heldIa : Loc → Option Nat
  | .ia a => some a
  | _ => none

/-- The memory behind a place still faults. -/
def stillFaults (s : State) : Loc → Bool
  | .ia a => homeAt s a == .own && pageKeys s a 1 false == .fault
  | .heap x _ => (s.obj x).st == .absent
  | _ => false

/-- A load, or an access held as one, ends without a value: its destination is not written, and the core takes
PAGE_FAULT_LOAD at its next boundary (R354). -/
def State.endLoad (s : State) (a : Acc) : State :=
  let ia := (heldIa a.loc).getD (Config.freeWord s.free).toNat
  let s := { s with homeQ := s.homeQ.filter (fun e => e != a), free := s.free + 1 }
  let s := s.modCore a.core (fun k => { k with
    stamps := k.stamps.filter (fun e => e.seq != a.seq),
    groups := k.groups.map (fun g => if g.id == a.grp then { g with abandoned := true } else g),
    deferred := k.deferred ++ [{ cause := .pageFaultLoad, tval := w64 ia, page := true }] })
  if a.op.writes && (match a.op with | .rmw _ _ _ _ ret => !ret | _ => true) then s.partDone a
  else s.answer a (List.replicate a.len 0) 0 false

/-- A host read ends with poison. -/
def State.endHostRead (s : State) (n : Nat) : State :=
  let r : Option HostReq := (s.bridge.hostWait[n]?).map (·.req)
  match r with
  | some (.memRd h) | some (.memRdData h) =>
    { (({ s with bridge := { s.bridge with hostWait := delNth s.bridge.hostWait n } }).toHost
        (.cmp h.tag .inv (List.replicate 64 0) true)) with free := s.free + 1 }
  | some (.memInv h) =>
    ({ s with bridge := { s.bridge with hostWait := delNth s.bridge.hostWait n } }).toHost (.cmp h.tag .inv [] true)
  | _ => s

/-- The engine with number j of core c, when its head operation is held. -/
def engOf (j : Nat) : Eng := match j with | 0 => .m | 1 => .c | 2 => .g | _ => .x
def heldOp (s : State) (c : CoreId) (e : Eng) : Option (EOp × Word × Nat) :=
  match (s.core c).headOp e with
  | some o => if o.fin then none else o.held.map (fun h => (o, h.1, h.2))
  | none => none
/-- A held operation completes with ENGINE_FAULT, and its record names PAGE_FAULT_LOAD. -/
def State.endOp (s : State) (c : CoreId) (e : Eng) (o : EOp) : State :=
  s.setHead c e { (o.fail .pageFaultLoad) with held := none, gstatus := if e == .g then 5 else 0 }

/-- Held for 1 ms. DEDUCED (log 43). -/
def heldLong (s : State) (t : Word) : Bool := t.toNat + 1050000 ≤ s.gtc.toNat

/-- PAGE_FAULT_LOAD: held access i has waited 1 ms: an entry of the home queues, then a host request, then the head of an
engine, by 4·core + engine. DEDUCED (log 43). -/
def execPageFaultLoad (i : Nat) (s : State) : Out :=
  match s.homeQ[i]? with
  | some a =>
    (match a.waiting with
     | some t => if stillFaults s a.loc && heldLong s t then .next (s.endLoad a) else .next s
     | none => .next s)
  | none =>
    let i := i - s.homeQ.length
    match s.bridge.hostWait[i]? with
    | some x => (match x.since with | some t => if heldLong s t then .next (s.endHostRead i) else .next s | none => .next s)
    | none =>
      let i := i - s.bridge.hostWait.length
      let c := BitVec.ofNat 6 (i / 4)
      match heldOp s c (engOf (i % 4)) with
      | some (o, t, _) => if i < 256 && heldLong s t then .next (s.endOp c (engOf (i % 4)) o) else .next s
      | none => .next s

/-- An IA lies on the 64 KiB of another. -/
def samePage (a b : Nat) : Bool := a / 65536 == b / 65536
def locOn (ia : Nat) : Loc → Bool
  | .ia a => samePage a ia
  | _ => false

/-- A side-log entry is discarded: its record, and its stamps close at the next tick (R355). -/
def State.discardLog (s : State) (c : CoreId) (a : Acc) : State :=
  let s := s.report { coreRec s c 0x010D 2 (heldIa a.loc) with src := 7 }
  ((s.reopen c a).giveStamps (whoOf a) (flatStamps (s.gtc + 1))).partDone a

/-- The side-log entries of a core that a test selects are discarded. -/
def State.discardLogs (s : State) (c : CoreId) (p : Acc → Bool) : State :=
  ((s.core c).sidelog.filter p).foldl (fun s a => s.discardLog c a) s

/-- The held host reads of a page end. -/
def endHostReads (ia : Nat) : Nat → State → State
  | 0, s => s
  | n + 1, s =>
    match s.bridge.hostWait[n]? with
    | some x => endHostReads ia n (if x.since.isSome && samePage (lineOfReq x.req) ia then s.endHostRead n else s)
    | none => endHostReads ia n s

/-- FAULTABORT: the held accesses of a page end at once, and its side-log entries are discarded. DEDUCED (log 43). -/
def execFaultabort (q : Cmd) (s : State) : Out := cmdRun 0x15 q s (fun s =>
  let ia := q.a0.toNat
  let held := s.homeQ.filter (fun a => a.waiting.isSome && locOn ia a.loc && stillFaults s a.loc)
  let s := held.foldl (fun s a => s.endLoad a) s
  let s := endHostReads ia s.bridge.hostWait.length s
  let s := coreIds.foldl (fun s c => [Eng.m, .c, .g, .x].foldl (fun s e =>
    match heldOp s c e with
    | some (o, _, a) => if samePage a ia then s.endOp c e o else s
    | none => s) s) s
  let s := coreIds.foldl (fun s c => s.discardLogs c (fun a => locOn ia a.loc)) s
  .ok (s.clearFaults (ia % 2 ^ 48 / 65536) 65536))

/-! The migration engine (R356, R357). -/

/-- The free frames of the migration pool; those of the table pool are never mapped (R350). -/
def freeFrames (s : State) : List Nat := s.xlat.migFree.filter (fun f => !inTpool s (65536 * f) 65536)
/-- Frames for a page: one, or 32 that make a 2 MiB frame. Which of them is free. DEDUCED (log 44). -/
def takeFrames (s : State) (big : Bool) : Option (List Nat) :=
  let free := freeFrames s
  let firsts := if big then free.filter (fun f => f % 32 == 0 && (List.range 32).all (fun i => setHas free (f + i))) else free
  match firsts with
  | [] => none
  | f :: _ =>
    let f := firsts.getD (Config.freeNat s.free % firsts.length) f
    some (if big then (List.range 32).map (fun i => f + i) else [f])

/-- Begin a migration of a page: frames are taken and MIG is set. DEDUCED (log 44). -/
def State.startMig (s : State) (n : Nat) (l : Leaf) (frames : List Nat) (replica : Bool) : State :=
  let s := s.setLeaf n (some (l.mig true))
  { s with free := s.free + 1, xlat := { s.xlat with
    migFree := s.xlat.migFree.filter (fun f => !frames.contains f),
    migs := s.xlat.migs ++ [{ page := n, big := lBig l, frames := frames, replica := replica, old := w64 (lAddr l) }] } }

/-- The engine examines one leaf; the answer counts the decisions made. DEDUCED (log 44). -/
def examine (r : Nat × State) (e : Nat × Leaf) : Nat × State :=
  let (done, s) := r
  let (n, l) := e
  if lTier l ≠ 1 || lPin l || lCc l || lView l || lMig l || !lV l then (done, s)
  else
    let cfg := s.base.migcfg
    let wr := wbits l.w1 7 0
    let cnt := wbits l.w1 15 8 + wr
    let zero : Leaf := { l with w1 := w64 (l.w1.toNat / 65536 * 65536) }
    let q := Config.freeNat (s.free + 1)
    let s := { s with free := s.free + 2 }
    let may := done < wbits cfg 48 33 && wbits cfg 57 49 ≤ cnt && wbits cfg 15 0 ≤ (freeFrames s).length
    let repl := wr == 0 && !lBig l
    let worth := repl || 64 * (if lBig l then 512 else 16) ≤ cnt * (64 + q)
    match (if may && worth then takeFrames s (lBig l) else none) with
    | some fs => (done + 1, s.startMig n zero fs repl)
    | none => (done, s.setLeaf n (some zero))

/-- MIGRATION_EPOCH: every 2^EPL ticks. DEDUCED (log 44). -/
def execMigrationEpoch (s : State) : Out :=
  let cfg := s.base.migcfg
  let z := 2 ^ wbits cfg 62 58
  if s.gtc.toNat < s.xlat.nextEpoch.toNat then .next s
  else
    let s := { s with xlat := { s.xlat with nextEpoch := w64 ((s.gtc.toNat / z + 1) * z) } }
    if cfg.getLsbD 63 then .next (s.xlat.pages.foldl examine (0, s)).2 else .next s

/-- What a remote copy of the page asks before its lines can be read at home (R325). -/
def homeReads (s : State) (l : List (Nat × Dir)) : State :=
  match dirLoads s whoNone l with | .go s | .wait s | .inval s _ => s

/-- Copy a page of host memory into the frames at a PA. DEDUCED (log 44). -/
def State.copyIn (s : State) (from_ pa n : Nat) : State :=
  let t := (List.range n).foldl (fun s o => s.putRow (frameKey pa o none) (memGet s.mem (hostBase + (from_ + o) % 2 ^ 48))) s
  { t with poison := t.poison.filter (fun w => !(64 * w / 2 ^ 21 == pa / 2 ^ 21 && pa % 2 ^ 21 ≤ plainOff (64 * w)
      && plainOff (64 * w) < pa % 2 ^ 21 + n)) }

/-- MIGRATE_COMMIT: the page's lines are read at home, copied, and the entry changes (R357 steps 2 to 5). DEDUCED (log 44). -/
def execMigrateCommit (page : Nat) (s : State) : Out :=
  match s.xlat.migs.find? (fun m => m.page == page), tabGet s.xlat.pages page with
  | some m, some l =>
    let away := (pageDir s page l).filter (fun e => e.2.st == .hE || e.2.st == .hA || isTransient e.2.st)
    if !away.isEmpty then .next (homeReads s away)
    else
      let pa := m.frames.headD 0 * 65536
      let s := s.copyIn (lAddr l) pa (lSize l)
      let new : Leaf :=
        if m.replica then { w0 := w64 (setBits (l.mig false).w0.toNat 57 56 2), w1 := w64 pa }
        else { w0 := w64 (setBits (setBits (l.mig false).w0.toNat 57 56 0) 47 16 (pa / 65536)), w1 := 0 }
      let s := s.setLeaf page (some new)
      let s := { s with xlat := { s.xlat with migs := s.xlat.migs.filter (fun x => x.page != page) } }
      .next (s.report { code := if m.replica then 0x010C else 0x010B, sev := 0, src := 10, ctx := none, eng := 7, tix := 0,
                        gstat := 0, addr := some (devNat s * 2 ^ 48 + page * 65536), data := some m.old.toNat, wher := none })
  | _, _ => .next s

end Sys2Proof.Machine
end

