-- ==== Sys2Proof/Machine/HeapCmd.lean ====
section
/-! DEFINITION. The commands on the heap and the slots (R219, R225 to R231, R239, R240, R277, R361) and the sibling groups
(R296, R300). -/

namespace Sys2Proof.Machine

open Sys2Proof

/-! The heap's tables. -/

/-- The context has objects: entries that are not all zeros, or an open slot. -/
def hasObjects (s : State) (ctx : Nat) : Bool :=
  s.heap.objs.any (fun e => e.1 / 2 ^ 40 == ctx && e.2 != Obj.zero)
    || s.heap.slots.any (fun e => e.2.ctx == ctx && e.2.st != .free)

def execHeapcfg (q : Cmd) (s : State) : Out := cmdRun 0x20 q s (fun s =>
  if hasObjects s (cxOf q) then .no s
  else .ok (s.setCtx (cxOf q) { s.ctx (cxOf q) with otbase := q.a0, otlimit := q.a1 }))

/-- HEAPPOOL: the pages join the pool; a first touch that an empty pool held is reported anew should it fail again. DEDUCED (log 46). -/
def execHeappool (q : Cmd) (s : State) : Out := cmdRun 0x21 q s (fun s =>
  let pages := (List.range q.a1.toNat).map (fun i => q.a0.toNat / 2 ^ 21 + i)
  if q.a0.toNat % 2 ^ 21 ≠ 0 || !pages.all (fun p => match ownLeaf s (p * 2 ^ 21) with | some (_, l) => lCc l | none => false)
  then .no s
  else
    let x := s.ctx (cxOf q)
    let s := s.setCtx (cxOf q) { x with heapPool := pages.foldl (fun l p => setAdd l p) x.heapPool }
    .ok { s with xlat := { s.xlat with faulted := s.xlat.faulted.filter (fun n => n < 2 ^ 40) } })

def execObjset (q : Cmd) (s : State) : Out := cmdRun 0x22 q s (fun s =>
  let id := q.a0.toNat
  let key := objKey (cxOf q) id
  if wbits q.a2 40 0 ≠ 0 || wbits q.a2 63 52 ≠ 0 then .bad s
  else if id = 0 || otLimit s (cxOf q) ≤ id || (s.obj key).st ≠ .absent || q.a1 = 0 || 2048 < q.a1.toNat then .no s
  else .ok (s.setObj key { s.obj key with size := q.a1.toNat, arena := q.a2.getLsbD 41, owner := wbits q.a2 51 42 }))

/-! Relocation (R225, R277). -/

/-- The RDCs that hold one of these objects' entries give it up before it changes (R225, R277): the state in which that is
waited for, none when none holds one. -/
def State.recallEntries (s : State) (keys : List Nat) : Option State :=
  let at_ (key : Nat) : Nat := (s.ctx (key / 2 ^ 40)).otbase.toNat + 32 * (key % 2 ^ 40)
  let es := (keys.flatMap (fun key => dirIn s (at_ key) 32)).eraseDups
  if es.isEmpty then none else some (es.foldl (fun s e => s.evictDir e.1 e.2) s)

/-- A place a relocation may go to. -/
def relocOk (s : State) (ctx id ia : Nat) : Bool :=
  let o := s.obj (objKey ctx id)
  id != 0 && id < otLimit s ctx && o.st == .present && o.pin == 0 && freeRun s ctx ia (512 * o.size)

/-- RELOC: the object is RELOCATING from now; the command completes with the relocation. -/
def execReloc (q : Cmd) (s : State) : Out := cmdRun 0x23 q s (fun s =>
  let key := objKey (cxOf q) q.a0.toNat
  if s.base.reloc.isSome then .wait s
  else if !relocOk s (cxOf q) q.a0.toNat q.a1.toNat then .no s
  else match s.recallEntries [key] with
  | some s => .wait s
  | none =>
    let s := s.setObj key { s.obj key with st := .relocating, newBase := q.a1.toNat / 512, prog := 0, busy := false }
    .wait { s with base := { s.base with reloc := some (cxOf q, q.a0.toNat, q.tag) } })

/-- An access resolved to n bytes of memory has not been performed, or its heal may still follow (R222). DEDUCED (log 45). -/
def accessTo (s : State) (ia n : Nat) : Bool :=
  let hits (a : Acc) : Bool := match a.loc with | .ia x => x < ia + n && ia < x + a.len | _ => false
  s.homeQ.any hits || s.cores.any (fun k => k.pend.any hits || k.sidelog.any hits
    || (match k.wait with | some (.refDone _ (.ia x)) => x < ia + n && ia < x + 8 | _ => false))

/-- Copy n pieces of 32 bytes at their homes; the new grain's W is at least the old one's. -/
def copyPieces (s : State) (a b : Nat) : Nat → HRes
  | 0 => .done s [] 0 false
  | n + 1 =>
    match readIa s whoNone a 32 2 with
    | .done s d w _ =>
      (match writeIa s whoNone b 4 2 s.gtc d with
       | .done s _ _ _ => copyPieces (s.raiseW (sectorsOf b 2) w) (a + 32) (b + 32) n
       | r => r)
    | r => r

/-- RELOC_CHUNK: the next chunk becomes BUSY and its copies go; or, once nothing outstanding names its old bytes, it is
copied and PROG advances. DEDUCED (log 45). -/
def execRelocChunk (s : State) : Out :=
  match s.base.reloc with
  | none => .next s
  | some (ctx, id, _) =>
    let key := objKey ctx id
    let o := s.obj key
    let old := o.base * 512 + 512 * o.prog
    if o.st ≠ .relocating || o.size ≤ o.prog || (o.busy && accessTo s old 512) then .next s
    else match s.recallEntries [key] with
    | some s => .next s
    | none =>
      if !o.busy then
        let s := s.setObj key { o with busy := true }
        .next { s with cores := s.cores.map (fun (k : Core) => { k with copies := dropCopies k.copies old 512 }) }
      else match copyPieces s old (o.newBase * 512 + 512 * o.prog) 16 with
        | .done s _ _ _ => .next (s.setObj key { o with busy := false, prog := o.prog + 1 })
        | .retry s | .held s | .mig s => .next s

/-- The relocation is over: its command, the first queued with its context and tag, completes. DESIGN CHOICE (log 68). -/
def State.endReloc (s : State) (ctx : Nat) (tag : BitVec 32) : State :=
  let cmds := match s.base.cmds.find? (fun e => e.1 == 0x23 && cxOf e.2 == ctx && e.2.tag == tag) with
    | some e => dropCmd e s.base.cmds
    | none => s.base.cmds
  ({ s with base := { s.base with reloc := none, cmds := cmds } }).completion tag 0 none

/-- RELOC_END: the object is PRESENT at its new place, the old copy is free, and the command completes. DEDUCED (log 45). An
object that was freed meanwhile ends its relocation. DESIGN CHOICE (log 68). -/
def execRelocEnd (s : State) : Out :=
  match s.base.reloc with
  | none => .next s
  | some (ctx, id, tag) =>
    let key := objKey ctx id
    let o := s.obj key
    if ringFull s.base.cq then .next s
    else if o.st ≠ .relocating then .next (s.endReloc ctx tag)
    else if o.busy || o.prog ≠ o.size then .next s
    else match s.recallEntries [key] with
    | some s => .next s
    | none =>
      .next ((s.setObj key { o with st := .present, base := o.newBase, busy := false, prog := 0, newBase := 0 }).endReloc ctx tag)

/-! Prefix sharing (R239). -/

/-- The object a segment's bytes lie in. -/
def segTarget (s : State) (ctx id : Nat) : Nat :=
  let o := s.obj (objKey ctx id)
  if o.st = .forwarded then o.target else id

/-- A destination segment is FORWARDED to a source segment; no slot uses it then (R218). -/
def State.forward (s : State) (ctx dst src : Nat) : State :=
  let t := segTarget s ctx src
  let d := s.obj (objKey ctx dst)
  let s := if d.st = .forwarded then s.unref (objKey ctx d.target) else s
  let o := s.obj (objKey ctx t)
  (s.setObj (objKey ctx t) { o with rc := o.rc + 1 }).setObj (objKey ctx dst)
    { d with st := .forwarded, base := 0, rc := 0, target := t }

/-- A destination segment stands for itself again. -/
def State.ownSegment (s : State) (ctx id : Nat) : State :=
  let d := s.obj (objKey ctx id)
  if d.st = .forwarded then
    (s.unref (objKey ctx d.target)).setObj (objKey ctx id) { d with st := .absent, rc := 1, target := 0 } else s

/-- The bytes of the first n positions of a segment (R230). -/
def prefixBytes (dw n : Nat) (isV : Bool) : List Nat :=
  (List.range n).flatMap (fun l =>
    (List.range (64 * dw)).map (fun t => if isV then 64 * dw * l + t else 64 * t + l)
      ++ (List.range (2 * dw)).map (fun r => 4096 * dw + 64 * r + l))

/-- Copy bytes of one segment into another at their homes. -/
def copySegment (s : State) (src dst : Nat) : List Nat → HRes
  | [] => .done s [] 0 false
  | b :: t =>
    match readAt s whoNone (match heapByte s src b with | some l => l | none => .heap src b) 1 2 with
    | .done s d w _ =>
      (match writeAt s whoNone (match heapByte s dst b with | some l => l | none => .heap dst b) 4 2 s.gtc d with
       | .done s _ _ _ =>
         let s := match heapByte s dst b with
           | some (.ia a) => s.raiseW (sectorsOf a 2) w
           | _ => s
         copySegment s src dst t
       | r => r)
    | r => r

/-- The layers, head groups and halves of a slot. -/
def SlotDesc.groups (d : SlotDesc) : List (Nat × Nat × Nat) :=
  (List.range (d.nlm1 + 1)).flatMap (fun l => (List.range (d.nhgm1 + 1)).flatMap (fun g => [(l, g, 0), (l, g, 1)]))

/-- Copy the partial segments of a share. DEDUCED (log 45). -/
def copyTails (s : State) (ctx : Nat) (d e : SlotDesc) (m : Nat) : List (Nat × Nat × Nat) → HRes
  | [] => .done s [] 0 false
  | (l, g, v) :: t =>
    let dst := d.segId l g v + m / 64
    let src := segTarget s ctx (e.segId l g v + m / 64)
    match copySegment (s.ownSegment ctx dst) (objKey ctx src) (objKey ctx dst) (prefixBytes d.dw (m % 64) (v == 1)) with
    | .done s _ _ _ => copyTails s ctx d e m t
    | r => r

/-- What SHARE asks of its slots (R239); m must fit the destination's own bucket. DESIGN CHOICE (log 69). -/
def shareOk (q : Cmd) (d e : SlotDesc) : Bool :=
  q.a0.toNat < 1024 && q.a1.toNat < 1024 && d.st == .prompt && e.st == .gen && d.ctx == cxOf q && e.ctx == cxOf q
    && d.dw == e.dw && d.nlm1 == e.nlm1 && d.nhgm1 == e.nhgm1 && q.a2.toNat ≤ e.len && q.a2.toNat ≤ bucketSize d.bkt

/-- SHARE: the partial segments are copied, then the whole ones forwarded. DEDUCED (log 45). -/
def execShare (q : Cmd) (s : State) : Out := cmdRun 0x24 q s (fun s =>
  let d := s.slot q.a0.toNat
  let e := s.slot q.a1.toNat
  let m := q.a2.toNat
  let pairs := d.groups.flatMap (fun x => (List.range (m / 64)).map (fun i =>
    (d.segId x.1 x.2.1 x.2.2 + i, e.segId x.1 x.2.1 x.2.2 + i)))
  let heads := d.groups.flatMap (fun x => [d.segId x.1 x.2.1 x.2.2 + m / 64])
  let ids := pairs.flatMap (fun p => [p.1, (s.obj (objKey (cxOf q) p.1)).target, segTarget s (cxOf q) p.2])
    ++ (if m % 64 = 0 then [] else heads.flatMap (fun i => [i, (s.obj (objKey (cxOf q) i)).target]))
  if !shareOk q d e then .no s
  else match s.recallEntries (ids.map (objKey (cxOf q))) with
  | some s => .wait s
  | none => match (if m % 64 = 0 then HRes.done s [] 0 false else copyTails s (cxOf q) d e m d.groups) with
    | .done s _ _ _ =>
      let s := pairs.foldl (fun s p => s.forward (cxOf q) p.1 p.2) s
      .ok (s.setSlot q.a0.toNat { s.slot q.a0.toNat with len := m })
    | .retry s => .wait s
    | .held s => .wait s
    | .mig s => .wait s)

/-! Slots (R229, R231). -/

/-- The descriptor SLOTOPEN would write. DEDUCED (log 46). -/
def openDesc (q : Cmd) : SlotDesc :=
  { SlotDesc.free with
    st := .prompt, bkt := wbits q.a1 61 60, dw := wbits q.a1 59 55, ctx := wbits q.a1 54 51, nlm1 := wbits q.a1 50 39,
    nhgm1 := wbits q.a1 38 31, idbase := wbits q.a2 39 0 }

/-- Every entry among the slot's ids is all zeros. -/
def idsClear (s : State) (d : SlotDesc) : Bool :=
  let lo := objKey d.ctx d.idbase
  s.heap.objs.all (fun e => e.1 < lo || lo + d.segs ≤ e.1 || e.2 == Obj.zero)
    && s.heap.slots.all (fun e => e.2.st == .free || objKey e.2.ctx e.2.idbase + e.2.segs ≤ lo
        || lo + d.segs ≤ objKey e.2.ctx e.2.idbase
        || (List.range d.segs).all (fun i => s.obj (lo + i) == Obj.zero))

def execSlotopen (q : Cmd) (s : State) : Out := cmdRun 0x28 q s (fun s =>
  let d := openDesc q
  let n := q.a0.toNat
  if n ≥ 1024 || (s.slot n).st ≠ .free || wbits q.a1 30 0 ≠ 0 || wbits q.a2 63 40 ≠ 0 || d.ctx ≠ cxOf q || d.dw = 0
      || 16 < d.dw || d.idbase = 0 || !idsClear s d || otLimit s d.ctx ≤ d.idbase + d.segs - 1 then .no s
  else
    let lo := objKey d.ctx d.idbase
    let s := { s with heap := { s.heap with objs := s.heap.objs.filter (fun e => e.1 < lo || lo + d.segs ≤ e.1) } }
    .ok (s.setSlot n d))

/-- SLOTCLOSE: a slot that is HANDING first becomes GEN. DEDUCED (log 46). -/
def execSlotclose (q : Cmd) (s : State) : Out := cmdRun 0x29 q s (fun s =>
  let n := q.a0.toNat
  let d := s.slot n
  if n ≥ 1024 || d.st = .free || d.ctx ≠ cxOf q then .no s
  else if d.st = .handing then .wait s
  else .ok (s.releaseSlot n))

/-! Sibling groups (R296). -/

/-- The slots of the four slot words. -/
def slotWords (q : Cmd) : List Nat :=
  [q.a2, q.a3, q.a4, q.a5].flatMap (fun w => (List.range 4).map (fun j => wbits w (16 * j + 9) (16 * j)))
def slotWordsOk (q : Cmd) : Bool :=
  [q.a2, q.a3, q.a4, q.a5].all (fun w => (List.range 4).all (fun j => wbits w (16 * j + 15) (16 * j + 10) == 0))

def execGrpreg (q : Cmd) (s : State) : Out := cmdRun 0x2C q s (fun s =>
  let size := wbits q.a1 55 51
  let quo := wbits q.a1 50 46
  if wbits q.a1 63 56 ≠ 0 || wbits q.a1 45 0 ≠ 0 then .bad s
  else if q.a0.toNat ≥ 64 || size = 0 || 16 < size || size < quo || !slotWordsOk q || (s.ballot q.a0.toNat).isSome then .no s
  else
    let zeros : List Nat := List.replicate 16 0
    .ok (s.setBallot q.a0.toNat (some
      { closed := false, result := 0, ctx := cxOf q, size := size, quorum := if quo = 0 then size / 2 + 1 else quo, widx := 0,
        posted := 0, fin := 0, cancelled := 0, released := 0, whash := 0, closeGtc := 0, slots := slotWords q,
        hash := List.replicate 16 0, pgtc := List.replicate 16 0, dispAfter := 0, coreCyc := zeros, unitCyc := zeros,
        bytes := zeros, late := 0 })))

/-- A resident node carries a tag of the group. -/
def groupLive (s : State) (g : Nat) : Bool := s.sched.nodes.any (fun e => match e.2.sib with | some (a, _) => a == g | none => false)

def execGrpfree (q : Cmd) (s : State) : Out := cmdRun 0x2D q s (fun s =>
  match s.ballot q.a0.toNat with
  | some b =>
    let g := q.a0.toNat
    if b.ctx ≠ cxOf q || (!b.closed && groupLive s g) then .no s
    else
      let owed := (List.range b.size).filterMap (sibOwed s g)
      let s := s.setBallot g none
      .ok { s with sched := { s.sched with owed := s.sched.owed ++ owed.filter (fun o => !s.sched.owed.contains o) } }
  | none => .no s)

/-- A cost of the cancelled siblings, saturating (R300). -/
def Ballot.cost (b : Ballot) (l : List Nat) : Nat :=
  min (2 ^ 64 - 1) (((List.range 16).filter (fun i => b.cancelled.testBit i)).foldl (fun n i => n + l.getD i 0) 0)

/-- The 64 words of a ballot entry. -/
def Ballot.words (b : Ballot) : List Word :=
  [w64 ((if b.closed then 2 else 1) * 2 ^ 62 + b.result * 2 ^ 60 + b.ctx * 2 ^ 56 + b.size * 2 ^ 51 + b.quorum * 2 ^ 46
     + b.widx * 2 ^ 32 + b.posted * 2 ^ 16 + b.fin), b.whash, b.closeGtc]
  ++ (List.range 4).map (fun w => w64 ((List.range 4).foldl (fun n j => n + b.slots.getD (4 * w + j) 0 * 2 ^ (16 * j)) 0))
  ++ (List.range 16).map (fun i => b.hash.getD i 0) ++ (List.range 16).map (fun i => b.pgtc.getD i 0)
  ++ [w64 b.dispAfter, w64 (b.cost b.coreCyc), w64 (b.cost b.unitCyc), w64 (b.cost b.bytes), w64 b.late]
  ++ List.replicate 20 0

def execGrpread (q : Cmd) (s : State) : Out := cmdRun 0x2E q s (fun s =>
  match s.ballot q.a0.toNat with
  | some b => if b.ctx ≠ cxOf q then .no s else .ok (s.hostWrite q.a1.toNat (wordBytes b.words))
  | none => .no s)

end Sys2Proof.Machine
end

