-- ==== Sys2Proof/Machine/Tensor.lean ====
section
/-! DEFINITION. The tensor commands (R303 to R309, R312). -/

namespace Sys2Proof.Machine

open Sys2Proof

/-! Descriptor fields (R304). -/

/-- A descriptor: its 16 words. -/
abbrev TDesc := List Word

def tW (d : TDesc) (i : Nat) : Word := d.getD i 0
def tKind (d : TDesc) : Nat := wbits (tW d 0) 63 62
def tRank (d : TDesc) : Nat := wbits (tW d 0) 61 60 + 1
def tEt (d : TDesc) : Nat := wbits (tW d 0) 59 56
def tWrites (d : TDesc) : Bool := (tW d 0).getLsbD 53
def tOrigin (d : TDesc) : Nat := wbits (tW d 0) 51 0
def tCount (d : TDesc) (k : Nat) : Nat := if k % 2 = 0 then wbits (tW d (1 + k / 2)) 31 0 else wbits (tW d (1 + k / 2)) 63 32
def tStride (d : TDesc) (k : Nat) : Int := toS 64 (tW d (3 + k)).toNat
def tLo (d : TDesc) : Nat := wbits (tW d 7) 51 0
def tHi (d : TDesc) : Nat := wbits (tW d 8) 51 0
def tBlock (d : TDesc) (k : Nat) : Nat := if k % 2 = 0 then wbits (tW d (9 + k / 2)) 31 0 else wbits (tW d (9 + k / 2)) 63 32
def tOtab (d : TDesc) : Nat := wbits (tW d 11) 51 0
def tNblk (d : TDesc) : Nat := wbits (tW d 12) 31 0
def dims : List Nat := [0, 1, 2, 3]

/-- The element width w (R305). -/
def tWidth (d : TDesc) : Nat := if tKind d = 1 || tKind d = 2 then recSize (tEt d) else etWidth (tEt d)

/-! The checks of R306. -/

/-- FORMAT: reserved values and bits are clear, and so is every field a kind does not use. DEDUCED (log 47). -/
def formatOk (d : TDesc) : Bool :=
  let kind := tKind d
  let used := dims.filter (· < tRank d)
  let spare := dims.filter (fun k => tRank d ≤ k)
  wbits (tW d 0) 55 54 == 0 && !(tW d 0).getLsbD 52
    && (match kind with
        | 1 => tEt d ≤ 5
        | 2 => [0, 2, 3].contains (tEt d) && tRank d == 2
        | _ => tEt d ≤ 11)
    && spare.all (fun k => tCount d k == 1 && tW d (3 + k) == 0) && (kind != 2 || used.all (fun k => tW d (3 + k) == 0))
    && [7, 8, 11].all (fun i => wbits (tW d i) 63 52 == 0) && wbits (tW d 12) 63 32 == 0
    && [13, 14, 15].all (fun i => tW d i == 0)
    && (if kind = 3 then tOrigin d == 0 && tLo d == 0 && tHi d == 0 && tOtab d % 8 == 0
        else tW d 9 == 0 && tW d 10 == 0 && tOtab d == 0 && tNblk d == 0)

/-- The alignment an element's address keeps. -/
def tAlign (d : TDesc) : Nat :=
  match tKind d with
  | 0 => min 8 (tWidth d)
  | 1 => if tEt d = 1 || tEt d = 4 then 2 else 1
  | _ => 1

def shapeOk (d : TDesc) : Bool :=
  dims.all (fun k => tCount d k != 0) && (dims.map (tCount d)).foldl (· * ·) 1 ≤ 2 ^ 48 && tOrigin d % tAlign d == 0

/-- The extent of a strided set with an origin and counts (R305). -/
def extentAt (d : TDesc) (a : Nat) (n : Nat → Nat) : Int × Int :=
  let ends := dims.map (fun k => ((n k : Int) - 1) * tStride d k)
  ((a : Int) + (ends.map (fun x => min 0 x)).foldl (· + ·) 0, (a : Int) + (ends.map (fun x => max 0 x)).foldl (· + ·) 0 + tWidth d - 1)

def extentOk (d : TDesc) : Bool :=
  let e := extentAt d (tOrigin d) (tCount d)
  tLo d < tHi d && (tLo d : Int) ≤ e.1 && e.2 < (tHi d : Int) && tLo d / 2 ^ 48 == (tHi d - 1) / 2 ^ 48

/-- Dimensions in ascending |Sk|, with ties in ascending k. -/
def byStride (d : TDesc) (l : List Nat) : List Nat :=
  l.foldl (fun r k => r.filter (fun j => (tStride d j).natAbs ≤ (tStride d k).natAbs) ++ [k]
    ++ r.filter (fun j => (tStride d k).natAbs < (tStride d j).natAbs)) []

/-- The alias condition over counts: sum is what the dimensions before reach. -/
def aliasGo (d : TDesc) (n : Nat → Nat) : Nat → List Nat → Bool
  | _, [] => true
  | sum, k :: t => sum + tWidth d ≤ (tStride d k).natAbs && aliasGo d n (sum + (n k - 1) * (tStride d k).natAbs) t
/-- DEDUCED (log 47). -/
def aliasOk (d : TDesc) (n : Nat → Nat) : Bool := aliasGo d n 0 (byStride d (dims.filter (fun k => 1 < n k)))

/-! Blocks (R308). -/

def nblocks (d : TDesc) (k : Nat) : Nat := (tCount d k + tBlock d k - 1) / tBlock d k
def blockTotal (d : TDesc) : Nat := (dims.map (nblocks d)).foldl (· * ·) 1
/-- The coordinate of block idx along dimension k. -/
def blockAt (d : TDesc) (idx k : Nat) : Nat := idx / ((List.range k).map (nblocks d)).foldl (· * ·) 1 % nblocks d k
/-- A block's own counts. -/
def blockCount (d : TDesc) (idx k : Nat) : Nat := min (tBlock d k) (tCount d k - blockAt d idx k * tBlock d k)
/-- DEDUCED (log 47). -/
def blocksOk (d : TDesc) : Bool := dims.all (fun k => tBlock d k != 0) && tNblk d == blockTotal d

/-- The extents of the blocks, by an owner table's entries. -/
def blockExtents (d : TDesc) (tab : List Word) : List (Int × Int) :=
  ((List.range tab.length).zip tab).map (fun e => extentAt d (wbits e.2 51 0) (blockCount d e.1))

def disjoint : List (Int × Int) → Bool
  | [] => true
  | x :: t => t.all (fun y => x.2 < y.1 || y.2 < x.1) && disjoint t

/-- The owner checks of R309. -/
def ownerOk (s : State) (d : TDesc) (tab : List Word) : Bool :=
  blocksOk d && tab.all (fun w => wbits w 63 60 ≤ 1 && wbits w 63 60 == wbits w 51 48 && wbits w 59 52 == 0
      && (wbits w 63 60 == 0 || s.bridge.up))
    && (blockExtents d tab).all (fun e => e.1 ≥ 0 && e.1 / 2 ^ 48 == e.2 / 2 ^ 48)
    && (!tWrites d || disjoint (blockExtents d tab))

/-! Pages. -/

/-- A page is mapped in a context: a valid leaf whose key is the context's or Basecamp's. What the peer maps is free;
home nodes without page tables have no page to miss. DEDUCED (log 47). -/
def pageMapped (s : State) (ctx ia : Nat) : Bool :=
  match homeAt s ia with
  | .own => (match leafOf s ia with | some (_, l) => lKey l == ctx || lKey l == 16 | none => false)
  | .peer => Config.peerMaps (ia / 65536) s.free
  | _ => true
/-- Every page of [a, b). -/
def rangeMapped (s : State) (ctx a b : Nat) : Bool :=
  b ≤ a || (List.range ((b - 1) / 65536 + 1 - a / 65536)).all (fun i => pageMapped s ctx ((a / 65536 + i) * 65536))

/-- The descriptors of a STRIPED tensor's pages (R312); those of the peer's pages are free values. DEDUCED (log 47). -/
def stripePages (s : State) (d : TDesc) : List (Option Word) :=
  (List.range ((tHi d - tLo d + 2 ^ 21 - 1) / 2 ^ 21)).map (fun i =>
    let a := tLo d + i * 2 ^ 21
    match homeAt s a, ownLeaf s a with
    | .peer, _ => let w := Config.peerStripe (a / 65536) s.free; if w.getLsbD 0 then some w else none
    | _, some (_, l) => if lCc l && l.w1.getLsbD 0 then some l.w1 else none
    | _, none => none)
def fmtOfEt (et : Nat) : Nat := match et with | 0 => 0 | 2 => 1 | _ => 2
/-- DEDUCED (log 47). -/
def stripeOk (s : State) (d : TDesc) : Bool :=
  let ps := stripePages s d
  let ws := ps.filterMap id
  match ws with
  | [] => false
  | w :: _ =>
    ps.all Option.isSome
      && ws.all (fun v => dFmt v == dFmt w && dNu v == dNu w && dG v == dG w && dBm v == dBm w && dKu v == dKu w)
      && dFmt w == fmtOfEt (tEt d) && tCount d 0 == 32 * dKu w * 2 ^ dNu w
      && tCount d 1 ≤ 64 * (ws.map dNblk).foldl (· + ·) 0

/-! The commands. -/

def execTtcfg (q : Cmd) (s : State) : Out := cmdRun 0x30 q s (fun s =>
  .ok (s.setCtx (cxOf q) { s.ctx (cxOf q) with ttbase := some q.a0 }))

/-- The entries of the owner table that stand for a block. -/
def tabEntries (d : TDesc) : Nat := min (tNblk d) (blockTotal d)

/-- The owner table as the command reads it once: empty for other kinds, and where a page of it is not mapped. -/
def readOwners (s : State) (ctx : Nat) (d : TDesc) : DRead :=
  if tKind d ≠ 3 || !rangeMapped s ctx (tOtab d) (tOtab d + 8 * tNblk d) then .got s []
  else readDev s (tOtab d) (8 * tabEntries d)

/-- The first check of R306 that fails, from whether the entry is in use and the owner table; 0 when none does. DEDUCED (log 47). -/
def createResult (s : State) (ctx : Nat) (used : Bool) (d : TDesc) (tab : List Word) : Nat :=
  let kind := tKind d
  if used then 1
  else if !formatOk d then 2
  else if !shapeOk d then 3
  else if kind ≤ 1 && !extentOk d then 4
  else if !(if kind = 3 then rangeMapped s ctx (tOtab d) (tOtab d + 8 * tNblk d)
        && (blockExtents d tab).all (fun e => rangeMapped s ctx e.1.toNat (e.2.toNat + 1))
      else rangeMapped s ctx (tLo d) (tHi d)) then 5
  else if tWrites d && !(match kind with
      | 3 => (List.range (blockTotal d)).all (fun i => aliasOk d (blockCount d i))
      | _ => aliasOk d (tCount d)) then 6
  else if kind = 2 && !stripeOk s d then 7
  else if kind = 3 && !ownerOk s d tab then 8
  else 0

/-- The IA of an entry of a context's tensor table. -/
def entryIa (s : State) (ctx n : Nat) : Nat := ((s.ctx ctx).ttbase.getD 0).toNat + 128 * n
/-- The table lies where bytes can be stored. DESIGN CHOICE (log 10). -/
def hasEntry (s : State) (ctx n : Nat) : Bool :=
  n < 1024 && (s.ctx ctx).ttbase.isSome
    && (match homeAt s (entryIa s ctx n) with | .own | .peer | .host => true | _ => false)
/-- The entry's words, none while it is all zeros. -/
def State.putEntry (s : State) (ctx n : Nat) (ws : Option (List Word)) : State :=
  s.setCtx ctx { s.ctx ctx with tens := tabPut (s.ctx ctx).tens n ws }

/-- What keeps a page of an entry from being written. -/
def entryPage (s : State) (ia : Nat) : Option HRes :=
  match pageKeys s ia 1 true with
  | .fault => some (.held s)
  | .mig => some (.mig s)
  | .collapse n => some (.retry (s.collapse n))
  | _ => none

/-- Store bytes at their home, in pieces inside 32 bytes; fuel is their number. -/
def putPieces : Nat → State → Nat → List Byte → HRes
  | 0, s, _, _ => .done s [] 0 false
  | f + 1, s, a, d =>
    if d.isEmpty then .done s [] 0 false
    else match writeIa s whoNone a 1 0 s.gtc (d.take (32 - a % 32)) with
      | .done s _ _ _ => putPieces f s (a + (32 - a % 32)) (d.drop (32 - a % 32))
      | r => r

/-- Write an entry whole (R306, R307): at a home of this device it changes in one step, with its remote copies taken back;
elsewhere its bytes are stored, and the command tries again until all are. DESIGN CHOICE (log 10). -/
def writeEntry (s : State) (ctx n : Nat) (ws : Option (List Word)) : HRes :=
  let ia := entryIa s ctx n
  let put (s : State) (dirs : List Nat) : HRes :=
    .done ((s.putEntry ctx n ws).stampOwn whoNone (sectorsOf ia 0 128) 1 s.gtc dirs) [] 0 false
  if homeAt s ia == .own then
    match (entryPage s ia).or (entryPage s (ia + 127)) with
    | some r => r
    | none =>
      match dirStores s whoNone (dirIn s ia 128) with
      | .wait s => .retry s
      | .go s => put s []
      | .inval s gs => put s gs
  else
    match putPieces 128 s ia (wordBytes (ws.getD (List.replicate 16 0))) with
    | .done s d w p => .done (s.putEntry ctx n ws) d w p
    | r => r

/-- A table write that goes on, or the command that waits for it. -/
def entryRes (ctx ia : Nat) : HRes → CRes
  | .done s _ _ _ => .ok { s with free := s.free + 1 }
  | .retry s | .mig s => .wait s
  | .held s => .wait (s.noteFault ia (some (ctx, 0)) 1)

/-- TCREATE: the image is checked and written whole; an entry whose own page faults waits for it. DEDUCED (log 47). -/
def execTcreate (q : Cmd) (s : State) : Out := cmdRun 0x31 q s (fun s =>
  let ctx := cxOf q
  let n := q.a0.toNat
  if !hasEntry s ctx n then .no s
  else
    let d : TDesc := (List.range 16).map (wordAt (hostRead s q.a1.toNat 128))
    let used := (tabGet (s.ctx ctx).tens n).isSome
    match (if used || !formatOk d then DRead.got s [] else readOwners s ctx d) with
    | .wait s => .wait s
    | .bad s .pageFaultLoad => .wait (s.noteFault (tOtab d) (some (ctx, 0)) 0)
    | .bad s _ => .done { s with free := s.free + 1 } 5 none
    | .got s tb =>
      match createResult s ctx used d ((List.range (tb.length / 8)).map (wordAt tb)) with
      | 0 => entryRes ctx (entryIa s ctx n) (writeEntry s ctx n (some d))
      | r => .done { s with free := s.free + 1 } r none)

/-- TDESTROY: the entry reads all zeros. -/
def execTdestroy (q : Cmd) (s : State) : Out := cmdRun 0x32 q s (fun s =>
  let n := q.a0.toNat
  if !hasEntry s (cxOf q) n then .no s
  else entryRes (cxOf q) (entryIa s (cxOf q) n) (writeEntry s (cxOf q) n none))

end Sys2Proof.Machine
end

