-- ==== Sys2Proof/Machine/Fleet.lean ====
section
/-! DEFINITION. The fleet (R381, R385 to R391): heartbeats, votes, fencing, appeal and readmission, thermal limits, power,
scrubbing, and the operators' commands on them. -/

namespace Sys2Proof.Machine

open Sys2Proof

def State.fleetCore (s : State) (c : CoreId) : FleetCore := s.fleet.cores[c.toNat]'c.isLt
def State.setFleetCore (s : State) (c : CoreId) (x : FleetCore) : State :=
  { s with fleet := { s.fleet with cores := s.fleet.cores.set c.toNat x c.isLt } }

/-- The heartbeat period of now (R385). DEDUCED (log 48). -/
def period (s : State) : Nat := s.gtc.toNat / 1024
/-- Mesh neighbours: physical id 8·row + column (R13). -/
def areNeighbours (a b : CoreId) : Bool :=
  let dx := Int.natAbs ((a.toNat % 8 : Int) - (b.toNat % 8 : Int))
  let dy := Int.natAbs ((a.toNat / 8 : Int) - (b.toNat / 8 : Int))
  dx + dy == 1
def neighbours (c : CoreId) : List CoreId := coreIds.filter (areNeighbours c)
/-- The votes that fence or readmit a core (R386). DEDUCED (log 48). -/
def votesNeeded (c : CoreId) : Nat := if (neighbours c).length = 4 then 3 else 2

/-- A record of the fleet about a core. -/
def State.fleetRecord (s : State) (c : CoreId) (code sev : Nat) : State :=
  s.report { code := code, sev := sev, src := 11, ctx := none, eng := 7, tix := 0, gstat := 0, addr := none, data := none,
             wher := some ((s.core c).lid.toNat + 64 * c.toNat) }

/-! Heartbeats and votes (R385, R386). -/

def pairKey (c n : CoreId) : Nat := 64 * c.toNat + n.toNat

/-- HEARTBEAT: in one period router c judges its neighbour n: three missing heartbeats, or one broken rule, make it
suspect. DEDUCED (log 48). -/
def execHeartbeat (c n : CoreId) (b : Beat) (s : State) : Out :=
  let key := pairKey c n
  let f := s.fleet
  if s.base.stg ≠ 3 || !areNeighbours c n || tabGet f.judged key == some (period s) then .next s
  else
    let miss := match b with | .missing => (tabGet f.missed key).getD 0 + 1 | _ => 0
    let clean := match b with | .clean => (tabGet f.clean key).getD 0 + 1 | _ => 0
    let bad : Bool := match b with | .missing => 3 ≤ miss | .faulty => true | .clean => false
    .next { s with fleet := { f with
      judged := tabSet f.judged key (period s), missed := tabSet f.missed key miss, clean := tabSet f.clean key clean,
      suspect := if bad then tabSet f.suspect key (period s) else f.suspect } }

/-- A vote that counts: sent less than 4 periods before now, by a core that is not fenced. -/
def isLive (s : State) (v : Vote) : Bool := period s < v.period + 4 && !(s.core v.voter).fenced
/-- DEDUCED (log 48). -/
def liveVotes (s : State) (c : CoreId) (readmit : Bool) : Nat :=
  s.fleet.votes.countP (fun v => v.suspect == c && v.readmit == readmit && isLive s v)

/-- VOTE: a router's vote against a suspect, or for a core whose appeal it received, reaches Basecamp; enough live votes
order the fence, or pass the appeal. DEDUCED (log 48). -/
def execVote (voter suspect : CoreId) (readmit : Bool) (s : State) : Out :=
  let key := pairKey voter suspect
  let f := s.fleet
  let x := s.fleetCore suspect
  let add (p : Nat) : State := { s with fleet := { f with
    votes := f.votes ++ [{ voter := voter, suspect := suspect, period := p, readmit := readmit }] } }
  if readmit then
    match x.test with
    | .appealing _ =>
      if (tabGet f.clean key).getD 0 < 8 || !areNeighbours voter suspect
          || f.votes.any (fun v => v.voter == voter && v.suspect == suspect && v.readmit) then .next s
      else
        let s := add (period s)
        if votesNeeded suspect ≤ liveVotes s suspect true then .next (s.setFleetCore suspect { x with test := .passed })
        else .next s
    | _ => .next s
  else
    match tabGet f.suspect key with
    | none => .next s
    | some p =>
      let s := add p
      let s := { s with fleet := { s.fleet with suspect := tabDel s.fleet.suspect key } }
      if (s.core suspect).fenced || s.fleet.ordered.contains suspect || liveVotes s suspect false < votesNeeded suspect then .next s
      else .next { s with fleet := { s.fleet with ordered := s.fleet.ordered ++ [suspect] } }

/-! Appeals that end (R388). -/

/-- An appeal that has run its 8 periods, whose votes have lapsed without a majority, is refused. DEDUCED (log 49). -/
def appealOver (s : State) (x : FleetCore) : Bool :=
  match x.test with | .appealing p => p + 12 ≤ period s | _ => false

/-- VOTE_LAPSE: votes of 4 periods ago lapse, and appeals without a majority are refused. DEDUCED (log 48). DEDUCED (log 49). -/
def execVoteLapse (s : State) : Out :=
  let s := { s with fleet := { s.fleet with votes := s.fleet.votes.filter (fun (v : Vote) => period s < v.period + 4) } }
  .next (coreIds.foldl (fun s c =>
    let x := s.fleetCore c
    if appealOver s x then (s.setFleetCore c { x with test := .refused (period s) }).fleetRecord c 0x0104 2 else s) s)

/-! Fencing (R387). -/

/-- An access to a fenced core ends: zero data, its stamps closed, and a FENCED record (R121). -/
def State.endFenced (s : State) (a : Acc) : State :=
  match a.loc with
  | .spad l _ =>
    let s := { s with homeQ := s.homeQ.filter (fun e => e != a) }
    let s := s.report { coreRec s a.core 0x0101 2 none with wher := some (l + 64 * (s.byLid l).toNat) }
    let closed (s : State) : State :=
      s.giveStamps (whoOf a) (flatStamps (a.arr + 1))
    (match a.op with
     | .load | .wload .. => s.answer a (List.replicate a.len 0) 0 false
     | .rmw _ size _ _ true => (closed s).answer a (List.replicate size 0) 0 false
     | .store _ | .storeM .. | .rmw .. => (closed s).partDone a
     | .fill _ => s
     | _ => s.voidFe a l)
  | _ => s

/-- The moves of a core are abandoned: their tasks fault, and the accesses they held end as FENCED. -/
def State.dropMoves (s : State) (c : CoreId) : State :=
  let gone := s.sched.moves.filter (fun m => m.src == c || m.dst == c)
  let held := s.homeQ.filter (fun a => gone.any (fun m => match a.loc with
    | .spad l _ => l == (s.core m.src).lid.toNat || l == (s.core m.dst).lid.toNat
    | _ => false))
  let s := { s with sched := { s.sched with moves := s.sched.moves.filter (fun (m : Move) => m.src != c && m.dst != c) } }
  let s := gone.foldl (fun s m => s.endFault m.src) s
  held.foldl (fun s a => s.endFenced a) s

/-- The saved iterations of a core's tasks are discarded, and their nodes fault. -/
def State.dropFrames (s : State) (l : Nat) : State :=
  let nodes := ((s.sched.saved.filter (fun v => v.lid == l)).map (fun v => v.it.node)).eraseDups
  let s := s.discardSaved (fun v => v.lid == l)
  (nodes.foldl (fun s n => match s.node n with
    | some x => s.setNode n (some { x with outcome := x.outcome ||| 1 })
    | none => s) s).settleSched

/-- An operation under way on a fenced core ends, but for a bank program, which stops at its SAFE. DEDUCED (log 49). -/
def EOp.silenced (e : Eng) (o : EOp) : EOp :=
  if o.fin || (e == .g && o.kind == 3) then o
  else { o with fin := true, status := 0x0101, gstatus := if e == .g then 5 else 0, held := none }
/-- The flits a fenced core has still to send are dropped: its queued accesses, its side log, its engines' writes (R387). DEDUCED (log 49). -/
def State.silence (s : State) (c : CoreId) : State :=
  (s.discardLogs c (fun _ => true)).modCore c (fun k => { k with
    pend := [], mq := k.mq.map (EOp.silenced .m), cq := k.cq.map (EOp.silenced .c), gq := k.gq.map (EOp.silenced .g),
    xq := k.xq.map (EOp.silenced .x) })

/-- The fence of a core takes effect; test says where it stands on its way back. DEDUCED (log 49). -/
def State.fence (s : State) (c : CoreId) (test : TestSt) : State :=
  let s := ((s.dropMoves c).endFault c).silence c
  let s := s.dropFrames (s.core c).lid.toNat
  let s := s.modCore c (fun k => { k with fenced := true, preReq := none, migReq := false })
  let s := s.setFleetCore c { s.fleetCore c with test := test }
  let s := { s with fleet := { s.fleet with ordered := s.fleet.ordered.filter (· != c) } }
  (s.bump 8).fleetRecord c 0x0102 3

/-- CORE_FENCED: the order reaches the neighbours' routers. DEDUCED (log 49). -/
def execCoreFenced (c : CoreId) (s : State) : Out :=
  if s.fleet.ordered.contains c && !(s.core c).fenced then .next (s.fence c (.running (period s))) else .next s

/-- FENCED: the response a fenced core owes to entry i times out. -/
def execFenced (i : Nat) (s : State) : Out :=
  match s.homeQ[i]? with
  | some a =>
    (match a.loc with
     | .spad l _ => if (s.core (s.byLid l)).fenced && a.arr.toNat + 65536 ≤ s.gtc.toNat then .next (s.endFenced a) else .next s
     | _ => .next s)
  | none => .next s

/-! Self-test, appeal, readmission (R388). -/

/-- SELF_TEST_END: a test under way ends; a refused core tests itself again 65,536 periods after the refusal. DEDUCED (log 49). -/
def execSelfTestEnd (c : CoreId) (pass : Bool) (s : State) : Out :=
  let x := s.fleetCore c
  let ends := match x.test with
    | .running _ => true
    | .refused p => p + 65536 ≤ period s
    | _ => false
  if !ends then .next s
  else if pass then
    let s := { s with fleet := { s.fleet with
      clean := s.fleet.clean.filter (fun e => e.1 % 64 != c.toNat),
      votes := s.fleet.votes.filter (fun v => !(v.suspect == c && v.readmit)) } }
    .next (s.setFleetCore c { x with test := .appealing (period s) })
  else .next ((s.setFleetCore c { x with test := .refused (period s) }).fleetRecord c 0x0104 2)

/-- 24 hours in ticks, at 1.05 GHz. DEDUCED (log 50). -/
def dayTicks : Nat := 86400 * 1050000000
/-- Under AUTO, Basecamp concurs at once up to the daily limit. -/
def autoConcurs (s : State) (x : FleetCore) : Bool :=
  s.fleet.auto && (x.readmits.filter (fun t => s.gtc.toNat < t.toNat + dayTicks)).length < s.fleet.perDay

/-- CORE_READMITTED: the core's pool is zeroed and it is eligible again. DEDUCED (log 49). -/
def execCoreReadmitted (c : CoreId) (s : State) : Out :=
  let x := s.fleetCore c
  let ok := match x.test with
    | .concurred => true
    | .passed => autoConcurs s x
    | _ => false
  if !ok then .next s
  else
    let auto := x.test == .passed
    let s := s.setFleetCore c { x with test := .none, shut := false, readmits := if auto then x.readmits ++ [s.gtc] else x.readmits }
    let s := { s with fleet := { s.fleet with
      votes := s.fleet.votes.filter (fun (v : Vote) => v.suspect != c),
      missed := s.fleet.missed.filter (fun e => e.1 % 64 != c.toNat),
      suspect := s.fleet.suspect.filter (fun e => e.1 % 64 != c.toNat) } }
    let s := (s.clearPool c).modCore c (fun k => { k with fenced := false, copies := [] })
    .next ((s.bump 9).fleetRecord c 0x0103 0)

/-! Thermal limits (R389). Readings are in sixteenths of a degree. -/

/-- Basecamp has two new readings of a core. DEDUCED (log 50). -/
def State.reads (s : State) (c : CoreId) (a b : Nat) : State :=
  s.setFleetCore c { s.fleetCore c with hi := max a b, lo := min a b }

/-- THERMAL_MIGRATE: at MIG or above, a migration request is posted (R295). -/
def execThermalMigrate (c : CoreId) (hi lo : Nat) (s : State) : Out :=
  if max hi lo < 16 * s.fleet.mig || (s.core c).migReq || (s.core c).fenced then .next s
  else
    let s := (s.reads c hi lo).modCore c (fun k => { k with migReq := true })
    .next ((s.bump 10).fleetRecord c 0x0105 0)

/-- THROTTLE: at THR or above, the core issues on alternate cycles. Only time changes. DEDUCED (log 50). -/
def execThrottle (c : CoreId) (hi lo : Nat) (s : State) : Out :=
  let x := s.fleetCore c
  if max hi lo < 16 * s.fleet.thr || x.throttled.isSome then .next s
  else
    let s := s.reads c hi lo
    .next ((s.setFleetCore c { s.fleetCore c with throttled := some (period s) }).fleetRecord c 0x0106 0)

/-- THROTTLE_END: the reading is below THR − 5 °C. DEDUCED (log 50). -/
def execThrottleEnd (c : CoreId) (hi lo : Nat) (s : State) : Out :=
  let x := s.fleetCore c
  match x.throttled with
  | none => .next s
  | some p =>
    if 16 * (s.fleet.thr - 5) ≤ max hi lo then .next s
    else
      let s := s.reads c hi lo
      .next (s.setFleetCore c { s.fleetCore c with
        throttled := none, throttledPeriods := x.throttledPeriods + (period s - p) })

/-- THERMAL_SHUTDOWN: both diodes at 115 °C fence the core without a vote. DEDUCED (log 50). -/
def execThermalShutdown (c : CoreId) (hi lo : Nat) (s : State) : Out :=
  if min hi lo < 16 * 115 || (s.fleetCore c).shut then .next s
  else
    let s := s.reads c hi lo
    let was := (s.core c).fenced
    let s := s.setFleetCore c { s.fleetCore c with shut := true }
    let s := (s.bump 11).fleetRecord c 0x0107 3
    .next (if was then s else s.fence c .waiting)

/-- READING_BELOW_MIG: the request ends, and a core shut down begins its self-test once its lower reading is there. DEDUCED (log 50). -/
def execReadingBelowMig (c : CoreId) (hi lo : Nat) (s : State) : Out :=
  let x := s.fleetCore c
  let test (s : State) : State :=
    if x.test == .waiting && min hi lo < 16 * s.fleet.mig then
      s.setFleetCore c { s.fleetCore c with test := .running (period s) } else s
  if max hi lo < 16 * s.fleet.mig then
    .next (test ((s.reads c hi lo).modCore c (fun k => { k with migReq := false })))
  else if x.test == .waiting && min hi lo < 16 * s.fleet.mig then .next (test (s.reads c hi lo))
  else .next s

/-! Power and scrubbing (R381, R390). -/

/-- POWER_WINDOW: a 10 ms window ends with an average within its limit; the next window has the limit set last. DEDUCED (log 50). -/
def execPowerWindow (mw : Nat) (s : State) : Out :=
  .next { s with fleet := { s.fleet with powerMw := min mw (1000 * s.fleet.power), power := s.fleet.powerNext } }

/-- SCRUB: a backed word is read; a corrected error is counted, an uncorrectable one is recorded and left as it stands. DEDUCED (log 51). -/
def execScrub (word : Nat) (r : ScrubResult) (s : State) : Out :=
  let pa := 64 * word
  if !isBacked s pa then .next s
  else match r with
    | .clean => .next s
    | .corrected => .next { s with fleet := { s.fleet with corrected := bumpAt s.fleet.corrected (pa / 2 ^ 36) } }
    | .uncorrectable =>
      let s := { s with fleet := { s.fleet with uncorrectable := bumpAt s.fleet.uncorrectable (pa / 2 ^ 36) } }
      .next (s.report { code := 0x0108, sev := 2, src := 6, ctx := none, eng := 7, tix := 0, gstat := 0, addr := some pa, data := none,
                        wher := some (pa / 2 ^ 32) })

/-! Commands (R390, R391). -/

def execThermcfg (q : Cmd) (s : State) : Out := cmdRun 0x07 q s (fun s =>
  let mig := wbits q.a0 7 0
  let thr := wbits q.a0 15 8
  if wbits q.a0 63 16 ≠ 0 then .bad s
  else if mig < 80 || 110 < mig || thr < mig + 5 || 112 < thr then .no s
  else .ok { s with fleet := { s.fleet with mig := mig, thr := thr } })

def execFencepol (q : Cmd) (s : State) : Out := cmdRun 0x0A q s (fun s =>
  if wbits q.a0 7 1 ≠ 0 || wbits q.a0 63 16 ≠ 0 then .bad s
  else .ok { s with fleet := { s.fleet with auto := q.a0.getLsbD 0, perDay := wbits q.a0 15 8 } })

def execReadmit (q : Cmd) (s : State) : Out := cmdRun 0x0B q s (fun s =>
  let c : CoreId := q.a0.truncate 6
  let x := s.fleetCore c
  if q.a0.toNat ≥ 64 || x.test != .passed then .no s
  else .ok (s.setFleetCore c { x with test := .concurred }))

def execPowercfg (q : Cmd) (s : State) : Out := cmdRun 0x0C q s (fun s =>
  let w := wbits q.a0 15 0
  if wbits q.a0 63 16 ≠ 0 then .bad s
  else if w < 280 || 450 < w then .no s
  else .ok { s with fleet := { s.fleet with powerNext := w } })

/-- The word of TELEM for a core. DEDUCED (log 51). -/
def teleCore (s : State) (c : CoreId) : Word :=
  let x := s.fleetCore c
  let p := x.throttledPeriods + (match x.throttled with | some t => period s - t | none => 0)
  let b (v : Bool) (n : Nat) : Nat := if v then 2 ^ n else 0
  w64 (x.hi % 65536 + b x.throttled.isSome 16 + b (s.core c).fenced 17 + b x.shut 18 + b (s.core c).migReq 19
    + p % 2 ^ 32 * 2 ^ 32)

/-- The words of the telemetry block; the package temperature is free. DEDUCED (log 51). -/
def teleWords (s : State) : List Word :=
  let t (i : Nat) : Word := w64 (s.fleet.tele.getD i 0)
  [s.gtc, t 0, w64 s.base.lostCount] ++ ((List.range 11).map (fun i => t (i + 1)))
    ++ [w64 s.fleet.powerMw, Config.freeWord s.free] ++ s.fleet.corrected.map w64 ++ s.fleet.uncorrectable.map w64
    ++ coreIds.map (teleCore s) ++ List.replicate 416 0

/-- DEDUCED (log 51). -/
def execTelem (q : Cmd) (s : State) : Out := cmdRun 0x06 q s (fun s =>
  if q.a0.toNat % 4096 ≠ 0 then .bad s
  else .ok { (s.hostWrite q.a0.toNat (wordBytes (teleWords s))) with free := s.free + 1 })

end Sys2Proof.Machine
end

