-- ==== Sys2Proof/Machine/Boot.lean ====
section
/-! DEFINITION. Start-up, firmware, attestation, the alarm and the MMIO registers (R317, R369 to R376, R390 to R393). -/

namespace Sys2Proof.Machine

open Sys2Proof

/-! Firmware images (R371). -/

def imgNum (b : List Byte) (i n : Nat) : Nat := leNat ((b.drop i).take n)
def imgVersion (b : List Byte) : Nat := imgNum b 8 4
def imgSvn (b : List Byte) : Nat := imgNum b 12 4
def imgPayload (b : List Byte) : List Byte := (b.drop 1024).take (imgNum b 16 8)
/-- The format of R371: the magic "OX7400FW", the zeros, a payload in the slot, and its digest and signature. DESIGN CHOICE (log 52). -/
def imageOk (b : List Byte) : Bool :=
  imgNum b 0 8 == 0x574630303437584F && 1024 + imgNum b 16 8 ≤ b.length && ((b.drop 88).take 424).all (· == 0)
    && Config.imageSigned b

def flashOf (s : State) (n : Nat) : List Byte := if n = 0 then s.fleet.flash0 else s.fleet.flash1
/-- The slot that FWSTAGE writes: the one not running. -/
def otherSlot (s : State) : Nat := if s.fleet.running = 0 then 1 else 0
def State.setFlash (s : State) (n : Nat) (b : List Byte) : State :=
  { s with fleet := if n = 0 then { s.fleet with flash0 := b } else { s.fleet with flash1 := b } }

/-- Write n bytes into a slot; bytes that nothing has written since the erasure are free. -/
def flashPut (old : List Byte) (off : Nat) (d : List Byte) : List Byte :=
  let pad := (List.range (off - old.length)).map (fun i => Config.erasedByte (old.length + i) 0)
  patch (old ++ pad) off d

/-- FWSTAGE: offset 0 first erases the slot, which stays uncommitted until FWCOMMIT. DESIGN CHOICE (log 52). -/
def execFwstage (q : Cmd) (s : State) : Out := cmdRun 0x03 q s (fun s =>
  let off := q.a1.toNat
  let n := q.a2.toNat
  if n = 0 || 65536 < n || Config.flashSize < off + n then .no s
  else
    let old := if off = 0 then [] else flashOf s (otherSlot s)
    let s := s.setFlash (otherSlot s) (flashPut old off (hostRead s q.a0.toNat n))
    .ok { s with fleet := { s.fleet with staged := true } })

/-- FWCOMMIT: the staged slot is verified as R371 says; BADIMAGE otherwise. DESIGN CHOICE (log 52). -/
def execFwcommit (q : Cmd) (s : State) : Out := cmdRun 0x04 q s (fun s =>
  let b := flashOf s (otherSlot s)
  if imageOk b && s.fleet.fused ≤ imgSvn b then .ok { s with fleet := { s.fleet with staged := false } }
  else .done s 0x83 none)

def execSvnlock (q : Cmd) (s : State) : Out := cmdRun 0x05 q s (fun s =>
  let svn := wbits s.base.fwver 31 0
  if s.fleet.fused = svn then .no s else .ok { s with fleet := { s.fleet with fused := max s.fleet.fused svn } })

/-! Start-up (R369, R370). -/

/-- RESET_RELEASE: the device starts anew. The host's memory, the flash and the fuses stay; the keys are new, so device
memory reads as unrelated bytes until written (R373, R374); the strap gives DEVNUM (R367). DEDUCED (log 53). -/
def execResetRelease (strap : Bool) (s : State) : Out :=
  let r := State.reset
  .next { r with
    mem := s.mem.filter (fun e => hostBase ≤ e.1 && e.1 < hostBase + 2 ^ 48), devnum := strap,
    xlat := { r.xlat with wiped := some s.free },
    base := { r.base with hostOut := s.base.hostOut, msix := s.base.msix },
    fleet := { r.fleet with flash0 := s.fleet.flash0, flash1 := s.fleet.flash1, running := s.fleet.running,
                            staged := s.fleet.staged, fused := s.fleet.fused },
    agenda := s.agenda, free := s.free + 1 }

/-- The slots that verify: an uncommitted one does not count (R392). DESIGN CHOICE (log 52). -/
def goodSlots (s : State) : List Nat := [0, 1].filter (fun n => imageOk (flashOf s n) && !(s.fleet.staged && n == otherSlot s))
/-- The slot stage 1 loads: of the higher version. DESIGN CHOICE (log 52). -/
def bestSlot (s : State) (l : List Nat) : Option Nat :=
  l.foldl (fun (r : Option Nat) n => match r with
    | some m => if imgVersion (flashOf s m) < imgVersion (flashOf s n) then some n else some m
    | none => some n) none

/-- A stage is reached: MSI-X vector 2 (R363). DEDUCED (log 53). -/
def State.toStage (s : State) (stg err : Nat) : State :=
  { s with base := { s.base with stg := stg, err := err, msix := s.base.msix ++ [2] } }

/-- The channels that stay out of service. DEDUCED (log 53). -/
def outChannels (c0 c1 : Word) : List Nat :=
  (List.range 128).filter (fun n => !(if n < 64 then c0.getLsbD n else c1.getLsbD (n - 64)))

/-- Basecamp sets LEASELEN (R73): when its firmware has taken over, and at any later time it chooses; to what is a free value.
DESIGN CHOICE (log 76). -/
def State.setLeaseLen (s : State) : State :=
  { s with leaseLen := w64 (32 + Config.freeNat s.free % 4065), free := s.free + 1 }

/-- START_STAGE: the work of a stage ends. Stage 1 verifies the firmware; stage 2 leaves the channels that trained, and
whose units passed, in service; after the last one Basecamp sets LEASELEN. DESIGN CHOICE (log 76). -/
def execStartStage (chanok0 chanok1 : Word) (s : State) : Out :=
  if s.base.err ≠ 0 then .next s
  else match s.base.stg with
    | 0 => .next (s.toStage 1 0)
    | 1 =>
      let good := goodSlots s
      (match bestSlot s (good.filter (fun n => s.fleet.fused ≤ imgSvn (flashOf s n))) with
       | some n =>
         let b := flashOf s n
         let s := { s with fleet := { s.fleet with running := n, staged := s.fleet.staged && n == s.fleet.running } }
         .next ({ s with base := { s.base with fwver := w64 (imgVersion b * 2 ^ 32 + imgSvn b) } }.toStage 2 0)
       | none => .next (s.toStage 0 (if good.isEmpty then 1 else 2)))
    | 2 =>
      let out := outChannels chanok0 chanok1
      if out.length = 128 then .next (s.toStage 2 3)
      else
        let s := { s with base := { s.base with chanok0 := chanok0, chanok1 := chanok1 } }
        let s := out.foldl (fun s n => s.report { code := 0x0110, sev := 3, src := 11, ctx := none, eng := 7, tix := 0,
                                                  gstat := 0, addr := none, data := none, wher := some n }) s
        .next (s.setLeaseLen.toStage 3 0)
    | _ => .next s.setLeaseLen

/-! The alarm (R374, R393). -/

/-- The alarm: its record, the keys erased, everything stopped, and safe mode with ERR 4 until reset release. DEDUCED (log 53). -/
def State.alarm (s : State) : State :=
  let s := s.report { code := 0x0112, sev := 3, src := 11, ctx := none, eng := 7, tix := 0, gstat := 0, addr := none, data := none,
                      wher := none }
  let r := State.reset
  ({ r with
    gtc := s.gtc, mem := s.mem.filter (fun e => hostBase ≤ e.1 && e.1 < hostBase + 2 ^ 48), devnum := s.devnum,
    xlat := { r.xlat with wiped := some s.free },
    base := { r.base with hostOut := s.base.hostOut, msix := s.base.msix, fwver := s.base.fwver, chanok0 := s.base.chanok0,
                          chanok1 := s.base.chanok1 },
    fleet := { s.fleet with votes := [], ordered := [] }, agenda := s.agenda, free := s.free + 1 }).toStage 0 4

/-- TAMPER_TRIP: one sensor's trip is recorded; another sensor's within 1 ms fires the alarm. DEDUCED (log 53). -/
def execTamperTrip (t : Sensor) (s : State) : Out :=
  if s.base.err = 4 then .next s
  else
    let s := s.report { code := 0x0111, sev := 1, src := 11, ctx := none, eng := 7, tix := 0, gstat := 0, addr := none, data := none,
                        wher := none }
    let near := s.fleet.trips.any (fun x => x.1 != t && s.gtc.toNat ≤ x.2.toNat + 1050000)
    let s := { s with fleet := { s.fleet with trips := s.fleet.trips ++ [(t, s.gtc)] } }
    .next (if near then s.alarm else s)

/-! Attestation (R372). -/

/-- The five measurements. DESIGN CHOICE (log 56). -/
def measurements (s : State) : List (List Byte) :=
  [Config.romVersion, Config.sha512 (imgPayload (flashOf s s.fleet.running)), leBytes 8 s.base.fwver.toNat,
   leBytes 2 s.fleet.power ++ Config.fusedOptions ++ [if s.devnum then 1 else 0], [if Config.debugOpen then 1 else 0]]
/-- The responder answers; in safe mode only the requests that early allows. DESIGN CHOICE (log 56). -/
def State.spdm (s : State) (kind : Nat) (early : Bool) (req : List Byte) : Out :=
  if s.base.stg = 0 && !early then .next s
  else .next { (s.toHost (.spdm (Config.spdm kind req (measurements s) s.free))) with free := s.free + 1 }

def execGetVersion (req : List Byte) (s : State) : Out := s.spdm 0 true req
def execGetCapabilities (req : List Byte) (s : State) : Out := s.spdm 1 true req
def execNegotiateAlgorithms (req : List Byte) (s : State) : Out := s.spdm 2 false req
def execGetDigests (req : List Byte) (s : State) : Out := s.spdm 3 false req
def execGetCertificate (req : List Byte) (s : State) : Out := s.spdm 4 true req
/-- DESIGN CHOICE (log 56). -/
def execChallenge (req : List Byte) (s : State) : Out := s.spdm 5 false req
def execGetMeasurements (req : List Byte) (s : State) : Out := s.spdm 6 false req

/-! MMIO writes (R317, R375, R376). -/

/-- A write that breaks the rules of its register is dropped and recorded. DEDUCED (log 54). -/
def State.badWrite (s : State) (off : Nat) : State :=
  s.report { code := causeCode .illOperand, sev := 2, src := 11, ctx := none, eng := 7, tix := 0, gstat := 0, addr := some off,
             data := none, wher := none }

/-- STGB: granules move between a slice's staging part and its cache part; what moves reads as zero. -/
def execStgb (slice : BitVec 5) (val : Word) (s : State) : Out :=
  if s.base.stg ≠ 3 then .next s
  else
    let n := slice.toNat
    let was := stgSize s n
    let s := { s with stgb := s.stgb.set n (w64 (wbits val 4 0)) slice.isLt }
    let now := stgSize s n
    .next { s with mem := memClear s.mem (stgKey n (min was now)) (stgKey n (max was now)) }

/-- BWDOG: 1 to 1,000 µs; another value is dropped. -/
def execBwdog (val : Word) (s : State) : Out :=
  let us := wbits val 9 0
  if s.base.stg ≠ 3 || us = 0 || 1000 < us then .next s
  else .next { s with base := { s.base with bwdog := w64 us } }

/-- MIGCFG. -/
def execMigcfg (val : Word) (s : State) : Out :=
  if s.base.stg ≠ 3 then .next s
  else if wbits val 32 16 ≠ 0 || wbits val 62 58 < 16 || 30 < wbits val 62 58 || wbits val 57 49 = 0 || 510 < wbits val 57 49
  then .next (s.badWrite 0x308)
  else .next { s with base := { s.base with migcfg := val } }

/-- A size a ring may have. -/
def ringSizeOk (v : Word) : Bool := [64, 128, 256, 512, 1024, 2048, 4096].contains v.toNat
/-- The base, size and tail-address registers of a ring may be written before HELLO or while it is empty. DEDUCED (log 54). -/
def ringOpen (s : State) (r : Ring) : Bool := !s.base.ready || r.head == r.tail

/-- A write to a ring's base or size (word 0 or 1), or to its head (word 2) where the driver owns it. DEDUCED (log 54). -/
def ringWrite (s : State) (r : Ring) (word : Nat) (v : Word) : Option Ring :=
  match word with
  | 0 => if ringOpen s r then some { r with base := v } else none
  | 1 => if ringOpen s r && ringSizeOk v then some { r with size := v } else none
  | _ => if v.toNat < r.size.toNat then some { r with head := v } else none

/-- MMIO_WRITE: a register by its BAR0 offset. A write to an offset that is not listed, or to a read-only register
outside the rings, is dropped. DEDUCED (log 54). -/
def execMmioWrite (off : Nat) (val : Word) (s : State) : Out :=
  let b := s.base
  let put (f : Base → Ring → Base) (r : Option Ring) : Out :=
    match r with
    | some r => .next { s with base := f s.base r }
    | none => .next (s.badWrite off)
  let cr (b : Base) (r : Ring) : Base := { b with cr := r }
  let cq (b : Base) (r : Ring) : Base := { b with cq := r }
  let eq (b : Base) (r : Ring) : Base := { b with eq := r }
  if b.stg ≠ 3 then .next s
  else match off with
    | 0x200 => put cr (ringWrite s b.cr 0 val)
    | 0x208 => put cr (ringWrite s b.cr 1 val)
    | 0x210 => if ringOpen s b.cr then .next { s with base := { b with crtail := val } } else .next (s.badWrite off)
    | 0x218 => .next (s.badWrite off)
    | 0x240 => put cq (ringWrite s b.cq 0 val)
    | 0x248 => put cq (ringWrite s b.cq 1 val)
    | 0x250 => put cq (ringWrite s b.cq 2 val)
    | 0x258 => .next (s.badWrite off)
    | 0x280 => put eq (ringWrite s b.eq 0 val)
    | 0x288 => put eq (ringWrite s b.eq 1 val)
    | 0x290 => put eq (ringWrite s b.eq 2 val)
    | 0x298 => .next (s.badWrite off)
    | 0x300 => execBwdog val s
    | 0x308 => execMigcfg val s
    | _ =>
      if 0x800 ≤ off && off < 0x900 && off % 8 = 0 then execStgb (BitVec.ofNat 5 ((off - 0x800) / 8)) val s
      else if 0x10000 ≤ off && off < 0x20000 && off % 4096 = 0 then
        execLaunch (BitVec.ofNat 4 ((off - 0x10000) / 4096)) val s
      else .next s

end Sys2Proof.Machine
end

