-- ==== Sys2Proof/Machine/Issue.lean ====
section
/-! DEFINITION. Fetching and issuing an instruction (R70, R90 to R92, R111), waits for tokens (R15). -/

namespace Sys2Proof.Machine

open Sys2Proof

/-! Fetch. -/

/-- What a fetch finds. -/
inductive Fetched where
  | got (s : State) (x : BitVec 32)
  | stall (s : State)
  | bad (x : Cause)

/-- Use or fill a line of the instruction cache: 64 sets of 8 ways, the least recently used leaves (R92). -/
def Core.touchIline (k : Core) (line : Nat) (d : List Byte) : Core :=
  let other := k.icache.filter (fun e => e.1 != line)
  let set := other.filter (fun e => e.1 % 64 == line % 64)
  let rest := other.filter (fun e => e.1 % 64 != line % 64)
  { k with icache := (line, d) :: (set.take 7 ++ rest) }

/-- The bytes of a line of code, from the cache or by a fill. DEDUCED (log 21). -/
def fetchLine (s : State) (c : CoreId) (line : Nat) : Option (List Byte) × State :=
  let k := s.core c
  match k.icache.find? (fun e => e.1 == line) with
  | some (_, d) => (some d, s.setCore c (k.touchIline line d))
  | none =>
    match byteGlobal s k (64 * line) .x false with
    | .ok l _ gr =>
      (match readSectors s { core := c, eng := .s, seq := k.seq } l gr 2 with
       | .done s d _ _ => (some d, s.modCore c (fun k => k.touchIline line d))
       | .retry s => (none, s)
       | .held s => (none, s.noteFault (match l with | .ia a => a | x => x.key) (ctxOf s c) 0)
       | .mig s => (none, s))
    | _ => (none, s)

/-- Fetch the parcel at a VA: X permission is checked, then its bytes come through the cache (R91, R92). DEDUCED (log 21). -/
def fetchParcel (s : State) (c : CoreId) (va : Nat) : Fetched :=
  match worst ((List.range 4).map (fun i => byteGlobal s (s.core c) (va + i) .x false)) with
  | some x => .bad x
  | none =>
    match fetchLine s c (va / 64) with
    | (none, s) => .stall s
    | (some d, s) =>
      if va % 64 ≤ 60 then .got s (BitVec.ofNat 32 (leNat ((d.drop (va % 64)).take 4)))
      else match fetchLine s c (va / 64 + 1) with
        | (none, s) => .stall s
        | (some e, s) => .got s (BitVec.ofNat 32 (leNat (((d ++ e).drop (va % 64)).take 4)))

/-! ISSUE. -/

/-- A deferred trap comes at the next instruction boundary, before another instruction (R185). -/
def trapDue (k : Core) : Bool :=
  k.wait.isNone && (match k.deferred with | d :: _ => !k.handler || d.page | [] => false)

/-- S does not wait, or waits in an instruction that looks again (R28, R132, R137). DEDUCED (log 13). -/
def waitLooks (x : Option Wait) : Bool := x.isNone || isInside x

/-- S may issue: it does not wait, or waits in an instruction that looks again (R14, R15). -/
def canIssue (k : Core) : Bool := k.iter.isSome && !k.fenced && !trapDue k && waitLooks k.wait

/-- The first instruction of an iteration issues: it counts when its cancelled sibling's ballot has closed (R300). -/
def State.begin (s : State) (c : CoreId) : State :=
  match (s.core c).iter with
  | some it =>
    if it.begun then s
    else
      let s := s.modCore c (fun k => { k with iter := some { it with begun := true } })
      (match it.sib with
       | some (g, i) => (match s.ballot g with
         | some b => if b.closed && b.cancelled.testBit i then
             s.setBallot g (some { b with dispAfter := min (2 ^ 64 - 1) (b.dispAfter + 1) }) else s
         | none => s)
       | none => s)
  | none => s

/-- A parcel that does not decode traps (R111), once every earlier vector instruction has passed its start checks (R155). -/
def State.decoded (s : State) (c : CoreId) : Decoded → State
  | .ok i => { (s.begin c) with fetched := some i }
  | .illOp => if (s.core c).vq.isEmpty then s.trapFree c .illOp else s
  | .illField => if (s.core c).vq.isEmpty then s.trapFree c .illField else s

/-- ISSUE: the instruction at pc is fetched and decoded, and stands ready to run on core c. Both parcels are fetched
before either is decoded. DESIGN CHOICE (log 66). DEDUCED (log 21). -/
def execIssue (c : CoreId) (s : State) : Out :=
  let k := s.core c
  if !canIssue k then .next s
  else
    let s := { s with cur := c }
    match fetchParcel s c k.pc.toNat with
    | .bad x => .next (if k.vq.isEmpty then s.trapNow c x k.pc else s)
    | .stall s => .next s
    | .got s lo =>
      if lo.getLsbD 31 then .next (s.decoded c (decodePatch lo))
      else match fetchParcel s c (k.pc.toNat + 4) with
        | .bad x => .next (if k.vq.isEmpty then s.trapNow c x (k.pc + 4) else s)
        | .stall s => .next s
        | .got s hi => .next (s.decoded c (decodeParcels lo hi))

/-! Waits for tokens (R15). -/

def opWaits (o : EOp) : Bool := o.tokStart.isSome

/-- TOKEN_WAIT_END: the pop or push that waited goes on. -/
def execTokenWaitEnd (c : CoreId) (e : Eng) (s : State) : Out :=
  let k := s.core c
  match e with
  | .s =>
    (match k.wait with
     | some (.token _ q isPush) =>
       if (if isPush then k.pushReady q else k.popReady q) then .next (s.setCore c { k with wait := none }) else .next s
     | _ => .next s)
  | .v => (match k.vq with | x :: _ => if x.tokStart.isSome then .next (s.vecStart c) else .next s | [] => .next s)
  | e =>
    match k.headOp e with
    | none => .next s
    | some o =>
      if !opWaits o then .next s
      else if o.fin then .next (s.opFinish c e)
      else if k.popReady (hPop o.bits) then .next (s.setHead c e { o with tokStart := none })
      else .next s

/-- A wait that began at a tick has lasted 2^20 ticks. -/
def isLate (s : State) (t : Word) : Bool := t.toNat + waitLimit ≤ s.gtc.toNat

/-- TOKEN_TIMEOUT: a precise trap of S or V; any other engine's operation completes with ENGINE_FAULT, its push
is still made unless that is what it waited for. DEDUCED (log 15). -/
def execTokenTimeout (c : CoreId) (e : Eng) (s : State) : Out :=
  let k := s.core c
  match e with
  | .s =>
    (match k.wait with
     | some (.token t q _) => if isLate s t then .next (s.trapNow c .tokenTimeout (q.zeroExtend 64)) else .next s
     | _ => .next s)
  | .v =>
    (match k.vq with
     | x :: _ =>
       (match x.tokStart, vecOf x.ins with
        | some t, some (w, _) =>
          if isLate s t then
            .next (s.vecTrap c .tokenTimeout ((if k.popReady w.pop then w.push else w.pop).zeroExtend 64))
          else .next s
        | _, _ => .next s)
     | [] => .next s)
  | e =>
    match k.headOp e with
    | none => .next s
    | some o =>
      (match o.tokStart with
       | some t =>
         if !isLate s t then .next s
         else .next (s.setHead c e { (o.fail .tokenTimeout) with
           tokStart := none, noTok := o.fin, gstatus := if e == .g then 5 else 0 })
       | none => .next s)

end Sys2Proof.Machine
end

