-- ==== Sys2Proof/Machine/Scalar.lean ====
section
/-! DEFINITION. Integer and bit arithmetic, compares, predicate moves, address arithmetic and control flow
(R113 to R118). -/

namespace Sys2Proof.Machine

open Sys2Proof

/-! R113. -/

/-- Clamp an exact result to 64 bits: F = 1 signed, F = 2 unsigned. -/
def satW (f : Nat) (x : Int) : Word :=
  if f = 1 then BitVec.ofInt 64 (max (-(2 ^ 63)) (min (2 ^ 63 - 1) x)) else BitVec.ofInt 64 (max 0 (min (2 ^ 64 - 1) x))

/-- ADD and SUB by their F. -/
def addSub (sub : Bool) (f : Nat) (a b : Word) : Word :=
  match f with
  | 0 => if sub then a - b else a + b
  | 1 => satW 1 (if sub then a.toInt - b.toInt else a.toInt + b.toInt)
  | _ => satW 2 (if sub then (a.toNat : Int) - b.toNat else a.toNat + b.toNat)

/-- The high half of the product by F (R113). -/
def mulHigh (f : Nat) (a b : Word) : Word :=
  let x : Int := if f = 1 then a.toNat else a.toInt
  let y : Int := if f = 0 then b.toInt else b.toNat
  BitVec.ofInt 64 (x * y / 2 ^ 64)

def divW (f : Nat) (a b : Word) : Word :=
  if b = 0 then BitVec.allOnes 64 else if f = 0 then BitVec.ofInt 64 (a.toInt.tdiv b.toInt) else a / b
def remW (f : Nat) (a b : Word) : Word :=
  if b = 0 then a else if f = 0 then BitVec.ofInt 64 (a.toInt.tmod b.toInt) else a % b

def clzW (a : Word) : Word := if a = 0 then 64 else w64 (63 - a.toNat.log2)
def popcNat (n x : Nat) : Nat := (List.range n).countP (fun i => x.testBit i)
def popcW (a : Word) : Word := w64 (popcNat 64 a.toNat)

/-- Position and length of BFX and BFI in sB. -/
def bfPos (b : Word) : Nat := wbits b 5 0
def bfLen (b : Word) : Nat := wbits b 13 8 + 1
def bfxW (f : Nat) (a b : Word) : Word :=
  let v := a.toNat / 2 ^ bfPos b % 2 ^ bfLen b
  if f = 1 then BitVec.ofInt 64 (toS (bfLen b) v) else w64 v
def bfiW (d a b : Word) : Word :=
  let m := w64 ((2 ^ bfLen b - 1) * 2 ^ bfPos b)
  (d &&& ~~~m) ||| (w64 (a.toNat * 2 ^ bfPos b) &&& m)

def execAdd (w : Fields) (s : State) : Out := aluRun s w (fun k => addSub false w.f.toNat (k.rs w.a) (k.rs w.b))
def execSub (w : Fields) (s : State) : Out := aluRun s w (fun k => addSub true w.f.toNat (k.rs w.a) (k.rs w.b))
def execMul (w : Fields) (s : State) : Out := aluRun s w (fun k => k.rs w.a * k.rs w.b)
def execMulh (w : Fields) (s : State) : Out := aluRun s w (fun k => mulHigh w.f.toNat (k.rs w.a) (k.rs w.b))
def execDiv (w : Fields) (s : State) : Out := aluRun s w (fun k => divW w.f.toNat (k.rs w.a) (k.rs w.b))
def execRem (w : Fields) (s : State) : Out := aluRun s w (fun k => remW w.f.toNat (k.rs w.a) (k.rs w.b))
def execAnd (w : Fields) (s : State) : Out := aluRun s w (fun k => k.rs w.a &&& k.rs w.b)
def execOr (w : Fields) (s : State) : Out := aluRun s w (fun k => k.rs w.a ||| k.rs w.b)
def execXor (w : Fields) (s : State) : Out := aluRun s w (fun k => k.rs w.a ^^^ k.rs w.b)
def execAndn (w : Fields) (s : State) : Out := aluRun s w (fun k => k.rs w.a &&& ~~~(k.rs w.b))
def execShl (w : Fields) (s : State) : Out := aluRun s w (fun k => k.rs w.a <<< wbits (k.rs w.b) 5 0)
def execShr (w : Fields) (s : State) : Out := aluRun s w (fun k => k.rs w.a >>> wbits (k.rs w.b) 5 0)
def execSra (w : Fields) (s : State) : Out := aluRun s w (fun k => (k.rs w.a).sshiftRight (wbits (k.rs w.b) 5 0))
/-- The lesser operand; F = 1 compares unsigned. -/
def execMin (w : Fields) (s : State) : Out := aluRun s w (fun k =>
  let a := k.rs w.a; let b := k.rs w.b
  if (if w.f = 0 then a.slt b else a.ult b) then a else b)
def execMax (w : Fields) (s : State) : Out := aluRun s w (fun k =>
  let a := k.rs w.a; let b := k.rs w.b
  if (if w.f = 0 then a.slt b else a.ult b) then b else a)
def execClz (w : Fields) (s : State) : Out := aluRun s w (fun k => clzW (k.rs w.a))
def execPopc (w : Fields) (s : State) : Out := aluRun s w (fun k => popcW (k.rs w.a))
def execBfx (w : Fields) (s : State) : Out := aluRun s w (fun k => bfxW w.f.toNat (k.rs w.a) (k.rs w.b))
def execBfi (w : Fields) (s : State) : Out := aluRun s w (fun k => bfiW (k.rs w.d) (k.rs w.a) (k.rs w.b))
def execSel (w : Fields) (s : State) : Out := aluRun s w (fun k =>
  if (k.rp (w.f.truncate 4)).getLsbD 0 then k.rs w.a else k.rs w.b) { useAhead w with pr := [w.f.truncate 4] }

/-! R114. -/

def execAddi (w : Fields) (s : State) : Out := aluRun s w (fun k => k.rs w.a + se20 w.imm)
def execAndi (w : Fields) (s : State) : Out := aluRun s w (fun k => k.rs w.a &&& se20 w.imm)
def execOri (w : Fields) (s : State) : Out := aluRun s w (fun k => k.rs w.a ||| ze20 w.imm)
def execXori (w : Fields) (s : State) : Out := aluRun s w (fun k => k.rs w.a ^^^ ze20 w.imm)
def execShli (w : Fields) (s : State) : Out := aluRun s w (fun k => k.rs w.a <<< (w.imm.toNat % 64))
def execShri (w : Fields) (s : State) : Out := aluRun s w (fun k => k.rs w.a >>> (w.imm.toNat % 64))
def execSrai (w : Fields) (s : State) : Out := aluRun s w (fun k => (k.rs w.a).sshiftRight (w.imm.toNat % 64))
def execMovi (w : Fields) (s : State) : Out := aluRun s w (fun _ => se20 w.imm)
def execLui (w : Fields) (s : State) : Out := aluRun s w (fun k =>
  if w.f = 0 then se20 w.imm <<< 20 else (k.rs w.a &&& 0xFFFFFFFFFF#64) ||| (se20 w.imm <<< 40))

/-! R115, R116. -/

/-- D names the p register a compare changes. -/
def useCmp (w : Fields) (s : List (BitVec 6)) : Use := { s := s, pw := [r4 w.d], ahead := true }
def execCmp (w : Fields) (s : State) : Out := coreRun s w (fun k =>
  k.wp (r4 w.d) (cmpCombine (fHi w) (k.rp (r4 w.d)) (cmpCond (fLo w) (k.rs w.a) (k.rs w.b)))) (useCmp w [w.a, w.b])
def execCmpi (w : Fields) (s : State) : Out := coreRun s w (fun k =>
  k.wp (r4 w.d) (cmpCombine (fHi w) (k.rp (r4 w.d)) (cmpCond (fLo w) (k.rs w.a) (se20 w.imm)))) (useCmp w [w.a])

/-- PMOV by its F (R116). -/
def pmov (w : Fields) (k : Core) : Core :=
  let a := k.rp (r4 w.a)
  let b := k.rp (r4 w.b)
  let put (v : Pred) : Core := k.wp (r4 w.d) v
  match w.f.toNat with
  | 0 => put a
  | 1 => put (a &&& b)
  | 2 => put (a ||| b)
  | 3 => put (a ^^^ b)
  | 4 => put (a &&& ~~~b)
  | 5 => put (~~~a)
  | 6 => put (predOf true)
  | 7 => put (predOf false)
  | 8 => put ((k.rs w.a).zeroExtend 256)
  | 9 => k.ws w.d (a.truncate 64)
  | _ => put (predOf (k.rs w.a != 0))
/-- The registers PMOV names, by its F. -/
def usePmov (w : Fields) : Use :=
  if w.f.toNat = 8 ∨ w.f.toNat = 10 then useCmp w [w.a]
  else if w.f.toNat = 9 then { s := [w.d], pr := [r4 w.a], ahead := true }
  else { s := [], pr := [r4 w.a, r4 w.b], pw := [r4 w.d], ahead := true }
def execPmov (w : Fields) (s : State) : Out := coreRun s w (pmov w) (usePmov w)

/-! R117. -/

def execLea (w : Fields) (s : State) : Out := aluRun s w (fun k =>
  k.rs w.a + (k.rs w.b <<< fLo w) + se20 w.imm)
def execLea2 (w : Fields) (s : State) : Out := aluRun s w (fun k =>
  k.rs w.a + w64 (wbits (k.rs w.b) 31 0) * ze20 w.imm + (w64 (wbits (k.rs w.b) 63 32) <<< fLo w))

/-! R118. -/

def execB (w : Fields) (s : State) : Out := sRun s w (fun s c => .done s (relTarget (s.core c) w))
  { s := [], ahead := true }
/-- BI reads its target before it writes the link. -/
def execBi (w : Fields) (s : State) : Out := sRun s w (fun s c =>
  let k := s.core c
  match jumpTo s (k.rs w.a) with
  | .done _ t => .done (if w.f = 1 then s.setCore c (k.ws 63 k.npc) else s) t
  | r => r) { s := w.a :: (if w.f = 1 then [63] else []), ahead := true }
def execCall (w : Fields) (s : State) : Out := sRun s w (fun s c =>
  let k := s.core c
  .done (s.setCore c (k.ws 63 k.npc)) (relTarget k w)) { s := [63], ahead := true }
def execRet (w : Fields) (s : State) : Out := sRun s w (fun s c => jumpTo s ((s.core c).rs w.a))
  { s := [w.a], ahead := true }
def execLoopn (w : Fields) (s : State) : Out := sRun s w (fun s c =>
  let k := s.core c
  let v := k.rs w.d - 1
  .done (s.setCore c (k.ws w.d v)) (if v = 0 then k.npc else relTarget k w)) { s := [w.d], ahead := true }

end Sys2Proof.Machine
end

