-- ==== Sys2Proof/Machine/Dispatch.lean ====
section
/-! DEFINITION. The meaning of every instruction: one arm per constructor, one direct call each. -/

namespace Sys2Proof.Machine

open Sys2Proof

def exec (i : Instr) (s : State) : Host.Outcome State Fault Refusal :=
  match i with
  | .issue c => Sys2Proof.Machine.execIssue c s
  | .performALoad c n copy => Sys2Proof.Machine.execPerformALoad c n copy s
  | .sendAStore c n => Sys2Proof.Machine.execSendAStore c n s
  | .serveAtAHome n => Sys2Proof.Machine.execServeAtAHome n s
  | .returnAStamp c n => Sys2Proof.Machine.execReturnAStamp c n s
  | .expireALease c n => Sys2Proof.Machine.execExpireALease c n s
  | .leaseTableClear g => Sys2Proof.Machine.execLeaseTableClear g s
  | .retireAFence c => Sys2Proof.Machine.execRetireAFence c s
  | .tick => Sys2Proof.Machine.execTick s
  | .engineOperationStart c e => Sys2Proof.Machine.execEngineOperationStart c e s
  | .engineOperationComplete c e => Sys2Proof.Machine.execEngineOperationComplete c e s
  | .deferredTrap c => Sys2Proof.Machine.execDeferredTrap c s
  | .tokenTimeout c e => Sys2Proof.Machine.execTokenTimeout c e s
  | .tokenWaitEnd c e => Sys2Proof.Machine.execTokenWaitEnd c e s
  | .feTimeout c => Sys2Proof.Machine.execFeTimeout c s
  | .feWaitEnd n => Sys2Proof.Machine.execFeWaitEnd n s
  | .landing c n => Sys2Proof.Machine.execLanding c n s
  | .sideLogReplay c => Sys2Proof.Machine.execSideLogReplay c s
  | .scSlot c => Sys2Proof.Machine.execScSlot c s
  | .matrixLeaseGrant cl => Sys2Proof.Machine.execMatrixLeaseGrant cl s
  | .matrixLeaseExpiry cl => Sys2Proof.Machine.execMatrixLeaseExpiry cl s
  | .patchWord p => Sys2Proof.Machine.execPatchWord p s
  | .add w => Sys2Proof.Machine.execAdd w s
  | .sub w => Sys2Proof.Machine.execSub w s
  | .mul w => Sys2Proof.Machine.execMul w s
  | .mulh w => Sys2Proof.Machine.execMulh w s
  | .div w => Sys2Proof.Machine.execDiv w s
  | .rem w => Sys2Proof.Machine.execRem w s
  | .and w => Sys2Proof.Machine.execAnd w s
  | .or w => Sys2Proof.Machine.execOr w s
  | .xor w => Sys2Proof.Machine.execXor w s
  | .andn w => Sys2Proof.Machine.execAndn w s
  | .shl w => Sys2Proof.Machine.execShl w s
  | .shr w => Sys2Proof.Machine.execShr w s
  | .sra w => Sys2Proof.Machine.execSra w s
  | .min w => Sys2Proof.Machine.execMin w s
  | .max w => Sys2Proof.Machine.execMax w s
  | .clz w => Sys2Proof.Machine.execClz w s
  | .popc w => Sys2Proof.Machine.execPopc w s
  | .bfx w => Sys2Proof.Machine.execBfx w s
  | .bfi w => Sys2Proof.Machine.execBfi w s
  | .sel w => Sys2Proof.Machine.execSel w s
  | .addi w => Sys2Proof.Machine.execAddi w s
  | .andi w => Sys2Proof.Machine.execAndi w s
  | .ori w => Sys2Proof.Machine.execOri w s
  | .xori w => Sys2Proof.Machine.execXori w s
  | .shli w => Sys2Proof.Machine.execShli w s
  | .shri w => Sys2Proof.Machine.execShri w s
  | .srai w => Sys2Proof.Machine.execSrai w s
  | .movi w => Sys2Proof.Machine.execMovi w s
  | .lui w => Sys2Proof.Machine.execLui w s
  | .cmp w => Sys2Proof.Machine.execCmp w s
  | .cmpi w => Sys2Proof.Machine.execCmpi w s
  | .pmov w => Sys2Proof.Machine.execPmov w s
  | .lea w => Sys2Proof.Machine.execLea w s
  | .lea2 w => Sys2Proof.Machine.execLea2 w s
  | .b w => Sys2Proof.Machine.execB w s
  | .bi w => Sys2Proof.Machine.execBi w s
  | .call w => Sys2Proof.Machine.execCall w s
  | .ret w => Sys2Proof.Machine.execRet w s
  | .loopn w => Sys2Proof.Machine.execLoopn w s
  | .ld w => Sys2Proof.Machine.execLd w s
  | .st w => Sys2Proof.Machine.execSt w s
  | .lds w => Sys2Proof.Machine.execLds w s
  | .sts w => Sys2Proof.Machine.execSts w s
  | .ldf w => Sys2Proof.Machine.execLdf w s
  | .ste w => Sys2Proof.Machine.execSte w s
  | .stf w => Sys2Proof.Machine.execStf w s
  | .feclr w => Sys2Proof.Machine.execFeclr w s
  | .feq w => Sys2Proof.Machine.execFeq w s
  | .pref w => Sys2Proof.Machine.execPref w s
  | .ldp w => Sys2Proof.Machine.execLdp w s
  | .amo w => Sys2Proof.Machine.execAmo w s
  | .amosc w => Sys2Proof.Machine.execAmosc w s
  | .red w => Sys2Proof.Machine.execRed w s
  | .fence w => Sys2Proof.Machine.execFence w s
  | .flagadd w => Sys2Proof.Machine.execFlagadd w s
  | .flagset w => Sys2Proof.Machine.execFlagset w s
  | .seal w => Sys2Proof.Machine.execSeal w s
  | .unseal w => Sys2Proof.Machine.execUnseal w s
  | .ballot w => Sys2Proof.Machine.execBallot w s
  | .canchk w => Sys2Proof.Machine.execCanchk w s
  | .phbegin w => Sys2Proof.Machine.execPhbegin w s
  | .phcommit w => Sys2Proof.Machine.execPhcommit w s
  | .tkpop w => Sys2Proof.Machine.execTkpop w s
  | .tkpush w => Sys2Proof.Machine.execTkpush w s
  | .tkq w => Sys2Proof.Machine.execTkq w s
  | .rdtime w => Sys2Proof.Machine.execRdtime w s
  | .sleept w => Sys2Proof.Machine.execSleept w s
  | .sleeptWake c => Sys2Proof.Machine.execSleeptWake c s
  | .hzn w => Sys2Proof.Machine.execHzn w s
  | .rte w => Sys2Proof.Machine.execRte w s
  | .kill w => Sys2Proof.Machine.execKill w s
  | .cfgr w => Sys2Proof.Machine.execCfgr w s
  | .cfgw w => Sys2Proof.Machine.execCfgw w s
  | .cfgwTqcfg w => Sys2Proof.Machine.execCfgwTqcfg w s
  | .cfgwPoolBoundary w => Sys2Proof.Machine.execCfgwPoolBoundary w s
  | .cfgwLseed w => Sys2Proof.Machine.execCfgwLseed w s
  | .cfgwStatus w => Sys2Proof.Machine.execCfgwStatus w s
  | .cfgwView w => Sys2Proof.Machine.execCfgwView w s
  | .view w => Sys2Proof.Machine.execView w s
  | .tset w => Sys2Proof.Machine.execTset w s
  | .tload w => Sys2Proof.Machine.execTload w s
  | .tsave w => Sys2Proof.Machine.execTsave w s
  | .mlease w => Sys2Proof.Machine.execMlease w s
  | .mrel w => Sys2Proof.Machine.execMrel w s
  | .aswap w => Sys2Proof.Machine.execAswap w s
  | .mstat w => Sys2Proof.Machine.execMstat w s
  | .refld w => Sys2Proof.Machine.execRefld w s
  | .refst w => Sys2Proof.Machine.execRefst w s
  | .hld w => Sys2Proof.Machine.execHld w s
  | .hst w => Sys2Proof.Machine.execHst w s
  | .refpin w => Sys2Proof.Machine.execRefpin w s
  | .refunpin w => Sys2Proof.Machine.execRefunpin w s
  | .kvag w => Sys2Proof.Machine.execKvag w s
  | .kvaddr w => Sys2Proof.Machine.execKvaddr w s
  | .endIter w => Sys2Proof.Machine.execEndIter w s
  | .yield w => Sys2Proof.Machine.execYield w s
  | .spawn w => Sys2Proof.Machine.execSpawn w s
  | .trap w => Sys2Proof.Machine.execTrap w s
  | .vadd w => Sys2Proof.Machine.execVadd w s
  | .vsub w => Sys2Proof.Machine.execVsub w s
  | .vmul w => Sys2Proof.Machine.execVmul w s
  | .vfma w => Sys2Proof.Machine.execVfma w s
  | .vmin w => Sys2Proof.Machine.execVmin w s
  | .vmax w => Sys2Proof.Machine.execVmax w s
  | .vun w => Sys2Proof.Machine.execVun w s
  | .vcmp w => Sys2Proof.Machine.execVcmp w s
  | .vsel w => Sys2Proof.Machine.execVsel w s
  | .vlog w => Sys2Proof.Machine.execVlog w s
  | .vsh w => Sys2Proof.Machine.execVsh w s
  | .vcvt w => Sys2Proof.Machine.execVcvt w s
  | .vred w => Sys2Proof.Machine.execVred w s
  | .vscan w => Sys2Proof.Machine.execVscan w s
  | .vperm w => Sys2Proof.Machine.execVperm w s
  | .vbcast w => Sys2Proof.Machine.execVbcast w s
  | .vext w => Sys2Proof.Machine.execVext w s
  | .vins w => Sys2Proof.Machine.execVins w s
  | .vld w => Sys2Proof.Machine.execVld w s
  | .vst w => Sys2Proof.Machine.execVst w s
  | .vldg w => Sys2Proof.Machine.execVldg w s
  | .vsts w => Sys2Proof.Machine.execVsts w s
  | .vldf w => Sys2Proof.Machine.execVldf w s
  | .vste w => Sys2Proof.Machine.execVste w s
  | .vqnt w => Sys2Proof.Machine.execVqnt w s
  | .vdqnt w => Sys2Proof.Machine.execVdqnt w s
  | .vlogc w => Sys2Proof.Machine.execVlogc w s
  | .vdot w => Sys2Proof.Machine.execVdot w s
  | .vpm w => Sys2Proof.Machine.execVpm w s
  | .viota w => Sys2Proof.Machine.execViota w s
  | .vtopk w => Sys2Proof.Machine.execVtopk w s
  | .vrand w => Sys2Proof.Machine.execVrand w s
  | .mmac c n => Sys2Proof.Machine.execMmac c n s
  | .mzero c n => Sys2Proof.Machine.execMzero c n s
  | .mkat c n => Sys2Proof.Machine.execMkat c n s
  | .mhash c n => Sys2Proof.Machine.execMhash c n s
  | .cpy c n => Sys2Proof.Machine.execCpy c n s
  | .cpynd c n => Sys2Proof.Machine.execCpynd c n s
  | .gather c n => Sys2Proof.Machine.execGather c n s
  | .scatter c n => Sys2Proof.Machine.execScatter c n s
  | .fill c n => Sys2Proof.Machine.execFill c n s
  | .relayout c n => Sys2Proof.Machine.execRelayout c n s
  | .mcast c n => Sys2Proof.Machine.execMcast c n s
  | .phfetch c n => Sys2Proof.Machine.execPhfetch c n s
  | .stage c n => Sys2Proof.Machine.execStage c n s
  | .desc c n => Sys2Proof.Machine.execDesc c n s
  | .bload c => Sys2Proof.Machine.execBload c s
  | .bact c => Sys2Proof.Machine.execBact c s
  | .bexec c => Sys2Proof.Machine.execBexec c s
  | .writeThroughDrain c => Sys2Proof.Machine.execWriteThroughDrain c s
  | .bexecComplete c => Sys2Proof.Machine.execBexecComplete c s
  | .bread c => Sys2Proof.Machine.execBread c s
  | .bsafe c => Sys2Proof.Machine.execBsafe c s
  | .bstat c => Sys2Proof.Machine.execBstat c s
  | .kvappend c n => Sys2Proof.Machine.execKvappend c n s
  | .kvhand c => Sys2Proof.Machine.execKvhand c s
  | .kvhandGen slot => Sys2Proof.Machine.execKvhandGen slot s
  | .xcpy c n => Sys2Proof.Machine.execXcpy c n s
  | .xred c n => Sys2Proof.Machine.execXred c n s
  | .xgath c n => Sys2Proof.Machine.execXgath c n s
  | .xsig c n => Sys2Proof.Machine.execXsig c n s
  | .bankNop w => Sys2Proof.Machine.execBankNop w s
  | .bankLdr w => Sys2Proof.Machine.execBankLdr w s
  | .bankStr w => Sys2Proof.Machine.execBankStr w s
  | .bankLdi w => Sys2Proof.Machine.execBankLdi w s
  | .bankMov w => Sys2Proof.Machine.execBankMov w s
  | .bankAdd w => Sys2Proof.Machine.execBankAdd w s
  | .bankSub w => Sys2Proof.Machine.execBankSub w s
  | .bankMul w => Sys2Proof.Machine.execBankMul w s
  | .bankMin w => Sys2Proof.Machine.execBankMin w s
  | .bankMax w => Sys2Proof.Machine.execBankMax w s
  | .bankCmp w => Sys2Proof.Machine.execBankCmp w s
  | .bankSel w => Sys2Proof.Machine.execBankSel w s
  | .bankShl w => Sys2Proof.Machine.execBankShl w s
  | .bankShr w => Sys2Proof.Machine.execBankShr w s
  | .bankLogb w => Sys2Proof.Machine.execBankLogb w s
  | .bankQmac w => Sys2Proof.Machine.execBankQmac w s
  | .bankLmac w => Sys2Proof.Machine.execBankLmac w s
  | .bankKclr w => Sys2Proof.Machine.execBankKclr w s
  | .bankKmov w => Sys2Proof.Machine.execBankKmov w s
  | .bankRidge w => Sys2Proof.Machine.execBankRidge w s
  | .ridgeReceive u => Sys2Proof.Machine.execRidgeReceive u s
  | .bankLoop w => Sys2Proof.Machine.execBankLoop w s
  | .bankSafe w => Sys2Proof.Machine.execBankSafe w s
  | .bankExit w => Sys2Proof.Machine.execBankExit w s
  | .unitWordIssue u => Sys2Proof.Machine.execUnitWordIssue u s
  | .rowOpen u => Sys2Proof.Machine.execRowOpen u s
  | .mcsServe ch n => Sys2Proof.Machine.execMcsServe ch n s
  | .bankStop c => Sys2Proof.Machine.execBankStop c s
  | .bankWatchdog c => Sys2Proof.Machine.execBankWatchdog c s
  | .viewRead n => Sys2Proof.Machine.execViewRead n s
  | .dispatch => Sys2Proof.Machine.execDispatch s
  | .agingStep node => Sys2Proof.Machine.execAgingStep node s
  | .preemption c => Sys2Proof.Machine.execPreemption c s
  | .resume c => Sys2Proof.Machine.execResume c s
  | .migrationRelease c => Sys2Proof.Machine.execMigrationRelease c s
  | .siblingRelease grp idx => Sys2Proof.Machine.execSiblingRelease grp idx s
  | .relocChunk => Sys2Proof.Machine.execRelocChunk s
  | .relocEnd => Sys2Proof.Machine.execRelocEnd s
  | .pageFaultLoad n => Sys2Proof.Machine.execPageFaultLoad n s
  | .migrationEpoch => Sys2Proof.Machine.execMigrationEpoch s
  | .migrateCommit page => Sys2Proof.Machine.execMigrateCommit page s
  | .reqs f => Sys2Proof.Machine.execReqs f s
  | .reqx f => Sys2Proof.Machine.execReqx f s
  | .requ f => Sys2Proof.Machine.execRequ f s
  | .reqwt f => Sys2Proof.Machine.execReqwt f s
  | .reqstrong f => Sys2Proof.Machine.execReqstrong f s
  | .wb f => Sys2Proof.Machine.execWb f s
  | .datas f => Sys2Proof.Machine.execDatas f s
  | .datae f => Sys2Proof.Machine.execDatae f s
  | .datam f => Sys2Proof.Machine.execDatam f s
  | .gntu f => Sys2Proof.Machine.execGntu f s
  | .cmpwt f => Sys2Proof.Machine.execCmpwt f s
  | .cmpstrong f => Sys2Proof.Machine.execCmpstrong f s
  | .refuse f => Sys2Proof.Machine.execRefuse f s
  | .refuseRetry n => Sys2Proof.Machine.execRefuseRetry n s
  | .reservationEnd g => Sys2Proof.Machine.execReservationEnd g s
  | .wback f => Sys2Proof.Machine.execWback f s
  | .fwds f => Sys2Proof.Machine.execFwds f s
  | .fwdx f => Sys2Proof.Machine.execFwdx f s
  | .inv f => Sys2Proof.Machine.execInv f s
  | .snprspdata f => Sys2Proof.Machine.execSnprspdata f s
  | .snprsps f => Sys2Proof.Machine.execSnprsps f s
  | .snprspi f => Sys2Proof.Machine.execSnprspi f s
  | .invack f => Sys2Proof.Machine.execInvack f s
  | .akRecallAck c n => Sys2Proof.Machine.execAkRecallAck c n s
  | .hostSnoop h => Sys2Proof.Machine.execHostSnoop h s
  | .memrd h => Sys2Proof.Machine.execMemrd h s
  | .memrddata h => Sys2Proof.Machine.execMemrddata h s
  | .meminv h => Sys2Proof.Machine.execMeminv h s
  | .memwr h => Sys2Proof.Machine.execMemwr h s
  | .birspi h => Sys2Proof.Machine.execBirspi h s
  | .birsps h => Sys2Proof.Machine.execBirsps h s
  | .birspe h => Sys2Proof.Machine.execBirspe h s
  | .biconflict h => Sys2Proof.Machine.execBiconflict h s
  | .linkFlit port raw => Sys2Proof.Machine.execLinkFlit port raw s
  | .bridgeUp peer peerGtc => Sys2Proof.Machine.execBridgeUp peer peerGtc s
  | .wheelResize => Sys2Proof.Machine.execWheelResize s
  | .portDown port => Sys2Proof.Machine.execPortDown port s
  | .tailReread => Sys2Proof.Machine.execTailReread s
  | .hello q => Sys2Proof.Machine.execHello q s
  | .ctxopen q => Sys2Proof.Machine.execCtxopen q s
  | .ctxclose q => Sys2Proof.Machine.execCtxclose q s
  | .tpool q => Sys2Proof.Machine.execTpool q s
  | .migpool q => Sys2Proof.Machine.execMigpool q s
  | .map q => Sys2Proof.Machine.execMap q s
  | .unmap q => Sys2Proof.Machine.execUnmap q s
  | .pin q => Sys2Proof.Machine.execPin q s
  | .unpin q => Sys2Proof.Machine.execUnpin q s
  | .ptread q => Sys2Proof.Machine.execPtread q s
  | .faultabort q => Sys2Proof.Machine.execFaultabort q s
  | .heapcfg q => Sys2Proof.Machine.execHeapcfg q s
  | .heappool q => Sys2Proof.Machine.execHeappool q s
  | .objset q => Sys2Proof.Machine.execObjset q s
  | .reloc q => Sys2Proof.Machine.execReloc q s
  | .share q => Sys2Proof.Machine.execShare q s
  | .slotopen q => Sys2Proof.Machine.execSlotopen q s
  | .slotclose q => Sys2Proof.Machine.execSlotclose q s
  | .grpreg q => Sys2Proof.Machine.execGrpreg q s
  | .grpfree q => Sys2Proof.Machine.execGrpfree q s
  | .ttcfg q => Sys2Proof.Machine.execTtcfg q s
  | .tcreate q => Sys2Proof.Machine.execTcreate q s
  | .tdestroy q => Sys2Proof.Machine.execTdestroy q s
  | .fwstage q => Sys2Proof.Machine.execFwstage q s
  | .fwcommit q => Sys2Proof.Machine.execFwcommit q s
  | .svnlock q => Sys2Proof.Machine.execSvnlock q s
  | .telem q => Sys2Proof.Machine.execTelem q s
  | .thermcfg q => Sys2Proof.Machine.execThermcfg q s
  | .fencepol q => Sys2Proof.Machine.execFencepol q s
  | .readmit q => Sys2Proof.Machine.execReadmit q s
  | .powercfg q => Sys2Proof.Machine.execPowercfg q s
  | .grpread q => Sys2Proof.Machine.execGrpread q s
  | .launch ctx val => Sys2Proof.Machine.execLaunch ctx val s
  | .stgb slice val => Sys2Proof.Machine.execStgb slice val s
  | .bwdog val => Sys2Proof.Machine.execBwdog val s
  | .migcfg val => Sys2Proof.Machine.execMigcfg val s
  | .mmioWrite off val => Sys2Proof.Machine.execMmioWrite off val s
  | .getVersion req => Sys2Proof.Machine.execGetVersion req s
  | .getCapabilities req => Sys2Proof.Machine.execGetCapabilities req s
  | .negotiateAlgorithms req => Sys2Proof.Machine.execNegotiateAlgorithms req s
  | .getDigests req => Sys2Proof.Machine.execGetDigests req s
  | .getCertificate req => Sys2Proof.Machine.execGetCertificate req s
  | .challenge req => Sys2Proof.Machine.execChallenge req s
  | .getMeasurements req => Sys2Proof.Machine.execGetMeasurements req s
  | .resetRelease strap => Sys2Proof.Machine.execResetRelease strap s
  | .startStage chanok0 chanok1 => Sys2Proof.Machine.execStartStage chanok0 chanok1 s
  | .heartbeat c n b => Sys2Proof.Machine.execHeartbeat c n b s
  | .vote voter suspect readmit => Sys2Proof.Machine.execVote voter suspect readmit s
  | .voteLapse => Sys2Proof.Machine.execVoteLapse s
  | .coreFenced c => Sys2Proof.Machine.execCoreFenced c s
  | .fenced n => Sys2Proof.Machine.execFenced n s
  | .selfTestEnd c pass => Sys2Proof.Machine.execSelfTestEnd c pass s
  | .coreReadmitted c => Sys2Proof.Machine.execCoreReadmitted c s
  | .thermalMigrate c hi lo => Sys2Proof.Machine.execThermalMigrate c hi lo s
  | .throttle c hi lo => Sys2Proof.Machine.execThrottle c hi lo s
  | .throttleEnd c hi lo => Sys2Proof.Machine.execThrottleEnd c hi lo s
  | .thermalShutdown c hi lo => Sys2Proof.Machine.execThermalShutdown c hi lo s
  | .powerWindow mw => Sys2Proof.Machine.execPowerWindow mw s
  | .scrub word r => Sys2Proof.Machine.execScrub word r s
  | .tamperTrip t => Sys2Proof.Machine.execTamperTrip t s
  | .readingBelowMig c hi lo => Sys2Proof.Machine.execReadingBelowMig c hi lo s
  | .cxlCacheCompletion h => Sys2Proof.Machine.execCxlCacheCompletion h s
  | .portUp port => Sys2Proof.Machine.execPortUp port s

end Sys2Proof.Machine
end

