-- ==== Sys2Proof/Machine/Mover.lean ====
section
/-! DEFINITION. Which step comes next (log 2): the steps the device takes by itself, when each is worth taking,
and the order the model tries them in; and where a placed instruction stands (log 3). -/

namespace Sys2Proof.Machine

open Sys2Proof

/-! The steps the device takes by itself. Messages, commands' arrival, sensors and faults of the hardware come in the
schedule. -/

/-- One step, named with its core, entry or unit. -/
inductive Event where
  | tick
  | issue (c : CoreId)
  | deferredTrap (c : CoreId)
  | landing (c : CoreId)
  | perform (c : CoreId) (i : Nat) (copy : Bool)
  | send (c : CoreId) (i : Nat)
  | stamp (c : CoreId) (i : Nat)
  | fence (c : CoreId)
  | scSlot (c : CoreId)
  | wake (c : CoreId)
  | feTimeout (c : CoreId)
  | tokenEnd (c : CoreId) (e : Eng)
  | tokenLate (c : CoreId) (e : Eng)
  | start (c : CoreId) (e : Eng)
  | complete (c : CoreId) (e : Eng)
  /-- Steps of the operation at the head of an engine. -/
  | work (c : CoreId) (e : Eng)
  | replay (c : CoreId)
  | preempt (c : CoreId)
  | expire (c : CoreId) (i : Nat)
  | serve (i : Nat)
  | feEnd (i : Nat)
  | viewRead (i : Nat)
  | fencedEnd (i : Nat)
  | faultEnd (i : Nat)
  | leaseClear (g : Nat)
  | recallAck (c : CoreId) (i : Nat)
  | mcs (ch : BitVec 7) (i : Nat)
  | drain (c : CoreId)
  | bexecEnd (c : CoreId)
  | bankStop (c : CoreId)
  | watchdog (c : CoreId)
  | rowOpen (u : UnitId)
  | ridge (u : UnitId)
  | word (u : UnitId)
  | kvGen (slot : BitVec 10)
  | arrayGrant (cl : BitVec 4)
  | arrayEnd (cl : BitVec 4)
  | dispatch
  | resume (c : CoreId)
  | aging (n : BitVec 12)
  | release (c : CoreId)
  | sibling (g : BitVec 6) (i : BitVec 4)
  | command (opc : Nat) (q : Cmd)
  | launch (ctx : BitVec 4) (v : Word)
  | tail
  | linkHeld (i : Nat)
  | hostHeld (i : Nat)
  | refusedAgain (i : Nat)
  | resvEnd (g : Nat)
  | wheel
  | relocChunk
  | relocEnd
  | epoch
  | commitMove (page : Nat)
  | coreFenced (c : CoreId)
  | lapse
  | readmitted (c : CoreId)
  deriving DecidableEq, Repr

/-- Run a queued command by its operation code. -/
def runCommand (opc : Nat) (q : Cmd) (s : State) : Out :=
  match opc with
  | 0x00 => execHello q s
  | 0x01 => execCtxopen q s
  | 0x02 => execCtxclose q s
  | 0x03 => execFwstage q s
  | 0x04 => execFwcommit q s
  | 0x05 => execSvnlock q s
  | 0x06 => execTelem q s
  | 0x07 => execThermcfg q s
  | 0x08 => execTpool q s
  | 0x09 => execMigpool q s
  | 0x0A => execFencepol q s
  | 0x0B => execReadmit q s
  | 0x0C => execPowercfg q s
  | 0x10 => execMap q s
  | 0x11 => execUnmap q s
  | 0x12 => execPin q s
  | 0x13 => execUnpin q s
  | 0x14 => execPtread q s
  | 0x15 => execFaultabort q s
  | 0x20 => execHeapcfg q s
  | 0x21 => execHeappool q s
  | 0x22 => execObjset q s
  | 0x23 => execReloc q s
  | 0x24 => execShare q s
  | 0x28 => execSlotopen q s
  | 0x29 => execSlotclose q s
  | 0x2C => execGrpreg q s
  | 0x2D => execGrpfree q s
  | 0x2E => execGrpread q s
  | 0x30 => execTtcfg q s
  | 0x31 => execTcreate q s
  | 0x32 => execTdestroy q s
  | _ => .next s

/-- Steps of an operation by its engine and kind. -/
def runWork (c : CoreId) (e : Eng) (s : State) : Out :=
  match (s.core c).headOp e with
  | none => .next s
  | some o =>
    match e, o.kind with
    | .m, 1 => execMmac c 2 s
    | .m, 2 => execMzero c 2 s
    | .m, 3 => execMkat c 2 s
    | .m, 4 => execMhash c 2 s
    | .c, k =>
      if o.chain.isSome then execDesc c 2 s
      else (match k with
        | 1 => execCpy c 2 s
        | 2 => execCpynd c 2 s
        | 3 => execGather c 2 s
        | 4 => execScatter c 2 s
        | 5 => execFill c 2 s
        | 6 => execRelayout c 2 s
        | 7 => execMcast c 2 s
        | 8 => execPhfetch c 2 s
        | 9 => execStage c 2 s
        | _ => execDesc c 2 s)
    | .g, 1 => execBload c s
    | .g, 2 => execBact c s
    | .g, 3 => execBexec c s
    | .g, 4 => execBread c s
    | .g, 5 => execBsafe c s
    | .g, 6 => execBstat c s
    | .g, 7 => execKvappend c 2 s
    | .g, 8 => execKvhand c s
    | .x, 1 => execXcpy c 2 s
    | .x, 2 => execXred c 2 s
    | .x, 3 => execXgath c 2 s
    | .x, 4 => execXsig c 2 s
    | _, _ => .next s

/-- What a step does: the meaning of its row of the opcode table, a queued command's, or another try at a message that
waits. -/
def runEvent (e : Event) (s : State) : Out :=
  match e with
  | .tick => execTick s
  | .issue c => execIssue c s
  | .deferredTrap c => execDeferredTrap c s
  | .landing c => execLanding c 0 s
  | .perform c i copy => execPerformALoad c i copy s
  | .send c i => execSendAStore c i s
  | .stamp c i => execReturnAStamp c i s
  | .fence c => execRetireAFence c s
  | .scSlot c => execScSlot c s
  | .wake c => execSleeptWake c s
  | .feTimeout c => execFeTimeout c s
  | .tokenEnd c e => execTokenWaitEnd c e s
  | .tokenLate c e => execTokenTimeout c e s
  | .start c e => execEngineOperationStart c e s
  | .complete c e => execEngineOperationComplete c e s
  | .work c e => runWork c e s
  | .replay c => execSideLogReplay c s
  | .preempt c => execPreemption c s
  | .expire c i => execExpireALease c i s
  | .serve i => execServeAtAHome i s
  | .feEnd i => execFeWaitEnd i s
  | .viewRead i => execViewRead i s
  | .fencedEnd i => execFenced i s
  | .faultEnd i => execPageFaultLoad i s
  | .leaseClear g => execLeaseTableClear g s
  | .recallAck c i => execAkRecallAck c i s
  | .mcs ch i => execMcsServe ch i s
  | .drain c => execWriteThroughDrain c s
  | .bexecEnd c => execBexecComplete c s
  | .bankStop c => execBankStop c s
  | .watchdog c => execBankWatchdog c s
  | .rowOpen u => execRowOpen u s
  | .ridge u => execRidgeReceive u s
  | .word u => execUnitWordIssue u s
  | .kvGen n => execKvhandGen n s
  | .arrayGrant cl => execMatrixLeaseGrant cl s
  | .arrayEnd cl => execMatrixLeaseExpiry cl s
  | .dispatch => execDispatch s
  | .resume c => execResume c s
  | .aging n => execAgingStep n s
  | .release c => execMigrationRelease c s
  | .sibling g i => execSiblingRelease g i s
  | .command opc q => runCommand opc q s
  | .launch c v => execLaunch c v s
  | .tail => execTailReread s
  | .linkHeld i => .next (s.linkTry i)
  | .hostHeld i => .next (s.hostTry i)
  | .refusedAgain i => execRefuseRetry i s
  | .resvEnd g => execReservationEnd g s
  | .wheel => execWheelResize s
  | .relocChunk => execRelocChunk s
  | .relocEnd => execRelocEnd s
  | .epoch => execMigrationEpoch s
  | .commitMove page => execMigrateCommit page s
  | .coreFenced c => execCoreFenced c s
  | .lapse => execVoteLapse s
  | .readmitted c => execCoreReadmitted c s

/-- Run the instruction an event fetched. -/
def runFetched (s : State) : Out :=
  match s.fetched with
  | some i => exec i { s with fetched := none }
  | none => .next s

/-- A step with the instruction it fetched. -/
def runWhole (e : Event) (s : State) : Out :=
  match runEvent e s with
  | .next s => runFetched s
  | r => r

/-! Whether a step is worth taking. -/

/-- Something a step works on has changed; c is the core it concerns. -/
def moved (c : CoreId) (s t : State) : Bool :=
  let b (s : State) : Bridge := { s.bridge with
    hostWait := s.bridge.hostWait.take 0, linkHeld := s.bridge.linkHeld.take 0, rdcNo := 0 }
  s.core c != t.core c || s.homeQ != t.homeQ
    || s.bridge.linkHeld.length != t.bridge.linkHeld.length || s.bridge.hostWait.length != t.bridge.hostWait.length
    || b s != b t || s.banks.jobs != t.banks.jobs || s.banks.enrolled != t.banks.enrolled || s.wtq.length != t.wtq.length
    || s.base.cmds.length != t.base.cmds.length || s.base.launches.length != t.base.launches.length
    || s.base.reloc != t.base.reloc || s.base.cr != t.base.cr || s.base.hostOut.length != t.base.hostOut.length
    || s.xlat.leaving != t.xlat.leaving || s.xlat.migs != t.xlat.migs || s.xlat.nextEpoch != t.xlat.nextEpoch
    || s.xlat.migFree != t.xlat.migFree || s.sched != t.sched || s.clusters != t.clusters || s.heap != t.heap || s.leases != t.leases
    || s.fleet.votes != t.fleet.votes || s.fleet.ordered != t.fleet.ordered || s.fleet.cores != t.fleet.cores
    || s.cores.toList.map (·.preReq) != t.cores.toList.map (·.preReq)

/-- The core a step concerns. -/
def Event.core : Event → CoreId
  | .issue c | .deferredTrap c | .landing c | .perform c _ _ | .send c _ | .stamp c _ | .fence c | .scSlot c | .wake c
  | .feTimeout c | .tokenEnd c _ | .tokenLate c _ | .start c _ | .complete c _ | .work c _ | .replay c | .preempt c
  | .expire c _ | .recallAck c _ | .drain c | .bexecEnd c | .bankStop c | .watchdog c | .resume c | .release c
  | .coreFenced c | .readmitted c => c
  | _ => 0

/-- A step does something now. The units' steps always do when they are listed. DESIGN CHOICE (log 2). -/
def worthIt (s : State) (e : Event) : Bool :=
  match e with
  | .rowOpen _ | .ridge _ | .word _ => true
  | e => match runWhole e s with
    | .next t => moved e.core s t
    | _ => true

/-! The order. -/

def orderOf (l : List α) (f : Nat → α → List Event) : List Event := ((List.range l.length).zip l).flatMap (fun x => f x.1 x.2)

/-- The steps of S and of its accesses. -/
def coreSteps (k : Core) (c : CoreId) : List Event :=
  (if k.deferred.isEmpty then [] else [.deferredTrap c])
    ++ (if k.landing.isEmpty then [] else [.landing c])
    ++ orderOf k.pend (fun i a => match a.op with
        | .load | .wload .. => [.perform c i true, .perform c i false]
        | _ => [.send c i])
    ++ orderOf k.stamps (fun i e => if e.stamps.isSome then [.stamp c i] else [])
    ++ (match k.wait with
        | some (.scDone ..) | some (.fence ..) => [.fence c]
        | some (.slot ..) => [.scSlot c]
        | some (.sleep ..) => [.wake c]
        | some (.token ..) => [.tokenEnd c .s, .tokenLate c .s]
        | some (.home ..) => [.feTimeout c]
        | _ => [])

/-- The steps of the engines. -/
def engineSteps (k : Core) (c : CoreId) : List Event :=
  (if k.vq.isEmpty then [] else [.start c .v, .feTimeout c, .tokenEnd c .v, .tokenLate c .v])
    ++ ([Eng.m, .c, .g, .x].flatMap (fun e =>
        match k.headOp e with
        | none => []
        | some o => (if o.started then [.complete c e] else [.start c e])
            ++ (if opWaits o then [.tokenEnd c e, .tokenLate c e] else [])))
    ++ (if k.sidelog.isEmpty then [] else [.replay c])
    ++ (if k.preReq.isSome then [.preempt c] else [])

/-- The lines of the homes, held accesses among them. -/
def homeSteps (s : State) : List Event :=
  orderOf s.homeQ (fun i a => (if isViewLoad s a then [.viewRead i] else [.serve i])
      ++ (if a.waiting.isSome then [.feEnd i, .faultEnd i] else [])
      ++ (match a.loc with | .spad l _ => if (s.core (s.byLid l)).fenced then [.fencedEnd i] else [] | _ => []))
    ++ orderOf s.bridge.hostWait (fun i _ => [.hostHeld i, .faultEnd (s.homeQ.length + i)])
    ++ orderOf s.bridge.linkHeld (fun i _ => [.linkHeld i])
    ++ coreIds.flatMap (fun c => (List.range 4).filterMap (fun j =>
        if (heldOp s c (engOf j)).isSome then
          some (.faultEnd (s.homeQ.length + s.bridge.hostWait.length + 4 * c.toNat + j)) else none))
    ++ orderOf s.bridge.swaits (fun i x => x.left.map (fun cl => .recallAck (coreAt cl 0) i))
    ++ s.bridge.reqs.filterMap (fun e => if e.2.retry.isSome then some (.refusedAgain e.1) else none)
    ++ s.bridge.resv.map (fun e => .resvEnd e.1)
    ++ (if s.bridge.wheelNext.isSome then [.wheel] else [])

/-- The banks, the slots and the arrays. -/
def bankSteps (s : State) : List Event :=
  s.banks.jobs.flatMap (fun j => [.drain j.core, .bexecEnd j.core, .bankStop j.core, .watchdog j.core])
    ++ s.banks.units.flatMap (fun e =>
        let u := BitVec.ofNat _ e.1
        match e.2.run with
        | some r =>
          if r.rowWait.isSome then [.rowOpen u]
          else if r.ridge.isSome && !r.incoming.isEmpty then [.ridge u] else []
        | none => [])
    ++ orderOf s.wtq (fun i x => [.mcs (BitVec.ofNat 7 (chanOf x.1)) i])
    ++ s.heap.slots.filterMap (fun e => if e.2.st == .handing then some (.kvGen (BitVec.ofNat 10 e.1)) else none)
    ++ (List.range 16).flatMap (fun cl =>
        if (s.cluster cl).holder.isSome then [.arrayEnd (BitVec.ofNat 4 cl)]
        else if (nextHolder s cl none).isSome then [.arrayGrant (BitVec.ofNat 4 cl)] else [])

/-- The releases that follow retirements: of moves and of siblings' slots. -/
def releaseSteps (s : State) : List Event :=
  s.sched.moves.map (fun m => .release m.src)
    ++ s.sched.owed.map (fun o => .sibling (BitVec.ofNat 6 o.grp) (BitVec.ofNat 4 o.idx))
    ++ s.sched.ballots.flatMap (fun e => (List.range 16).filterMap (fun i =>
        if e.2.cancelled.testBit i && !e.2.released.testBit i then
          some (.sibling (BitVec.ofNat 6 e.1) (BitVec.ofNat 4 i)) else none))
/-- Launches, commands, aging steps and dispatch, in the order of R285. -/
def schedSteps (s : State) : List Event :=
  s.base.launches.map (fun x => .launch x.1 x.2)
    ++ (if s.base.stg < 3 then [] else [.tail]) ++ s.base.cmds.map (fun x => .command x.1 x.2)
    ++ s.sched.nodes.map (fun e => .aging (BitVec.ofNat 12 e.1))
    ++ (match nextPick s with | some (.saved _ c) => [.resume c] | _ => [])
    ++ (if s.sched.nodes.isEmpty && s.sched.saved.isEmpty then [] else [.dispatch])

/-- Basecamp, translation and the fleet. -/
def baseSteps (s : State) : List Event :=
  (if s.base.reloc.isSome then [.relocEnd, .relocChunk] else [])
    ++ (if s.xlat.nextEpoch.toNat ≤ s.gtc.toNat then [.epoch] else [])
    ++ s.xlat.migs.map (fun m => .commitMove m.page)
    ++ s.fleet.ordered.map (fun c => .coreFenced c)
    ++ (if s.fleet.votes.isEmpty && s.fleet.cores.toList.all (fun x => match x.test with | .appealing _ => false | _ => true)
        then [] else [.lapse])
    ++ coreIds.filterMap (fun c => match (s.fleetCore c).test with
        | .concurred | .passed => some (.readmitted c)
        | _ => none)

/-- Leases that are over. -/
def expirySteps (s : State) : List Event :=
  coreIds.flatMap (fun c => orderOf (s.core c).copies (fun i e =>
      if e.2.expiry.toNat ≤ s.gtc.toNat then [.expire c i] else []))
    ++ s.leases.filterMap (fun e => if e.2.m != 0 && e.2.e.toNat ≤ s.gtc.toNat then some (.leaseClear e.1) else none)

/-- A core with nothing to do. -/
def idleCore (k : Core) : Bool :=
  k.iter.isNone && k.pend.isEmpty && k.landing.isEmpty && k.stamps.isEmpty && k.deferred.isEmpty
    && k.sidelog.isEmpty && k.preReq.isNone && drained k

/-- The kind of a core's next instruction among those of one tick (R285): END, then SPAWN, KILL and BALLOT, then any other. -/
def issueKind (s : State) (c : CoreId) : Nat :=
  match execIssue c s with
  | .next t =>
    (match t.fetched with
     | some (.endIter _) => 0
     | some (.spawn _) | some (.kill _) | some (.ballot _) => 1
     | _ => 2)
  | _ => 2

/-- The steps that a core, an engine or a unit takes once a TICK, each at its place in a turn: instructions by kind and
logical id. -/
def Event.place (s : State) : Event → Option Nat
  | .issue c => some (64 * issueKind s c + (s.core c).lid.toNat)
  | .work c e => some (192 + 5 * c.toNat + engCode e)
  | .word u => some (512 + u.toNat)
  | _ => none

/-- The cores' next instructions with their places, in order. -/
def issueSteps (s : State) : List (Nat × Event) :=
  (coreIds.filter (fun c => canIssue (s.core c))).foldl (fun l c =>
    let p := ((Event.issue c).place s).getD 0
    l.filter (fun x => x.1 < p) ++ [(p, .issue c)] ++ l.filter (fun x => p ≤ x.1)) []

def workSteps (s : State) (live : List CoreId) : List Event :=
  live.flatMap (fun c => [Eng.m, .c, .g, .x].filterMap (fun e =>
    match (s.core c).headOp e with
    | some o => if o.started then some (.work c e) else none
    | none => none))

def wordSteps (s : State) : List Event :=
  s.banks.units.filterMap (fun e =>
    match e.2.run with
    | some r => if r.rowWait.isNone && !(r.ridge.isSome && !r.incoming.isEmpty) && e.2.ready.isSome then some (.word (BitVec.ofNat _ e.1)) else none
    | none => none)

/-- The instructions up to a place whose place in this turn has not passed. -/
def issuesTo (s : State) (n : Nat) : List Event :=
  (issueSteps s).filterMap (fun x => if s.turn ≤ x.1 && x.1 < n then some x.2 else none)
/-- The steps whose place in this turn has not passed. -/
def pacedSteps (s : State) (live : List CoreId) : List Event :=
  issuesTo s 192 ++ (workSteps s live ++ wordSteps s).filter (fun e => s.turn ≤ (e.place s).getD 0)

/-- The first step worth taking: the cores' own, the homes', the banks', the scheduler's in the order of R285, Basecamp's,
then one step of each core's S, of each engine and of each unit in turn; when there is none the clock advances. DESIGN
CHOICE (log 2). -/
def defaultEvent (s : State) : Event :=
  let live := coreIds.filter (fun c => !idleCore (s.core c))
  let first (l : List Event) : Option Event := l.find? (worthIt s)
  ((live.findSome? (fun c => first (coreSteps (s.core c) c ++ engineSteps (s.core c) c)))
    <|> first (homeSteps s) <|> first (bankSteps s) <|> first (releaseSteps s) <|> first (issuesTo s 128)
    <|> first (schedSteps s) <|> first (baseSteps s)
    <|> first (expirySteps s) <|> first (pacedSteps s live)).getD .tick

/-- The place after the step; a TICK begins the next turn. -/
def nextTurn (s : State) (e : Event) : Nat :=
  if e = .tick then 0 else match e.place s with | some n => n + 1 | none => s.turn

/-- The head of the schedule; an entry that is no step of the device moves only the clock. DESIGN CHOICE (log 2). -/
def runEntry (i : Instr) (s : State) : Out :=
  match (if hasEncoding i then execTick s else exec i s) with
  | .next s => runFetched s
  | r => r

/-- One step: the schedule's, or the device's own choice. DESIGN CHOICE (log 2). -/
def oneStep (s : State) : Out :=
  match s.agenda with
  | i :: t => runEntry i { s with agenda := t }
  | [] => runWhole (defaultEvent s) { s with turn := nextTurn s (defaultEvent s) }

/-! Placing an instruction. -/

/-- Core 0 runs at pc 0 in an executable range over a page of device memory, and the next event is its ISSUE. DESIGN CHOICE (log 3). -/
def State.placeCode (s : State) (bytes : List Byte) : State :=
  let c : CoreId := 0
  let k := s.core c
  let r : Range := { w0 := 0, w1 := w64 (2 ^ 16), w2 := 0, w3 := w64 (2 ^ 7 + 15) }
  let it : Iter := { ctx := 0, node := 0, ord := 0, idx := [], cancelled := false, phase := false, persist := false,
                     preemptible := false, sib := none, since := s.gtc, disp := 0, begun := false }
  let s := s.setCore c { k with pc := 0, iter := some (k.iter.getD it), range := k.range.set 0 r, wait := none,
                                deferred := [], icache := [], fenced := false }
  let leaf : Leaf := { w0 := w64 (2 ^ 63), w1 := 0 }
  let s := { s with
    xlat := { s.xlat with pages := tabSet s.xlat.pages 0 leaf }, agenda := [.issue c], fetched := none, devnum := false }
  { s with mem := ((List.range 8).zip bytes).foldl (fun m x => memSet m (frameKey 0 x.1 none) x.2) s.mem }

/-- Unit 0 stands at a word of its program, in a BEXEC of core 0, and the next event is its UNIT_WORD_ISSUE. DESIGN CHOICE (log 3). -/
def State.placeBank (s : State) (w : BitVec 32) : State :=
  let r : BRun := { job := 0, ia := 0, frame := 0, desc := 0, group := 0, start := List.replicate 4 0,
                    reach := List.replicate 4 none, ae := 0, isHead := true, next := none, safes := 0, exited := false,
                    stopped := false, rowWait := none, ridge := none, incoming := [], scaleSeen := false, bytes := 0 }
  let j : BJob := { job := 0, core := 0, op := 0, units := [0], started := true, first := s.gtc, dels := [],
                    stop := none, keep := false, cycles := 0, bytes := 0, sib := none }
  let s := s.setUnit 0 { BUnit.reset with prog := [w], run := some r }
  { s with banks := { s.banks with jobs := [j] }, agenda := [.unitWordIssue 0], fetched := none }

/-- Place an instruction by its bits: a Lanem-B word stands in a unit, any other instruction in the code of core 0. DESIGN CHOICE (log 3). DESIGN CHOICE (log 7). -/
def State.placeWord (s : State) (nbits w : Nat) : State :=
  if nbits == 32 && (decodeBank (BitVec.ofNat 32 w)).isSome then s.placeBank (BitVec.ofNat 32 w)
  else s.placeCode (leBytes (nbits / 8) w)

end Sys2Proof.Machine
end

