-- ==== Sys2Proof/Machine/Step.lean ====
section
/-! DEFINITION. One step of the device. -/

namespace Sys2Proof.Machine

open Sys2Proof

/-- One step: the next event happens, and an instruction it fetched runs with it. DESIGN CHOICE (log 8). -/
def step (s : State) : Host.Outcome State Fault Refusal := oneStep s

/-- The state with an instruction's bits placed where the next step fetches them. DESIGN CHOICE (log 3). -/
def State.withFetchWord (s : State) (nbits w : Nat) : State := s.placeWord nbits w

end Sys2Proof.Machine
end

