-- ==== Sys2Proof/Certificates/Slice0/Obligations.lean ====
section
/-! DEFINITION. The statements about the machine that are to be proved, one definition each, from the numbered rules of
the spec. -/

namespace Sys2Proof.Machine

open Sys2Proof

/-- S executes the instruction with fields w now, which reads or writes the scalar registers of a list: S waits for
nothing and no vector instruction stands before it that has not started (R155), its queues are its own (R17), its pop
finds a token and its push room (R15), its guard passes (R98), and no register of the list has a result on the way
(R112). -/
abbrev Executes (s : State) (w : Fields) (regs : List (BitVec 6) := [w.d, w.a, w.b]) : Prop :=
  let k := s.core s.cur
  k.wait = none ∧ k.vq = [] ∧ k.queuesOk .s w.pop w.push = true ∧ k.popReady w.pop = true
    ∧ k.pushReady w.push = true ∧ guardOk k w = true ∧ isBusy k regs = false

/-- S completes the instruction with an effect f on its core: its tokens move, its wait ends, and npc comes next. -/
def State.doneTo (s : State) (w : Fields) (npc : Word) (f : Core → Core) : State :=
  s.modCore s.cur (fun k => (f k).finish w npc true)

/-- S completes the instruction, and the next one follows. -/
def State.doneWith (s : State) (w : Fields) (f : Core → Core) : State := s.doneTo w ((s.core s.cur).pc + 8) f

/-- S completes the instruction in a state t that its effect has reached, with one more change f of its core. -/
def State.after (s : State) (w : Fields) (t : State) (f : Core → Core) : State :=
  t.modCore s.cur (fun k => (f k).finish w ((s.core s.cur).pc + 8) true)

/-- S sends the accesses of an instruction, its pop made and its push reserved, and the next instruction follows. -/
def State.sentWith (s : State) (w : Fields) (at_ : Attr) (dest : Dest) (buf : List Byte) (parts : List (Part × AccOp)) :
    State :=
  (s.issueAccess s.cur at_ (s.core s.cur).pc dest w.push buf parts).modCore s.cur
    (fun k => k.finish w ((s.core s.cur).pc + 8) false)

/-- S sends the accesses of an instruction and stays at it until they are performed: its pop is taken. -/
def State.sentAndHeld (s : State) (w : Fields) (at_ : Attr) (dest : Dest) (buf : List Byte) (parts : List (Part × AccOp)) :
    State :=
  (s.issueAccess s.cur at_ (s.core s.cur).pc dest w.push buf parts).modCore s.cur
    (fun k => { (k.pop w.pop) with wait := some (.home (s.core s.cur).seq w), took := w.pop })

/-- S stays at an instruction that it has started, in a state t: its pop is taken, a place for its push is reserved, and it
waits for x. -/
def State.staysAt (s t : State) (w : Fields) (x : Wait) : State :=
  t.modCore s.cur (fun k => { ((k.pop w.pop).reserve w.push) with wait := some x, took := w.pop, held := w.push })

/-- The n bytes from ea in a space of R32 are the n bytes from one place, all of one class and grain, and the access has
the permission it needs. -/
abbrev Reaches (s : State) (space : Nat) (ea : Word) (n : Nat) (pm : Perm) (l : Loc) (cls gr : Nat) : Prop :=
  ∀ i < n, byteAt s (s.core s.cur) space ea i pm false = .ok (l.plus i) cls gr

/-- No byte of them is sealed (R131). -/
abbrev Unsealed (s : State) (l : Loc) (n : Nat) : Prop := ∀ i < n, sealedByte s (l.plus i) = false

/-- V starts the vector instruction i with fields w as soon as S sends it (R14, R155): S waits for nothing, V's queue is empty, no scalar
register the instruction reads or writes has a result on the way, the queues are V's own, its pop finds a token and its push
room, and no granule it names waits for a load (R25). -/
abbrev VStarts (s : State) (i : Instr) (w : Fields) : Prop :=
  let k := s.core s.cur
  k.wait = none ∧ k.vq = [] ∧ isBusy k (vScalars i w ++ (vDst i w).toList) = false ∧ k.queuesOk .v w.pop w.push = true
    ∧ k.popReady w.pop = true ∧ k.pushReady w.push = true ∧ granuleBusy k i w = false

/-- V completes the instruction in a state t that its effect has reached: its pop is taken, its push is made when now is
set, the non-blocking form writes its predicate, and the next instruction follows. -/
def State.vEnds (s : State) (w : Fields) (now : Bool) (t : State) : State :=
  t.modCore s.cur (fun k =>
    let k := k.pop w.pop
    let k := if now then k.push w.push else k
    { (if isNb w then k.wp w.gp (BitVec.allOnes 256) else k) with pc := (s.core s.cur).pc + 8, vq := [] })

/-- Lane j of a vector register, for lanes of an element type. -/
def laneAt (s : State) (r : BitVec 6) (et j : Nat) : Nat := (vLanes s s.cur r (etWidth et)).getD j 0

/-- V writes lane j of vD with f j where the guard admits it. -/
def State.lanesTo (s : State) (w : Fields) (et : Nat) (f : Nat → Nat) : State :=
  s.putLanes s.cur w.d (etWidth et) (laneOn (s.core s.cur) w (etWidth et)) ((List.range (lanes et)).map f)

/-- Engine e of a core runs the operation o: it heads the queue, it has started, its work is not over, it is of kind q, and
it is no entry of a descriptor chain. -/
abbrev Running (s : State) (c : CoreId) (e : Eng) (q : Nat) (o : EOp) : Prop :=
  (s.core c).headOp e = some o ∧ o.started = true ∧ o.fin = false ∧ o.kind = q ∧ o.chain = none

/-- The work of the operation numbered id is over. -/
def State.workOver (s : State) (c : CoreId) (e : Eng) (id : Nat) : State :=
  s.modCore c (fun k => k.modOp e id (fun o => { o with fin := true }))

/-- Nothing waits at the homes of this device, no line is reserved, and nothing has arrived in this tick: what arrives now
is taken at once. -/
abbrev Quiet (s : State) : Prop :=
  s.homeQ = [] ∧ s.bridge.linkHeld = [] ∧ s.bridge.hostWait = [] ∧ s.bridge.swaits = [] ∧ s.bridge.resv = []
    ∧ s.bridge.waiters = [] ∧ s.cyc < 2 * s.gtc.toNat

/-- An exact result clamped to the signed or the unsigned 64-bit numbers. -/
def clampS (x : Int) : Int := max (-(2 ^ 63)) (min (2 ^ 63 - 1) x)
def clampU (x : Int) : Int := max 0 (min (2 ^ 64 - 1) x)

/-- A queued command is the first of its unit, its FENCE is satisfied, and the completion ring has room (R359, R360). -/
abbrev Queued (s : State) (opc : Nat) (q : Cmd) : Prop := cmdTurn s (opc, q) = true ∧ ringFull s.base.cq = false

/-- The command is accepted: READY, no reserved bit, and an open context where it needs one (R360, R369). -/
abbrev Accepted (s : State) (opc : Nat) (q : Cmd) : Prop :=
  Queued s opc q ∧ s.base.ready = true ∧ q.reserved = false ∧ (needsCtx opc = true → (s.ctx (cxOf q)).isOpen = true)

/-- The command leaves its queue with a completion (R359); none is a VALUE the spec does not give. -/
def State.answered (t : State) (opc : Nat) (q : Cmd) (r : Nat) (v : Option Word) : State :=
  ({ t with base := { t.base with cmds := dropCmd (opc, q) t.base.cmds } }).completion q.tag r v

/-- Every command with its operation code (R361, R390). -/
abbrev CommandOf (q : Cmd) (opc : Nat) (i : Instr) : Prop :=
  (opc, i) ∈ [(0x00, Instr.hello q), (0x01, .ctxopen q), (0x02, .ctxclose q), (0x03, .fwstage q), (0x04, .fwcommit q), (0x05, .svnlock q),
    (0x06, .telem q), (0x07, .thermcfg q), (0x08, .tpool q), (0x09, .migpool q), (0x0A, .fencepol q), (0x0B, .readmit q), (0x0C, .powercfg q),
    (0x10, .map q), (0x11, .unmap q), (0x12, .pin q), (0x13, .unpin q), (0x14, .ptread q), (0x15, .faultabort q), (0x20, .heapcfg q),
    (0x21, .heappool q), (0x22, .objset q), (0x23, .reloc q), (0x24, .share q), (0x28, .slotopen q), (0x29, .slotclose q), (0x2C, .grpreg q),
    (0x2D, .grpfree q), (0x2E, .grpread q), (0x30, .ttcfg q), (0x31, .tcreate q), (0x32, .tdestroy q)]

end Sys2Proof.Machine

open Sys2Proof Sys2Proof.Machine

/-- R113: each integer instruction that executes writes its one result to sD, moves its tokens, and goes on to the next
instruction; nothing else changes. The F values the table does not list are no well-formed instructions. -/
def Obligations.IntegerResults : Prop :=
  ∀ (s : State) (w : Fields), Executes s w →
    let a := (s.core s.cur).rs w.a
    let b := (s.core s.cur).rs w.b
    let d := (s.core s.cur).rs w.d
    let n := b.toNat % 64
    let len := b.toNat / 256 % 64 + 1
    let gives (v : Word) : Out := .next (s.doneWith w (·.ws w.d v))
    exec (.add w) s = gives (if w.f = 0 then a + b
      else if w.f = 1 then BitVec.ofInt 64 (clampS (a.toInt + b.toInt)) else BitVec.ofInt 64 (clampU ((a.toNat : Int) + b.toNat)))
    ∧ exec (.sub w) s = gives (if w.f = 0 then a - b
      else if w.f = 1 then BitVec.ofInt 64 (clampS (a.toInt - b.toInt)) else BitVec.ofInt 64 (clampU ((a.toNat : Int) - b.toNat)))
    ∧ exec (.mul w) s = gives (a * b)
    ∧ exec (.mulh w) s = gives (BitVec.ofInt 64
        ((if w.f = 1 then (a.toNat : Int) else a.toInt) * (if w.f = 0 then b.toInt else (b.toNat : Int)) / 2 ^ 64))
    ∧ exec (.div w) s = gives (if b = 0 then BitVec.allOnes 64
        else if w.f = 0 then BitVec.ofInt 64 (a.toInt.tdiv b.toInt) else BitVec.ofNat 64 (a.toNat / b.toNat))
    ∧ exec (.rem w) s = gives (if b = 0 then a
        else if w.f = 0 then BitVec.ofInt 64 (a.toInt.tmod b.toInt) else BitVec.ofNat 64 (a.toNat % b.toNat))
    ∧ exec (.and w) s = gives (a &&& b) ∧ exec (.or w) s = gives (a ||| b) ∧ exec (.xor w) s = gives (a ^^^ b)
    ∧ exec (.andn w) s = gives (a &&& ~~~b)
    ∧ exec (.shl w) s = gives (a <<< n) ∧ exec (.shr w) s = gives (a >>> n) ∧ exec (.sra w) s = gives (a.sshiftRight n)
    ∧ exec (.min w) s = gives (if (if w.f = 0 then a.toInt < b.toInt else a.toNat < b.toNat) then a else b)
    ∧ exec (.max w) s = gives (if (if w.f = 0 then a.toInt < b.toInt else a.toNat < b.toNat) then b else a)
    ∧ exec (.clz w) s = gives (if a = 0 then 64 else BitVec.ofNat 64 (63 - a.toNat.log2))
    ∧ exec (.popc w) s = gives (BitVec.ofNat 64 ((List.range 64).countP (fun i => a.getLsbD i)))
    ∧ exec (.bfx w) s = gives (if w.f = 1 then BitVec.ofInt 64 (toS len (a.toNat / 2 ^ n)) else BitVec.ofNat 64 (a.toNat / 2 ^ n % 2 ^ len))
    ∧ exec (.bfi w) s = gives (let m := BitVec.ofNat 64 ((2 ^ len - 1) * 2 ^ n); (d &&& ~~~m) ||| (a <<< n &&& m))
    ∧ exec (.sel w) s = gives (if ((s.core s.cur).rp (w.f.truncate 4)).getLsbD 0 then a else b)
    ∧ (∀ x ∈ [(Instr.add w, 2), (.sub w, 2), (.mul w, 0), (.mulh w, 2), (.div w, 1), (.rem w, 1), (.and w, 0), (.or w, 0), (.xor w, 0),
        (.andn w, 0), (.shl w, 0), (.shr w, 0), (.sra w, 0), (.min w, 1), (.max w, 1), (.clz w, 0), (.popc w, 0), (.bfx w, 1), (.bfi w, 0),
        (.sel w, 15)], x.1.wellFormed = true → w.f.toNat ≤ x.2)
    ∧ ((Instr.clz w).wellFormed = true ∨ (Instr.popc w).wellFormed = true → w.b = 0)

/-- R114: each immediate instruction that executes writes its one result to sD. The fields the table fixes are fixed in every
well-formed instruction. -/
def Obligations.ImmediateResults : Prop :=
  ∀ (s : State) (w : Fields), Executes s w →
    let a := (s.core s.cur).rs w.a
    let se := w.imm.signExtend 64
    let ze := w.imm.zeroExtend 64
    let n := w.imm.toNat % 64
    let gives (v : Word) : Out := .next (s.doneWith w (·.ws w.d v))
    exec (.addi w) s = gives (a + se) ∧ exec (.andi w) s = gives (a &&& se) ∧ exec (.ori w) s = gives (a ||| ze)
    ∧ exec (.xori w) s = gives (a ^^^ ze) ∧ exec (.shli w) s = gives (a <<< n) ∧ exec (.shri w) s = gives (a >>> n)
    ∧ exec (.srai w) s = gives (a.sshiftRight n) ∧ exec (.movi w) s = gives se
    ∧ exec (.lui w) s = gives (if w.f = 0 then se <<< 20 else (a &&& 0xFFFFFFFFFF#64) ||| (se <<< 40))
    ∧ (∀ i ∈ [Instr.addi w, .andi w, .ori w, .xori w, .shli w, .shri w, .srai w, .movi w], i.wellFormed = true → w.f = 0)
    ∧ (∀ i ∈ [Instr.shli w, .shri w, .srai w], i.wellFormed = true → w.imm.toNat < 64)
    ∧ ((Instr.movi w).wellFormed = true → w.a = 0) ∧ ((Instr.lui w).wellFormed = true → w.f = 1 ∨ (w.f = 0 ∧ w.a = 0))

/-- R115, R116: compares and predicate moves that execute write their predicate, and PMOV.to a scalar register. Reserved codes
and unused fields that are not 0 are no well-formed instructions. -/
def Obligations.PredicateResults : Prop :=
  ∀ (s : State) (w : Fields),
    let k := s.core s.cur
    let a := k.rs w.a
    let cond (x : Word) : Bool := match w.f.toNat % 8 with
      | 0 => decide (a = x) | 1 => decide (a ≠ x) | 2 => decide (a.toInt < x.toInt) | 3 => decide (x.toInt ≤ a.toInt)
      | 4 => decide (a.toNat < x.toNat) | 5 => decide (x.toNat ≤ a.toNat) | _ => decide (a &&& x ≠ 0)
    let all (c : Bool) : Pred := if c then BitVec.allOnes 256 else 0
    let old := k.rp (r4 w.d)
    let put (c : Bool) : Pred := match w.f.toNat / 8 with | 0 => all c | 1 => old &&& all c | _ => old ||| all c
    let pa := k.rp (r4 w.a)
    let pb := k.rp (r4 w.b)
    let toP (v : Pred) : Out := .next (s.doneWith w (·.wp (r4 w.d) v))
    (Executes s w [w.a, w.b] → exec (.cmp w) s = toP (put (cond (k.rs w.b))))
    ∧ (Executes s w [w.a] → exec (.cmpi w) s = toP (put (cond (w.imm.signExtend 64))))
    ∧ (Executes s w [] →
      (w.f = 0 → exec (.pmov w) s = toP pa) ∧ (w.f = 1 → exec (.pmov w) s = toP (pa &&& pb))
      ∧ (w.f = 2 → exec (.pmov w) s = toP (pa ||| pb)) ∧ (w.f = 3 → exec (.pmov w) s = toP (pa ^^^ pb))
      ∧ (w.f = 4 → exec (.pmov w) s = toP (pa &&& ~~~pb)) ∧ (w.f = 5 → exec (.pmov w) s = toP (~~~pa))
      ∧ (w.f = 6 → exec (.pmov w) s = toP (BitVec.allOnes 256)) ∧ (w.f = 7 → exec (.pmov w) s = toP 0))
    ∧ (Executes s w [w.a] → (w.f = 8 → exec (.pmov w) s = toP (a.zeroExtend 256))
      ∧ (w.f = 10 → exec (.pmov w) s = toP (all (decide (a ≠ 0)))))
    ∧ (Executes s w [w.d] → w.f = 9 → exec (.pmov w) s = .next (s.doneWith w (·.ws w.d (pa.truncate 64))))
    ∧ (∀ i ∈ [Instr.cmp w, .cmpi w], i.wellFormed = true → w.d.toNat < 16 ∧ w.f.toNat % 8 ≠ 7 ∧ w.f.toNat / 8 ≤ 2)
    ∧ ((Instr.pmov w).wellFormed = true → w.f.toNat ≤ 10 ∧ (w.f.toNat = 9 ∨ w.d.toNat < 16) ∧ (1 ≤ w.f.toNat ∧ w.f.toNat ≤ 4 ∨ w.b = 0)
      ∧ (w.f.toNat ≤ 4 → w.a.toNat < 16 ∧ w.b.toNat < 16) ∧ (w.f.toNat = 5 ∨ w.f.toNat = 9 → w.a.toNat < 16)
      ∧ (w.f.toNat = 6 ∨ w.f.toNat = 7 → w.a = 0))

/-- R117: LEA and LEA2 compute an address, whatever its value, and access no memory; F[5:3] is 0. -/
def Obligations.AddressArithmetic : Prop :=
  ∀ (s : State) (w : Fields), Executes s w →
    let k := s.core s.cur
    let a := k.rs w.a
    let b := k.rs w.b
    exec (.lea w) s = .next (s.doneWith w (·.ws w.d (a + (b <<< (w.f.toNat % 8)) + w.imm.signExtend 64)))
    ∧ exec (.lea2 w) s = .next (s.doneWith w (·.ws w.d (a + (b &&& 0xFFFFFFFF#64) * w.imm.zeroExtend 64 + ((b >>> 32) <<< (w.f.toNat % 8)))))
    ∧ ((Instr.lea w).wellFormed = true ∨ (Instr.lea2 w).wellFormed = true → w.f.toNat / 8 = 0)

/-- R118, R91: control flow. -/
def Obligations.ControlResults : Prop :=
  ∀ (s : State) (w : Fields),
    let k := s.core s.cur
    let a := k.rs w.a
    let se := w.imm.signExtend 64
    let target := k.pc + 4 * se
    (Executes s w [] → exec (.b w) s = .next (s.doneTo w target id))
    ∧ (Executes s w [63] → exec (.call w) s = .next (s.doneTo w target (·.ws 63 (k.pc + 8))))
    ∧ (Executes s w (w.a :: if w.f = 1 then [63] else []) →
      (a.toNat % 4 = 0 → exec (.bi w) s = .next (s.doneTo w a (fun k => if w.f = 1 then k.ws 63 (k.pc + 8) else k)))
      ∧ (a.toNat % 4 ≠ 0 → exec (.bi w) s = .next (s.trapNow s.cur .misaligned a)))
    ∧ (Executes s w [w.a] →
      (a.toNat % 4 = 0 → exec (.ret w) s = .next (s.doneTo w a id))
      ∧ (a.toNat % 4 ≠ 0 → exec (.ret w) s = .next (s.trapNow s.cur .misaligned a)))
    ∧ (Executes s w [w.d] →
      exec (.loopn w) s = .next (s.doneTo w (if k.rs w.d - 1 = 0 then k.pc + 8 else target) (·.ws w.d (k.rs w.d - 1))))

/-- R119 to R121: LD and ST send their bytes as one access when it is naturally aligned, and as single bytes otherwise; the
load's result goes to sD, extended as its size code says, and a store waits for room in the stamp buffer.
R27, R122: a window read takes the lines its window cache holds, fills the others, and reads zeros beyond LEN, which
raises PWOOB; LDP names its window by its B field, LD by bits 22 to 20 of its address. -/
def Obligations.WeakLoadsAndStores : Prop :=
  (
  ∀ (s : State) (w : Fields) (l : Loc) (cls gr : Nat), Executes s w →
    let k := s.core s.cur
    let ea := k.rs w.a + k.rs w.b + w.imm.signExtend 64
    let n := sizeBytes (fLo w)
    let parts : List Part := if ea.toNat % n = 0 then [⟨0, l, n, cls, gr⟩] else (List.range n).map (fun i => ⟨i, l.plus i, 1, cls, gr⟩)
    (fHi w < 4 → Reaches s (fHi w) ea n .r l cls gr →
      exec (.ld w) s = .next (s.sentWith w {} (.sreg w.d (fLo w)) (List.replicate n 0) (parts.map (fun p => (p, .load)))))
    ∧ (fHi w < 4 → Reaches s (fHi w) ea n .w l cls gr → Unsealed s l n → k.stamps.length < 64 → k.sidelog.length < 32 →
      exec (.st w) s = .next (s.sentWith w {} .none []
        (parts.map (fun p => (p, .store (((leBytes n (k.rs w.d).toNat).drop p.pos).take p.len))))))
  )
  ∧ (
  ∀ (s : State) (w : Fields) (buf : List Byte) (parts : List (Part × AccOp)) (used : List (Nat × List Byte)) (beyond : Bool),
    let k := s.core s.cur
    let o := k.rs w.a + w.imm.signExtend 64
    let ea := k.rs w.a + k.rs w.b + w.imm.signExtend 64
    let n := sizeBytes (fLo w)
    let sends (win off : Nat) (r : Out) : Prop := windowPlan s s.cur win off n (List.range n) = .ok buf parts used beyond →
      r = .next (let s' := s.setCore s.cur (k.touchLines used)
        (if beyond then s'.raisePwoob s.cur 7 0 k.pc.toNat else s').sentWith w {} (.sreg w.d (fLo w)) buf parts)
    (Executes s w [w.d, w.a] → sends w.b.toNat o.toNat (exec (.ldp w) s))
    ∧ (Executes s w → fHi w = 4 → ea.toNat < 2 ^ 23 → sends (ea.toNat / 2 ^ 20 % 8) (ea.toNat % 2 ^ 20) (exec (.ld w) s))
  )

/-- R119, R120, R78: LDS and STS send one naturally aligned access and trap on any other address. LDS.acq keeps S at the
instruction until it is performed; STS.rel first retires a fence of its scope. -/
def Obligations.StrongLoadsAndStores : Prop :=
  ∀ (s : State) (w : Fields) (l : Loc) (cls gr : Nat), Executes s w [w.d, w.a] →
    let k := s.core s.cur
    let ea := k.rs w.a + w.imm.signExtend 64
    let n := sizeBytes (fLo w)
    let part : Part := ⟨0, l, n, cls, gr⟩
    let st (mods : BitVec 2) (s : State) : State :=
      s.sentWith w { strong := true, mods := mods } .none [] [(part, .store (leBytes n (k.rs w.d).toNat))]
    (ea.toNat % n ≠ 0 → exec (.lds w) s = .next (s.trapNow s.cur .misaligned ea) ∧ exec (.sts w) s = .next (s.trapNow s.cur .misaligned ea))
    ∧ (ea.toNat % n = 0 → Reaches s (fHi w) ea n .r l cls gr →
      (w.b = 0 → exec (.lds w) s = .next (s.sentWith w { strong := true } (.sreg w.d (fLo w)) (List.replicate n 0) [(part, .load)]))
      ∧ (w.b = 1 → exec (.lds w) s
          = .next (s.sentAndHeld w { strong := true, acq := true } (.sreg w.d (fLo w)) (List.replicate n 0) [(part, .load)])))
    ∧ (ea.toNat % n = 0 → Reaches s (fHi w) ea n .w l cls gr → Unsealed s l n → k.stamps.length < 64 → k.sidelog.length < 32 →
      (w.b = 0 → exec (.sts w) s = .next (st 0 s))
      ∧ (∀ (scope : Nat) (mods : BitVec 2), (w.b = 1 ∧ scope = 2 ∧ mods = 1) ∨ (w.b = 5 ∧ scope = 3 ∧ mods = 3) →
          fenceReady s s.cur scope k.seq = true →
          exec (.sts w) s = .next (st mods (s.modCore s.cur (·.retireFence scope)))))

/-- R124: full/empty instructions send one aligned access to a word of a scratchpad, of this device or of the peer; LDF,
STE and FEQ keep S at the instruction until it is performed, STF does not. FECLR of no bytes does nothing; it sends one
access for each of its words, in ascending order, and keeps S.
R123, R125, R126, R129: PREF asks for a copy and never traps; AMO and RED send one update, RED without a result; a
release form first retires its fence; FLAGADD fences and sends one update of a full/empty word. -/
def Obligations.FullEmptyIssue : Prop :=
  (
  ∀ (s : State) (w : Fields) (l : Loc) (cls gr : Nat), isSpad l = true →
    let k := s.core s.cur
    let ea := k.rs w.a + w.imm.signExtend 64
    let len := (k.rs w.b).toNat
    let part : Part := ⟨0, l, 8, cls, gr⟩
    let roomy := k.stamps.length < 64 ∧ k.sidelog.length < 32
    (ea.toNat % 8 = 0 → Reaches s (fHi w) ea 8 .r l cls gr →
      (Executes s w [w.d, w.a] →
        exec (.ldf w) s = .next (s.sentAndHeld w { strong := true, acq := true } (.sreg w.d 3) (List.replicate 8 0) [(part, .ldf (w.b == 1))]))
      ∧ (Executes s w [w.a] →
        exec (.feq w) s = .next (s.sentAndHeld w { strong := true, acq := true } (.preg (w.d.truncate 4)) [0] [(part, .feq)])))
    ∧ (ea.toNat % 8 = 0 → Reaches s (fHi w) ea 8 .w l cls gr → roomy → Executes s w [w.d, w.a] →
      exec (.ste w) s = .next (s.sentAndHeld w { strong := true, acq := true } .none [] [(part, .ste (k.rs w.d))])
      ∧ exec (.stf w) s = .next (s.sentWith w { strong := true } .none [] [(part, .stf (k.rs w.d))]))
    ∧ (ea.toNat % 8 = 0 → len % 8 = 0 → Executes s w →
      (len = 0 → exec (.feclr w) s = .next (s.doneWith w id))
      ∧ (0 < len → byteAt s k (fHi w) ea 0 .w false = .ok l cls gr →
          byteAt s k (fHi w) ea (len - 1) .w false = .ok (l.plus (len - 1)) cls gr →
          exec (.feclr w) s = .next (s.sentAndHeld w { strong := true } .none []
            ((List.range (len / 8)).map (fun i => (⟨0, l.plus (8 * i), 8, cls, gr⟩, .feclr 1))))))
  )
  ∧ (
  ∀ (s : State) (w : Fields) (l : Loc) (cls gr : Nat),
    let k := s.core s.cur
    let ea := k.rs w.a + w.imm.signExtend 64
    let n := if fLo w = 2 then 4 else 8
    let part : Part := ⟨0, l, n, cls, gr⟩
    let op (ret : Bool) : AccOp := .rmw (w.b.toNat % 16) n (k.rs w.d) (k.rs (w.d + 1)) ret
    let fill : Acc :=
      { core := s.cur, seq := k.seq, loc := l.plus 0, len := 1, op := .fill (fLo w == 1), strong := false, acq := false,
        sc := false, eng := .s, cls := cls, gr := gr, grp := k.seq, pos := 0, arr := 0, cyc := 0, mods := 0, waiting := none,
        asked := false, plane := [], planeW := 0, planeP := false, fwd := [] }
    let free := k.stamps.length < 64 ∧ k.sidelog.length < 32
    let amo (m : BitVec 2) (s : State) : State :=
      s.sentWith w { strong := true, mods := m } (.sreg w.d (if n = 4 then 2 else 3)) (List.replicate n 0) [(part, op true)]
    let red (m : BitVec 2) (s : State) : State := s.sentWith w { strong := true, mods := m } .none [] [(part, op false)]
    (ea.toNat % n = 0 → Reaches s (fHi w) ea n .rw l cls gr → Unsealed s l n → free →
      Executes s w (w.d :: w.a :: if w.b.toNat % 16 = 9 then [w.d + 1] else []) →
      (w.b.toNat < 16 → exec (.amo w) s = .next (amo 0 s) ∧ exec (.red w) s = .next (red 0 s))
      ∧ (∀ (scope : Nat) (m : BitVec 2), (w.b.toNat / 16 = 1 ∧ scope = 2 ∧ m = 1) ∨ (2 ≤ w.b.toNat / 16 ∧ scope = 3 ∧ m = 3) →
          fenceReady s s.cur scope k.seq = true →
          exec (.amo w) s = .next (amo m (s.modCore s.cur (·.retireFence scope)))
          ∧ exec (.red w) s = .next (red m (s.modCore s.cur (·.retireFence scope)))))
    ∧ (Executes s w →
      (ea.toNat % 8 = 0 → Reaches s 2 ea 8 .rw l cls gr → Unsealed s l 8 → free → fenceReady s s.cur w.f.toNat k.seq = true →
        exec (.flagadd w) s = .next ((s.modCore s.cur (·.retireFence w.f.toNat)).sentWith w { strong := true } (.sreg w.d 3)
          (List.replicate 8 0) [(⟨0, l, 8, cls, gr⟩, .flagadd ((k.rs w.b).toNat % 2 ^ 32))]))
      ∧ (Reaches s 0 (k.rs w.a + k.rs w.b + w.imm.signExtend 64) 1 .r l cls gr → cls ≠ 0 →
        exec (.pref w) s = .next (((s.setCore s.cur { k with seq := k.seq + 1 }).joinHome fill).doneWith w id))
      ∧ ((∀ l cls gr, byteAt s k 0 (k.rs w.a + k.rs w.b + w.imm.signExtend 64) 0 .r false ≠ .ok l cls gr) →
        exec (.pref w) s = .next (s.doneWith w id)))
  )

/-- R86: LDS.sc, STS.sc and AMOSC first retire FENCE.system and then wait for the next slot of their core: the access,
strong and sequentially consistent, is sent in that slot; the pop is taken. -/
def Obligations.SequentiallyConsistentIssue : Prop :=
  ∀ (s : State) (w : Fields) (l : Loc) (cls gr : Nat),
    let k := s.core s.cur
    let ea := k.rs w.a + w.imm.signExtend 64
    let n := sizeBytes (fLo w)
    let m := if fLo w = 2 then 4 else 8
    let waits (r : Out) (dest : Dest) (op : AccOp) (n : Nat) : Prop := ∃ t a g,
      r = .next (s.setCore s.cur { (((k.retireFence 3).reserve w.push).pop w.pop) with
        seq := k.seq + 1, wait := some (.slot t a g w), took := w.pop })
      ∧ t = nextSlot (s.modCore s.cur (·.retireFence 3)) s.cur ∧ a.op = op ∧ a.loc = l.plus 0 ∧ a.len = n ∧ a.strong = true ∧ a.acq = true ∧ a.sc = true ∧ a.cls = cls
      ∧ a.gr = gr ∧ a.core = s.cur ∧ a.seq = k.seq ∧ g.id = k.seq ∧ g.dest = dest ∧ g.left = 1 ∧ g.push = w.push
    let free := k.stamps.length < 64 ∧ k.sidelog.length < 32
    fenceReady s s.cur 3 k.seq = true →
      (Executes s w [w.d, w.a] → ea.toNat % n = 0 → w.b = 2 →
        (Reaches s (fHi w) ea n .r l cls gr → waits (exec (.lds w) s) (.sreg w.d (fLo w)) .load n)
        ∧ (Reaches s (fHi w) ea n .w l cls gr → Unsealed s l n → free →
          waits (exec (.sts w) s) .none (.store (leBytes n (k.rs w.d).toNat)) n))
      ∧ (Executes s w (w.d :: w.a :: if w.b.toNat % 16 = 9 then [w.d + 1] else []) →
          ea.toNat % m = 0 → Reaches s (fHi w) ea m .rw l cls gr → Unsealed s l m → free →
          waits (exec (.amosc w) s) (.sreg w.d (if m = 4 then 2 else 3)) (.rmw (w.b.toNat % 16) m (k.rs w.d) (k.rs (w.d + 1)) true) m)

/-- The operation that sends accesses: the core's queue takes exactly the parts, in order and numbered on, with one new
group that waits for all of them; the register of a load is busy, a push is reserved, and nothing else changes. -/
def Obligations.IssuedAccesses : Prop :=
  ∀ (s : State) (c : CoreId) (at_ : Attr) (pc : Word) (dest : Dest) (push : BitVec 3) (buf : List Byte) (parts : List (Part × AccOp)),
    parts ≠ [] →
    let k := s.core c
    let t := s.issueAccess c at_ pc dest push buf parts
    let k' := t.core c
    (∀ c', c' ≠ c → t.core c' = s.core c') ∧ t.mem = s.mem ∧ t.homeQ = s.homeQ
    ∧ (∃ new : List Acc, k'.pend = k.pend ++ new ∧ new.map (·.op) = parts.map (·.2)
        ∧ new.map (fun a => (a.loc, a.len, a.cls, a.gr, a.pos)) = parts.map (fun p => (p.1.loc, p.1.len, p.1.cls, p.1.gr, p.1.pos))
        ∧ new.map (·.seq) = (List.range parts.length).map (· + k.seq)
        ∧ ∀ a ∈ new, a.core = c ∧ a.grp = k.seq ∧ a.strong = at_.strong ∧ a.eng = at_.eng)
    ∧ k'.groups = k.groups ++ [⟨k.seq, pc, dest, buf, 0, parts.length, push, false, false⟩]
    ∧ k'.busyS = (match dest with | .sreg r _ => if r = 0 then k.busyS else r.toNat :: k.busyS | _ => k.busyS)
    ∧ k'.rsv = (k.reserve push).rsv ∧ k'.s = k.s ∧ k'.p = k.p ∧ k'.tok = k.tok ∧ k'.pc = k.pc ∧ k'.status = k.status

/-- R77, R128, R130 to R132: FENCE retires at once when it may and otherwise waits; FLAGSET sends its flags after its fence;
SEAL adds a descriptor after FENCE.device; UNSEAL removes one that nobody reads, and closes one that is read.
That a fence that may not retire holds S at the instruction is the model's reading (log entry 13). -/
def Obligations.FencesFlagsAndSeals : Prop :=
  ∀ (s : State) (w : Fields), Executes s w →
    let k := s.core s.cur
    let c := s.cur
    let retired (n : Nat) : State := s.modCore c (·.retireFence n)
    let bad (r : Out) (v : Word) : Prop := r = .next (s.trapNow c .illOperand v)
    let ea := k.rs w.a + w.imm.signExtend 64
    let roomy := k.stamps.length < 64 ∧ k.sidelog.length < 32
    (fenceReady s c w.f.toNat k.seq = true → exec (.fence w) s = .next (s.doneWith w (·.retireFence w.f.toNat)))
    ∧ (fenceReady s c w.f.toNat k.seq = false →
        exec (.fence w) s = .next (s.staysAt s w (.fence w.f.toNat k.seq w)))
    ∧ (∀ l cls gr, fHi w = 0 → ea.toNat % 8 = 0 → Reaches s 2 ea 8 .w l cls gr → Unsealed s l 8 → roomy → fenceReady s c (fLo w) k.seq = true →
        exec (.flagset w) s = .next ((retired (fLo w)).sentAndHeld w { strong := true } (.flags w.d) (List.replicate 8 0)
          [(⟨0, l, 8, cls, gr⟩, .stf (k.rs w.b))]))
    ∧ (fHi w ≠ 0 → w.imm.toNat % 8 = 0 → roomy → fenceReady s c (fLo w) k.seq = true → k.rs w.a ≠ 0 →
        (∀ l, l < 64 → (k.rs w.a).getLsbD l = true →
          (s.core (s.byLid l)).fenced = false ∧ w.imm.toNat + 8 ≤ (s.core (s.byLid l)).pbsp.toNat * 16384) →
        exec (.flagset w) s = .next ((retired (fLo w)).sentAndHeld w { strong := true } (.flags w.d) (List.replicate 8 0)
          (((List.range 64).filter (fun l => (k.rs w.a).getLsbD l)).map (fun l => (⟨0, .spad l w.imm.toNat, 8, 1, 0⟩, .stf (k.rs w.b))))))
    ∧ (∀ sl o, let n := (k.rs w.b).toNat
        (k.rs w.a).toNat = sl * 2 ^ 24 + o → sl < 32 → o < 2 ^ 23 →
        ((o % 512 ≠ 0 ∨ n % 512 ≠ 0 ∨ n = 0 ∨ stgSize s sl < o + n) → bad (exec (.seal w) s) (k.rs w.a))
        ∧ (o % 512 = 0 → n % 512 = 0 → 0 < n → o + n ≤ stgSize s sl → fenceReady s c 2 k.seq = true →
          sealFree s sl = true → (∀ d ∈ s.seals, d.slice = sl → d.off + d.len ≤ o ∨ o + n ≤ d.off) →
          exec (.seal w) s = .next (s.after w { retired 2 with seals := s.seals ++ [⟨sl, o, n, coreCtx k, 0, false, false⟩] } id))
        ∧ ((∀ d ∈ s.seals, ¬ (d.slice = sl ∧ d.off = o ∧ d.ctx = coreCtx k ∧ d.staging = false)) → bad (exec (.unseal w) s) (k.rs w.a))
        ∧ (∀ d, s.seals.find? (fun d => d.slice == sl && d.off == o && d.ctx == coreCtx k && !d.staging) = some d →
          (d.count = 0 → exec (.unseal w) s = .next (s.after w
            { s with seals := s.seals.filter (fun x => !(x.slice == sl && x.off == o)) } id))
          ∧ (d.count ≠ 0 → exec (.unseal w) s = .next (s.staysAt { s with seals := s.seals.map (fun (x : SealDesc) =>
              if x.slice == sl && x.off == o then { x with closing := true } else x) } w (.unseal sl o w)))))

/-- R138, R139: token and time instructions.
R139: SLEEPT_WAKE ends a sleep at its tick. -/
def Obligations.TokensAndTime : Prop :=
  (
  ∀ (s : State) (w : Fields), Executes s w →
    let k := s.core s.cur
    let c := s.cur
    let gives (v : Word) : Out := .next (s.doneWith w (·.ws w.d v))
    let promise : Word := match k.lastCopy with | some (_, p) => p | none => 0
    let target := if w.f = 1 then promise else k.rs w.a
    let open_ := match k.lastCopy with | some (id, _) => k.cq.any (fun o => o.id == id) | none => false
    exec (.tkpop w) s = .next (s.doneWith w id) ∧ exec (.tkpush w) s = .next (s.doneWith w id)
    ∧ exec (.tkq w) s = gives (BitVec.ofNat 64 (k.tokens (w.imm.truncate 3)))
    ∧ exec (.rdtime w) s = gives (if w.f = 1 then promise else s.gtc)
    ∧ (s.gtc.toNat < target.toNat → exec (.sleept w) s = .next (s.staysAt s w (.sleep target w)))
    ∧ (target.toNat ≤ s.gtc.toNat → (w.f = 1 ∧ open_ = true) → exec (.sleept w) s = .next (s.trapNow c .missedPromise target))
    ∧ (target.toNat ≤ s.gtc.toNat → (w.f ≠ 1 ∨ open_ = false) → exec (.sleept w) s = .next (s.doneWith w id))
  )
  ∧ (
  ∀ (s : State) (c : CoreId) (t : Word) (w : Fields), (s.core c).wait = some (.sleep t w) →
    let k := s.core c
    let open_ := match k.lastCopy with | some (id, _) => k.cq.any (fun o => o.id == id) | none => false
    (s.gtc.toNat < t.toNat → exec (.sleeptWake c) s = .next s)
    ∧ (t.toNat ≤ s.gtc.toNat → (w.f ≠ 1 ∨ open_ = false) → exec (.sleeptWake c) s = .next (s.setCore c (k.finishHeld w (k.pc + 8))))
    ∧ (t.toNat ≤ s.gtc.toNat → w.f = 1 → open_ = true → exec (.sleeptWake c) s = .next (s.trapNow c .missedPromise t))
  )

/-- R140: HZN writes the horizon, or the observation, that F selects, with its pending bit in bit 63. -/
def Obligations.HorizonReads : Prop :=
  ∀ (s : State) (w : Fields), Executes s w →
    let k := s.core s.cur
    let c := s.cur
    let gives (v : Word) : Out := .next (s.doneWith w (·.ws w.d v))
    let pend (v : Word) (p : Bool) : Word := if p then v ||| 0x8000000000000000#64 else v &&& 0x7FFFFFFFFFFFFFFF#64
    (w.f = 0 → exec (.hzn w) s = gives (pend k.hz.core (feeding s c false)))
    ∧ (w.f = 1 → exec (.hzn w) s = gives (pend k.hz.cluster (feeding s c false)))
    ∧ (w.f = 2 → exec (.hzn w) s = gives (pend k.hz.device (feeding s c false)))
    ∧ (w.f = 3 → exec (.hzn w) s = gives (pend k.hz.system (feeding s c false)))
    ∧ (w.f = 4 → exec (.hzn w) s = gives (pend (wmax k.hz.system k.hz.uo) (feeding s c false || feeding s c true)))
    ∧ (w.f = 5 → exec (.hzn w) s = gives (pend k.hz.uo (feeding s c true)))
    ∧ (w.f = 6 → exec (.hzn w) s = gives (pend k.obs false))

/-- R16 to R24, R33, R40, R41, R141, R142, R195: CFGW writes the register its number names when the value's reserved bits
are zero and the mode may write it; a task's write to any other register is PERM_FAULT, and so is every write to CORELOG,
COREPHY and LEASELEN. VIEW is CFGW to a tile view.
R20: when a pool is re-cut, a byte that stays in its part keeps its value, and every other byte of the pool reads
zero; no other memory changes.
R40: CFGR reads the word of every configuration register; a number that none has traps. -/
def Obligations.ConfigurationWrites : Prop :=
  (
  ∀ (s : State) (w : Fields), Executes s w [w.a] →
    let k := s.core s.cur
    let c := s.cur
    let v := k.rs w.a
    let n := w.imm.toNat
    let writes (r : Out) (f : Core → Core) : Prop := r = .next (s.doneWith w f)
    let refused (r : Out) : Prop := r = .next (s.trapNow c .permFault (w.imm.zeroExtend 64))
    (n = 0x060 → v.toNat < 256 → writes (exec (.cfgw w) s) (fun k => { k with ae := v }))
    ∧ (n = 0x061 → v.toNat < 4 → writes (exec (.cfgwView w) s) (fun k => { k with fmode := v }))
    ∧ (n = 0x020 → v.toNat % 256 = 0 → v.toNat + 16384 ≤ k.pbreg.toNat * 16384 → v.toNat < 2 ^ 19 →
        writes (exec (.cfgwView w) s) (fun k => { k with vview := v }))
    ∧ (∀ i : Fin 16, tviewOk k v = true → (n = 0x030 + i.val → writes (exec (.cfgwView w) s) (fun k => { k with tview := k.tview.set i v }))
        ∧ (w.d.toNat = i.val → writes (exec (.view w) s) (fun k => { k with tview := k.tview.set i v })))
    ∧ (tviewOk k v = false → exec (.view w) s = .next (s.trapNow c .illOperand v))
    ∧ (∀ i : Fin 4, n = 0x040 + i.val → aviewOk k v = true → writes (exec (.cfgwView w) s) (fun k => { k with aview := k.aview.set i v }))
    ∧ (n = 0x050 → tqcfgOk v = true → (∀ q : BitVec 3, k.tokens q = 0) → drained k = true →
        writes (exec (.cfgwTqcfg w) s) (fun k => { k with tqcfg := v }))
    ∧ (n = 0x050 → tqcfgOk v = true → (∀ q : BitVec 3, k.tokens q = 0) → drained k = false →
        exec (.cfgwTqcfg w) s = .next (s.staysAt s w (.again false)))
    ∧ (n = 0x0A0 → writes (exec (.cfgwStatus w) s) (fun k => { k with status := k.status &&& ~~~(v &&& 7#64) }))
    ∧ (n = 0x0B0 → v.toNat < 2 ^ 18 → writes (exec (.cfgwLseed w) s)
        (fun k => { k with lseed := v, lantern := if v.truncate 16 = 0#16 then 0xACE1 else v.truncate 16 }))
    ∧ (k.handler = true →
        (n = 0x000 → v.toNat < 2 ^ 48 → writes (exec (.cfgw w) s) (fun k => { k with taskid := v }))
        ∧ (n = 0x090 → writes (exec (.cfgw w) s) (fun k => { k with tvec := v }))
        ∧ (n = 0x091 → v.toNat < 512 → writes (exec (.cfgw w) s) (fun k => { k with tcause := v }))
        ∧ (n = 0x092 → writes (exec (.cfgw w) s) (fun k => { k with tepc := v }))
        ∧ (n = 0x093 → writes (exec (.cfgw w) s) (fun k => { k with tval := v }))
        ∧ (n = 0x0C0 → v.toNat / 2 ^ 40 % 2 ^ 19 = 0 → writes (exec (.cfgw w) s) (fun k => { k with phstate := v }))
        ∧ (∀ i : Fin 8, (n = 0x080 + i.val → v.toNat < 2 ^ 56 → writes (exec (.cfgw w) s) (fun k => { k with win := k.win.set i (v, k.win[i].2) }))
          ∧ (n = 0x1080 + i.val → v.toNat / 2 ^ 21 % 2 ^ 42 = 0 → writes (exec (.cfgw w) s) (fun k => { k with win := k.win.set i (k.win[i].1, v) }))
          ∧ (n = 0x110 + i.val → v.toNat / 2 ^ 40 % 32 = 0 → writes (exec (.cfgw w) s) (fun k => { k with kvgen := k.kvgen.set i v }))
          ∧ (n = 0x100 + i.val → rangeWordOk 0 v = true → writes (exec (.cfgw w) s) (fun k => { k with range := k.range.set i { k.range[i] with w0 := v } }))
          ∧ (n = 0x1100 + i.val → rangeWordOk 1 v = true → writes (exec (.cfgw w) s) (fun k => { k with range := k.range.set i { k.range[i] with w1 := v } }))
          ∧ (n = 0x2100 + i.val → rangeWordOk 2 v = true → writes (exec (.cfgw w) s) (fun k => { k with range := k.range.set i { k.range[i] with w2 := v } }))
          ∧ (n = 0x3100 + i.val → rangeWordOk 3 v = true → writes (exec (.cfgw w) s) (fun k => { k with range := k.range.set i { k.range[i] with w3 := v } })))
        ∧ (∀ reg sp ca, (reg, sp, ca) = (if n = 0x010 then v.toNat else k.pbreg.toNat, if n = 0x011 then v.toNat else k.pbsp.toNat, if n = 0x012 then v.toNat else k.pbcache.toNat) →
          n ∈ [0x010, 0x011, 0x012] → v.toNat < 128 → drained k = true → k.landing = [] → k.groups = [] →
          (poolOk reg sp ca = true → exec (.cfgwPoolBoundary w) s = .next (s.after w (s.recut c reg sp ca) id))
          ∧ (poolOk reg sp ca = false → exec (.cfgwPoolBoundary w) s = .next (s.trapNow c .illOperand v))))
    ∧ (k.handler = false → (n ∈ [0x000, 0x090, 0x091, 0x092, 0x093] ∨ ∃ i : Fin 8, n = 0x080 + i.val ∨ n = 0x100 + i.val ∨ n = 0x110 + i.val) → v = 0 →
        refused (exec (.cfgw w) s))
    ∧ (k.handler = false → n ∈ [0x010, 0x011, 0x012] → v.toNat < 128 → refused (exec (.cfgwPoolBoundary w) s))
    ∧ (n ∈ [0x001, 0x002, 0x070] → v = 0 → refused (exec (.cfgw w) s))
  )
  ∧ (
  ∀ (s : State) (c : CoreId) (reg sp ca : Nat), memWf s.mem = true →
    let k := s.core c
    let t := s.recut c reg sp ca
    let base := poolBase + c.toNat * 2 ^ 21
    let inReg (n a : Nat) : Prop := a < n * 16384
    let inSp (n m a : Nat) : Prop := n * 16384 ≤ a ∧ a < n * 16384 + m * 16384
    (∀ a, a < 2 ^ 21 → ((inReg k.pbreg.toNat a ∧ inReg reg a) ∨ (inSp k.pbreg.toNat k.pbsp.toNat a ∧ inSp reg sp a) → memGet t.mem (base + a) = memGet s.mem (base + a))
      ∧ (¬ ((inReg k.pbreg.toNat a ∧ inReg reg a) ∨ (inSp k.pbreg.toNat k.pbsp.toNat a ∧ inSp reg sp a)) → memGet t.mem (base + a) = 0))
    ∧ (∀ a, (a < base ∨ base + 2 ^ 21 ≤ a) → memGet t.mem a = memGet s.mem a)
    ∧ (t.core c).pbreg = BitVec.ofNat 64 reg ∧ (t.core c).pbsp = BitVec.ofNat 64 sp ∧ (t.core c).pbcache = BitVec.ofNat 64 ca
    ∧ memWf t.mem = true
  )
  ∧ (
  ∀ (s : State) (w : Fields), Executes s w [w.d] →
    let k := s.core s.cur
    let n := w.imm.toNat
    let reads (v : Word) : Prop := exec (.cfgr w) s = .next (s.doneWith w (·.ws w.d v))
    (∀ e ∈ [(0x000, k.taskid), (0x001, BitVec.ofNat 64 ((if s.devnum then 64 else 0) + k.lid.toNat)), (0x002, s.cur.zeroExtend 64),
        (0x010, k.pbreg), (0x011, k.pbsp), (0x012, k.pbcache), (0x020, k.vview), (0x050, k.tqcfg), (0x060, k.ae), (0x061, k.fmode),
        (0x070, s.leaseLen), (0x090, k.tvec), (0x091, k.tcause), (0x092, k.tepc), (0x093, k.tval), (0x0A0, k.status),
        (0x0B0, k.lseed), (0x0C0, k.phstate)], n = e.1 → reads e.2)
    ∧ (∀ i : Fin 16, n = 0x030 + i.val → reads k.tview[i]) ∧ (∀ i : Fin 4, n = 0x040 + i.val → reads k.aview[i])
    ∧ (∀ i : Fin 8, (n = 0x080 + i.val → reads k.win[i].1) ∧ (n = 0x1080 + i.val → reads k.win[i].2))
    ∧ (∀ i : Fin 8, (n = 0x100 + i.val → reads k.range[i].w0) ∧ (n = 0x1100 + i.val → reads k.range[i].w1)
        ∧ (n = 0x2100 + i.val → reads k.range[i].w2) ∧ (n = 0x3100 + i.val → reads k.range[i].w3))
    ∧ (∀ i : Fin 8, n = 0x110 + i.val → reads k.kvgen[i])
    ∧ (∀ x ∈ [0x003, 0x00F, 0x013, 0x021, 0x02F, 0x044, 0x051, 0x062, 0x071, 0x088, 0x094, 0x0A1, 0x0B1, 0x0C1, 0x0FF, 0x108, 0x118, 0xFFF],
        n % 4096 = x → exec (.cfgr w) s = .next (s.trapNow s.cur .illOperand (w.imm.zeroExtend 64)))
  )

/-- R101, R143: TSET replaces one field of a template; TLOAD and TSAVE send the accesses of their 32 aligned bytes. -/
def Obligations.Templates : Prop :=
  ∀ (s : State) (w : Fields) (l : Loc) (cls gr : Nat), Executes s w →
    let k := s.core s.cur
    let eng := w.imm.toNat % 8
    let tix := w.imm.toNat / 8 % 64
    let fsel := w.imm.toNat / 512 % 32
    let ea := k.rs w.a
    let words : List Part := (List.range 4).map (fun i => ⟨8 * i, l.plus (8 * i), 8, cls, gr⟩)
    (∀ lo n, fieldAt eng fsel = some (lo, n) → (k.rs w.a).toNat < 2 ^ n →
      exec (.tset w) s = .next (s.doneWith w (fun k => { k with tmpl := tabSet k.tmpl (64 * eng + tix) (amend (tmplGet k eng tix) eng fsel (k.rs w.a).toNat) })))
    ∧ (∀ lo n, fieldAt eng fsel = some (lo, n) → 2 ^ n ≤ (k.rs w.a).toNat → exec (.tset w) s = .next (s.trapNow s.cur .illOperand (k.rs w.a)))
    ∧ (fieldAt eng fsel = none → exec (.tset w) s = .next (s.trapNow s.cur .illField (w.imm.zeroExtend 64)))
    ∧ (ea.toNat % 32 ≠ 0 → exec (.tload w) s = .next (s.trapNow s.cur .misaligned ea) ∧ exec (.tsave w) s = .next (s.trapNow s.cur .misaligned ea))
    ∧ (ea.toNat % 32 = 0 → fHi w < 4 → Reaches s (fHi w) ea 32 .r l cls gr →
        exec (.tload w) s = .next (s.sentAndHeld w {} (.tmpl (64 * eng + tix)) (List.replicate 32 0) (words.map (fun p => (p, .load)))))
    ∧ (∀ buf parts used, ea.toNat % 32 = 0 → fHi w = 4 → ea.toNat < 2 ^ 23 → parts ≠ [] →
        windowPlan s s.cur (ea.toNat / 2 ^ 20 % 8) (ea.toNat % 2 ^ 20) 32 (List.range 32) = .ok buf parts used false →
        exec (.tload w) s = .next ((s.setCore s.cur (k.touchLines used)).sentAndHeld w {} (.tmpl (64 * eng + tix)) buf parts))
    ∧ (ea.toNat % 32 = 0 → fHi w < 4 → Reaches s (fHi w) ea 32 .w l cls gr → Unsealed s l 32 → k.stamps.length < 64 → k.sidelog.length < 32 →
        exec (.tsave w) s = .next (s.sentWith w {} .none []
          (words.map (fun p => (p, .store (((leBytes 32 (tmplGet k eng tix).toNat).drop p.pos).take 8))))))

/-- R28, R29, R144: the matrix-array lease and the working bank. MLEASE completes for the holder and otherwise waits;
its non-blocking form takes part in one arbitration; MREL ends the holder's lease; ASWAP exchanges the
working-bank part of a view with its visible bytes, once no vector load of those is on its way.
R28: a free array, once it works on no command, goes to the first requester after the core last served, in turn; a lease
ends after 64 operations, 4,096 cycles, or 64 idle cycles while another core requests. -/
def Obligations.MatrixLease : Prop :=
  (
  ∀ (s : State) (w : Fields),
    let k := s.core s.cur
    let c := s.cur
    let cl := clusterOf c
    let a := s.cluster cl
    let mine := a.holder = some (BitVec.ofNat 2 (positionOf c))
    (Executes s w → isNb w = false →
      (mine → exec (.mlease w) s = .next (s.doneWith w id)) ∧ (¬ mine → exec (.mlease w) s = .next (s.staysAt s w .lease)))
    ∧ (Executes s w → isNb w = true →
      (mine → exec (.mlease w) s = .next (s.doneWith w id |>.modCore c (fun k => k.wp w.gp (BitVec.allOnes 256))))
      ∧ (a.holder.isSome = true → ¬ mine → exec (.mlease w) s = .next (s.doneWith w id |>.modCore c (fun k => k.wp w.gp 0)))
      ∧ (a.holder = none → (nextHolder s cl (some c) = some (positionOf c) →
          exec (.mlease w) s = .next ((s.grantArray cl (positionOf c)).doneWith w id |>.modCore c (fun k => k.wp w.gp (BitVec.allOnes 256))))
        ∧ (nextHolder s cl (some c) ≠ some (positionOf c) →
          exec (.mlease w) s = .next (s.doneWith w id |>.modCore c (fun k => k.wp w.gp 0)))))
    ∧ (Executes s w → (mine → exec (.mrel w) s = .next (s.after w
        (s.setCluster cl { a with holder := none, last := BitVec.ofNat 2 (positionOf c), idle := none }) id))
      ∧ (¬ mine → exec (.mrel w) s = .next (s.doneWith w id)))
    ∧ (∀ i : Fin 4, Executes s w [] → w.d.toNat % 4 = i.val → k.mq = [] →
        let v := k.aview[i]
        let n := if v.toNat / 2 ^ 20 % 4 = 0 then 65536 else v.toNat / 2 ^ 20 % 4 * 16384
        let bank := wbankKey c (v.toNat / 2 ^ 22 % 4 * 16384)
        let seen := regionKey c (v.toNat % 2 ^ 19)
        (granulePending k (v.toNat % 2 ^ 19) n = false →
          exec (.aswap w) s = .next (s.after w ((s.writeMem bank (s.readMem seen n)).writeMem seen (s.readMem bank n)) id))
        ∧ (granulePending k (v.toNat % 2 ^ 19) n = true → exec (.aswap w) s = .next (s.staysAt s w (.again false))))
  )
  ∧ (
  ∀ (s : State) (cl : BitVec 4),
    let a := s.cluster cl.toNat
    (∀ p : Nat, p < 4 → a.holder = none → arrayBusy s cl.toNat = false →
      (requests s (coreAt cl.toNat ((a.last.toNat + 1 + p) % 4)) = true ∧ ∀ q < p, requests s (coreAt cl.toNat ((a.last.toNat + 1 + q) % 4)) = false) →
      ∃ t, exec (.matrixLeaseGrant cl) s = .next t
        ∧ (cl.toNat < s.clusters.size → (t.cluster cl.toNat).holder = some (BitVec.ofNat 2 ((a.last.toNat + 1 + p) % 4)) ∧ (t.cluster cl.toNat).grantTick = s.gtc
          ∧ (t.cluster cl.toNat).cmds = 0)
        ∧ t.cores = s.cores ∧ t.mem = s.mem)
    ∧ (a.holder.isSome = true ∨ arrayBusy s cl.toNat = true → exec (.matrixLeaseGrant cl) s = .next s)
    ∧ (a.holder.isSome = true → (64 ≤ a.cmds ∨ 2048 ≤ s.gtc.toNat - a.grantTick.toNat ∨ (∃ t, a.idle = some t ∧ 32 ≤ s.gtc.toNat - t.toNat)) →
        exec (.matrixLeaseExpiry cl) s = .next (s.setCluster cl.toNat { a with holder := none, idle := none }))
    ∧ (a.cmds < 64 → s.gtc.toNat - a.grantTick.toNat < 2048 → (∀ t, a.idle = some t → s.gtc.toNat - t.toNat < 32) →
        exec (.matrixLeaseExpiry cl) s = .next s)
  )

/-- R145: MSTAT reads the lease: whether the core holds it, the commands started and the cycles since the grant, and the
length of its command queue and whether it requests. -/
def Obligations.ArrayStatus : Prop :=
  ∀ (s : State) (w : Fields), Executes s w →
    let k := s.core s.cur
    let a := s.cluster (clusterOf s.cur)
    let mine := a.holder = some (BitVec.ofNat 2 (positionOf s.cur))
    exec (.mstat w) s = .next (s.doneWith w (·.ws w.d (BitVec.ofNat 64 ((if mine then 1 + a.cmds * 2
          + min 4096 (2 * (s.gtc.toNat - a.grantTick.toNat)) * 256 else 0) + k.mq.length * 2 ^ 21
        + (if k.mq ≠ [] ∨ k.wait = some .lease then 2 ^ 26 else 0)))))

/-- R35, R151: a trap writes TCAUSE, TEPC and TVAL, enters handler mode and goes to TVEC; it leaves memory, the registers
and every other core as they were. A token that the instruction had popped is back, and the place it had reserved is free.
R151: TRAP takes SW_TRAP with its immediate; RTE returns to TEPC in task mode, and outside handler mode is PERM_FAULT.
R185: a deferred trap is taken at an instruction boundary in task mode, with bit 8 of TCAUSE set.
R151: a trap taken with TVEC = 0, or in handler mode, faults the iteration: it leaves its core, and one error record
names the cause.
Which VALUE TVAL holds for a cause the spec leaves open is the model's choice (log entry 16). -/
def Obligations.TrapEntry : Prop :=
  (
  ∀ (s : State) (c : CoreId) (x : Cause) (deferred : Bool) (epc tval : Word),
    let k := s.core c
    let t := s.takeTrap c x deferred epc tval
    let k' := t.core c
    k.handler = false → k.tvec ≠ 0 →
      k'.tcause = BitVec.ofNat 64 (causeCode x + (if deferred then 256 else 0)) ∧ k'.tepc = epc ∧ k'.tval = tval
      ∧ k'.handler = true ∧ k'.pc = k.tvec ∧ k'.s = k.s ∧ k'.p = k.p ∧ k'.h = k.h ∧ k'.status = k.status
      ∧ (∀ q, k'.tokens q = k.tokens q + (if q = k.took ∧ q ≠ 0 then 1 else 0))
      ∧ (∀ q, k'.reserved q = k.reserved q - (if q = k.held ∧ q ≠ 0 then 1 else 0))
      ∧ k'.iter = k.iter ∧ k'.pend = k.pend ∧ k'.wait = none
      ∧ t.mem = s.mem ∧ (∀ c', c' ≠ c → t.core c' = s.core c')
  )
  ∧ (
  ∀ (s : State) (w : Fields), Executes s w →
    let k := s.core s.cur
    exec (.trap w) s = .next (s.takeTrap s.cur .swTrap false k.pc (w.imm.zeroExtend 64))
    ∧ (k.handler = true → exec (.rte w) s = .next (s.doneTo w k.tepc (fun k => { k with handler := false })))
    ∧ (k.handler = false → exec (.rte w) s = .next (s.trapFree s.cur .permFault))
  )
  ∧ (
  ∀ (s : State) (c : CoreId) (d : Deferred) (rest : List Deferred),
    let k := s.core c
    k.deferred = d :: rest → k.iter.isSome = true → k.handler = false → k.wait = none → k.vq = [] → k.tvec ≠ 0 →
      ∃ t, exec (.deferredTrap c) s = .next t ∧ (t.core c).tcause = BitVec.ofNat 64 (causeCode d.cause + 256)
        ∧ (t.core c).tepc = k.pc ∧ (t.core c).tval = d.tval ∧ (t.core c).pc = k.tvec ∧ (t.core c).handler = true
        ∧ (t.core c).deferred = rest ∧ t.mem = s.mem
  )
  ∧ (
  ∀ (s : State) (c : CoreId) (x : Cause) (deferred : Bool) (epc tval : Word), x ≠ .phaseExhausted →
    ((s.core c).handler = true ∨ (s.core c).tvec = 0) →
      s.takeTrap c x deferred epc tval = (s.reportCause c x tval.toNat).endFault c
      ∧ ((s.takeTrap c x deferred epc tval).core c).iter = none
  )

/-- R134, R136, R137: CANCHK reads or takes the cancellation; PHBEGIN opens a phase over two halves of the scratchpad;
PHCOMMIT flips the halves of an unpoisoned phase, retries a poisoned one from its entry, and gives up after two retries. Both
wait until the engine queues are empty. -/
def Obligations.PhasesAndCancellation : Prop :=
  ∀ (s : State) (w : Fields),
    let k := s.core s.cur
    let c := s.cur
    let a := (k.rs w.a).toNat
    let b := (k.rs w.b).toNat
    let cancelled := match k.iter with | some i => i.cancelled | none => false
    let guarded := match k.iter with | some i => i.phase | none => false
    let p := k.phstate
    let active := p.getLsbD 63
    let word (act pois : Nat) (tries sel half base : Nat) : Word :=
      BitVec.ofNat 64 (act * 2 ^ 63 + tries * 2 ^ 61 + pois * 2 ^ 60 + sel * 2 ^ 59 + half * 2 ^ 20 + base)
    let sel := p.toNat / 2 ^ 59 % 2
    let tries := p.toNat / 2 ^ 61 % 4
    let half := p.toNat / 2 ^ 20 % 2 ^ 20
    let base := p.toNat % 2 ^ 20
    let again : Core := Core.reserve { k with
      phstate := word 1 0 (tries + 1) sel half base, tok := Vector.replicate 8 0, rsv := Vector.replicate 8 0, took := 0 } k.held
    (Executes s w [] →
      (w.f = 1 → exec (.canchk w) s = .next (s.doneWith w (·.wp (w.d.truncate 4) (if cancelled then BitVec.allOnes 256 else 0))))
      ∧ (w.f ≠ 1 → cancelled = false → exec (.canchk w) s = .next (s.doneWith w id))
      ∧ (w.f ≠ 1 → cancelled = true → exec (.canchk w) s = .next (s.abandon c)))
    ∧ (Executes s w →
      (guarded = true → active = false → a % 256 = 0 → b % 256 = 0 → 0 < b → a + 2 * b ≤ spadSize k →
        (drained k = true → exec (.phbegin w) s = .next (s.doneWith w (fun k => { k with phstate := word 1 0 0 sel b a, phentry := k.pc + 8 })))
        ∧ (drained k = false → exec (.phbegin w) s = .next (s.staysAt s w (.again false))))
      ∧ ((guarded = false ∨ active = true ∨ a % 256 ≠ 0 ∨ b % 256 ≠ 0 ∨ b = 0 ∨ spadSize k < a + 2 * b) →
        exec (.phbegin w) s = .next (s.trapNow c .illOperand (k.rs w.a)))
      ∧ (active = false → exec (.phcommit w) s = .next (s.trapFree c .illOperand))
      ∧ (active = true → drained k = false → exec (.phcommit w) s = .next (s.staysAt s w (.again false)))
      ∧ (active = true → drained k = true →
        (p.getLsbD 60 = false → exec (.phcommit w) s = .next (s.doneWith w (fun k => { k with phstate := word 0 0 0 (1 - sel) half base })))
        ∧ (p.getLsbD 60 = true → tries = 2 → exec (.phcommit w) s = .next (s.trapFree c .phaseExhausted))
        ∧ (p.getLsbD 60 = true → tries ≠ 2 → (k.phsnap[sel]?).getD none = none →
            exec (.phcommit w) s = .next ((s.bump 5).setCore c (again.finish w k.phentry true)))
        ∧ (∀ o, p.getLsbD 60 = true → tries ≠ 2 → (k.phsnap[sel]?).getD none = some o →
            exec (.phcommit w) s = .next (s.staysAt ((s.bump 5).setCore c { again with
              seq := k.seq + 1, cq := k.cq ++ [{ o with id := k.seq, started := false, popped := true, prog := 0, aux := 0, status := 0 }] }) w
              (.phretry k.seq)))))

/-- R133, R147 to R150, R291, R298: what a task asks of the scheduler, and the code it gets in sD.
R137, R147: END, once everything of the iteration has completed and its fence has retired, empties the token queues and
the staging slots, ends the array lease and retires the iteration; with a phase active it traps. -/
def Obligations.TaskRequests : Prop :=
  (
  ∀ (s : State) (w : Fields), Executes s w →
    let k := s.core s.cur
    let c := s.cur
    let v := k.rs w.a
    let ctx := coreCtx k
    let fenced (n : Nat) : State := s.modCore c (·.retireFence n)
    let gives (r : Out) (t : State) (code : Nat) : Prop := r = .next (s.after w t (·.ws w.d (BitVec.ofNat 64 code)))
    let plain := isCancelled k = false
    -- SPAWN decrements a node's counter
    (plain → v.toNat < 4096 → fenceReady s c 2 k.seq = true →
      (s.node v.toNat = none → gives (exec (.spawn w) s) (fenced 2) 1)
      ∧ (∀ x, s.node v.toNat = some x →
        (x.ctx ≠ ctx → gives (exec (.spawn w) s) (fenced 2) 1)
        ∧ (x.ctx = ctx → x.counter = 0 → gives (exec (.spawn w) s) (fenced 2) 2)
        ∧ (x.ctx = ctx → 1 < x.counter → gives (exec (.spawn w) s)
            ((fenced 2).setNode v.toNat (some { x with counter := x.counter - 1 })).settleSched 0)
        ∧ (x.ctx = ctx → x.counter = 1 → gives (exec (.spawn w) s)
            ((fenced 2).makeReady v.toNat { x with counter := 0 }).settleSched 0)))
    ∧ (plain → 4096 ≤ v.toNat → exec (.spawn w) s = .next (s.trapNow c .illOperand v))
    ∧ (isCancelled k = true → exec (.spawn w) s = .next (s.abandon c))
    -- KILL of a node of the context's range
    ∧ (w.f ≠ 1 → v.toNat < 4096 → let x := s.ctxs[ctx]?.getD Ctx.reset
        (¬ (x.first ≤ v.toNat ∧ v.toNat < x.first + x.count) → gives (exec (.kill w) s) s 1)
        ∧ ((x.first ≤ v.toNat ∧ v.toNat < x.first + x.count) → s.node v.toNat = none → gives (exec (.kill w) s) s 2)
        ∧ ((x.first ≤ v.toNat ∧ v.toNat < x.first + x.count) → (s.node v.toNat).isSome = true →
            ∃ t, exec (.kill w) s = .next t ∧ (t.core c).rs w.d = 0
              ∧ (∀ i, (t.core c).iter = some i → i.node = v.toNat → i.cancelled = true)))
    ∧ (w.f = 1 → v.toNat < 64 →
        (s.ballot v.toNat = none → gives (exec (.kill w) s) s 1)
        ∧ (∀ b, s.ballot v.toNat = some b →
          (b.ctx ≠ ctx → gives (exec (.kill w) s) s 1) ∧ (b.ctx = ctx → b.closed = true → gives (exec (.kill w) s) s 2)
          ∧ (b.ctx = ctx → b.closed = false → ∃ t, exec (.kill w) s = .next t ∧ (t.core c).rs w.d = 0)))
    ∧ ((if w.f = 1 then 64 else 4096) ≤ v.toNat → exec (.kill w) s = .next (s.trapNow c .illOperand v))
    -- BALLOT posts a hash
    ∧ (fenceReady s c 2 k.seq = true →
      (k.iter.bind (·.sib) = none → gives (exec (.ballot w) s) (fenced 2) 3)
      ∧ (∀ g i, k.iter.bind (·.sib) = some (g, i) →
        (s.ballot g = none → gives (exec (.ballot w) s) (fenced 2) 3)
        ∧ (∀ b, s.ballot g = some b →
          (b.closed = true → b.late < 2 ^ 64 - 1 → gives (exec (.ballot w) s) ((fenced 2).setBallot g (some { b with late := b.late + 1 })) 2)
          ∧ (b.closed = false → b.posted.testBit i = true → gives (exec (.ballot w) s) (fenced 2) 4)
          ∧ (b.closed = false → b.posted.testBit i = false →
            let b' : Ballot := { b with posted := b.posted ||| 2 ^ i, fin := b.fin ||| 2 ^ i, hash := setNth b.hash i v, pgtc := setNth b.pgtc i s.gtc }
            (b.quorum ≤ b'.count v → gives (exec (.ballot w) s) ((fenced 2).closeBallot g b' (some (b'.firstOf v)) true).settleSched 1)
            ∧ (b'.count v < b.quorum → b'.fin % 2 ^ b.size ≠ 2 ^ b.size - 1 → gives (exec (.ballot w) s) ((fenced 2).setBallot g (some b')) 0)
            ∧ (b'.count v < b.quorum → b'.fin % 2 ^ b.size = 2 ^ b.size - 1 →
                gives (exec (.ballot w) s) ((fenced 2).closeBallot g b' b'.leader false).settleSched 0)))))
    -- YIELD without a request goes on
    ∧ (plain → settled k = true → k.migReq = false → k.preReq = none → exec (.yield w) s = .next (s.doneWith w id))
    ∧ (settled k = false → exec (.yield w) s = .next s)
  )
  ∧ (
  ∀ (s : State) (w : Fields), Executes s w →
    let k := s.core s.cur
    (isCancelled k = false → k.phstate.getLsbD 63 = true → exec (.endIter w) s = .next (s.trapFree s.cur .illOperand))
    ∧ (isCancelled k = true → exec (.endIter w) s = .next (s.abandon s.cur))
    ∧ (isCancelled k = false → k.phstate.getLsbD 63 = false → settled k = true → trapWaits k = false → fenceReady s s.cur 4 k.seq = true →
      ∃ t, exec (.endIter w) s = .next t
        ∧ (k.iter.isSome = true → (t.core s.cur).iter = none ∧ (t.core s.cur).handler = false)
        ∧ (t.core s.cur).tok = Vector.replicate 8 0 ∧ (t.core s.cur).slots = Vector.replicate 10 Slot.reset
        ∧ (t.cluster (clusterOf s.cur)).holder ≠ some (BitVec.ofNat 2 (positionOf s.cur)))
  )

/-- R218 to R224, R231: a reference instruction on an object that is present. HLD and HST send their bytes at the object's
place; REFLD sends its load and waits for the value; REFST stores a reference, a pinned one as a strong one.
R222: REFLD that has its value v, read at l: a value that names no forwarder is written to hD; one that names a forwarder
gives the reference of its target, and the healing form sends the exchange that stores it. A pinned reference traps.
R224, R240: REFPIN counts a pin of a present object and gives its IA; REFUNPIN takes the pin away, and frees a segment
that its slot has released with its last pin. -/
def Obligations.HeapAccesses : Prop :=
  (
  ∀ (s : State) (w : Fields),
    let k := s.core s.cur
    let c := s.cur
    let ref := k.rh (w.a.truncate 4)
    let off (r : Word) : Nat := (BitVec.ofNat 64 (r.toNat % 2 ^ 20) + k.rs w.b + w.imm.signExtend 64).toNat
    let obj (r : Word) : Obj := s.obj (objKey (coreCtx k) (r.toNat / 2 ^ 20 % 2 ^ 40))
    let strong (r : Word) : Prop := r.toNat / 2 ^ 60 = 8 ∧ 0 < r.toNat / 2 ^ 20 % 2 ^ 40 ∧ r.toNat / 2 ^ 20 % 2 ^ 40 < otLimit s (coreCtx k)
    let parts (r : Word) (n : Nat) : List Part :=
      if off r % n = 0 then [⟨0, .ia ((obj r).base * 512 + off r), n, 4, 2⟩]
      else (List.range n).map (fun i => ⟨i, .ia ((obj r).base * 512 + off r + i), 1, 4, 2⟩)
    let n := sizeBytes (fLo w)
    let roomy := k.stamps.length < 64 ∧ k.sidelog.length < 32
    let trapsTo (r : Out) (x : Cause) (v : Word) : Prop := r = .next (s.trapNow c x v)
    (Executes s w [w.d, w.b] →
      (strong ref → (obj ref).st = .present →
        (off ref + n ≤ 512 * (obj ref).size →
          exec (.hld w) s = .next (s.sentWith w {} (.sreg w.d (fLo w)) (List.replicate n 0) ((parts ref n).map (fun p => (p, .load))))
          ∧ ((obj ref).arena = false → roomy → exec (.hst w) s = .next (s.sentWith w {} .none []
              ((parts ref n).map (fun p => (p, .store (((leBytes n (k.rs w.d).toNat).drop p.pos).take p.len))))))
          ∧ ((obj ref).arena = true → (s.slot (obj ref).owner).st ≠ .prompt → trapsTo (exec (.hst w) s) .slotState ref))
        ∧ (512 * (obj ref).size < off ref + n → trapsTo (exec (.hld w) s) .rangeFault ref ∧ trapsTo (exec (.hst w) s) .rangeFault ref))
      ∧ (ref.toNat / 2 ^ 60 = 0 → trapsTo (exec (.hld w) s) .refNull ref ∧ trapsTo (exec (.hst w) s) .refNull ref)
      ∧ ((ref.toNat / 2 ^ 60 ≠ 0 ∧ ref.toNat / 2 ^ 60 ≠ 8 ∧ ref.toNat / 2 ^ 60 ≠ 9) →
          trapsTo (exec (.hld w) s) .refTag ref ∧ trapsTo (exec (.hst w) s) .refTag ref)
      ∧ (∀ key, barrier s (coreCtx k) ref (heapOfs k w ref) n 1 false = .ok key → heapBytes s key (heapOfs k w ref) n = none →
          exec (.hld w) s = .next (s.staysAt s w (.again true))))
    ∧ (Executes s w [w.b] → strong ref → (obj ref).st = .present → (obj ref).arena = false → roomy →
      off ref + 8 ≤ 512 * (obj ref).size → off ref % 8 = 0 → exec (.refst w) s = .next (s.sentWith w {} .none []
          [(⟨0, .ia ((obj ref).base * 512 + off ref), 8, 4, 2⟩, .store (leBytes 8 (let v := k.rh (w.d.truncate 4)
            if v.toNat / 2 ^ 60 = 9 then v.toNat - 2 ^ 60 else v.toNat)))]))
    ∧ (let r : Word := if ref = 0 then 0x8000000000100000#64 else ref
      Executes s w → strong r → (obj r).st = .present → off r + 8 ≤ 512 * (obj r).size → off r % 8 = 0 →
      exec (.refld w) s = .next (s.sentAndHeld w {} (.ref (.ia ((obj r).base * 512 + off r))) (List.replicate 8 0)
        [(⟨0, .ia ((obj r).base * 512 + off r), 8, 4, 2⟩, .load)]))
  )
  ∧ (
  ∀ (s : State) (w : Fields) (v : Word) (l : Loc), (s.core s.cur).wait = some (.refDone v l) →
    let k := s.core s.cur
    let e := s.obj (objKey (coreCtx k) (v.toNat / 2 ^ 20 % 2 ^ 40))
    let good := v.toNat / 2 ^ 60 = 8 ∧ 0 < v.toNat / 2 ^ 20 % 2 ^ 40 ∧ v.toNat / 2 ^ 20 % 2 ^ 40 < otLimit s (coreCtx k)
    let target : Word := BitVec.ofNat 64 (8 * 2 ^ 60 + e.target * 2 ^ 20 + v.toNat % 2 ^ 20)
    let ends (s : State) (v : Word) : Out := .next (s.modCore s.cur (fun k => (k.wh (w.d.truncate 4) v).finishHeld w (k.pc + 8)))
    ((v = 0 ∨ (good ∧ e.st ≠ .forwarded)) → exec (.refld w) s = ends s v)
    ∧ (good → e.st = .forwarded → w.f = 0 → exec (.refld w) s = ends s target)
    ∧ (good → e.st = .forwarded → w.f ≠ 0 → k.stamps.length < 64 → k.sidelog.length < 32 →
        exec (.refld w) s = ends (s.issueAccess s.cur { strong := true } k.pc .none 0 []
          [(⟨0, l, 8, 4, 2⟩, .rmw 9 8 v target false)]) target)
    ∧ (v.toNat / 2 ^ 60 = 9 → exec (.refld w) s = .next (s.trapNow s.cur .refTag v))
  )
  ∧ (
  ∀ (s : State) (w : Fields), Executes s w →
    let k := s.core s.cur
    let c := s.cur
    let ref := k.rh (w.a.truncate 4)
    let id := ref.toNat / 2 ^ 20 % 2 ^ 40
    let o := ref.toNat % 2 ^ 20
    let key := objKey (coreCtx k) id
    let e := s.obj key
    (ref.toNat / 2 ^ 60 = 8 → 0 < id → id < otLimit s (coreCtx k) → e.st = .present → o < 512 * e.size → e.arena = false →
      (e.pin < 65535 → exec (.refpin w) s = .next (s.after w (s.setObj key { e with pin := e.pin + 1 })
          (fun k => (k.wh (w.a.truncate 4) (BitVec.ofNat 64 (9 * 2 ^ 60 + id * 2 ^ 20 + o))).ws w.d (BitVec.ofNat 64 (e.base * 512 + o)))))
      ∧ (e.pin = 65535 → exec (.refpin w) s = .next (s.trapNow c .illOperand ref)))
    ∧ (ref.toNat / 2 ^ 60 = 9 → 0 < e.pin →
      let f (k : Core) : Core := k.wh (w.a.truncate 4) (ref - 0x1000000000000000#64)
      ((1 < e.pin ∨ e.arena = false ∨ 0 < e.rc ∨ e.st = .forwarded) →
          exec (.refunpin w) s = .next (s.after w (s.setObj key { e with pin := e.pin - 1 }) f))
      ∧ (e.pin = 1 → e.arena = true → e.rc = 0 → e.st ≠ .forwarded → exec (.refunpin w) s = .next (s.after w (s.clearObj key) f)))
    ∧ ((ref.toNat / 2 ^ 60 ≠ 9 ∨ e.pin = 0) → exec (.refunpin w) s = .next (s.trapNow c .illOperand ref))
  )

/-- R232 to R234: KVAG makes the generator of a slot's layer, head group and half; KVADDR makes the reference of a
position from it. -/
def Obligations.Generators : Prop :=
  ∀ (s : State) (w : Fields), Executes s w →
    let k := s.core s.cur
    let a := (k.rs w.a).toNat
    let b := (k.rs w.b).toNat
    let d := s.slot a
    let layer := b / 2 ^ 8 % 4096
    let hg := b / 2 ^ 20 % 256
    let nseg := 32 * 8 ^ d.bkt
    (∀ i : Fin 8, w.d.toNat = i.val → a < 1024 → b < 2 ^ 28 → b / 2 % 128 = 0 → d.st ≠ .free → d.ctx = coreCtx k → layer ≤ d.nlm1 → hg ≤ d.nhgm1 →
      exec (.kvag w) s = .next (s.doneWith w (fun k => { k with kvgen := k.kvgen.set i (BitVec.ofNat 64 (2 ^ 63 + b % 2 * 2 ^ 62 + d.bkt * 2 ^ 60
        + a * 2 ^ 50 + d.dw * 2 ^ 45 + (d.idbase + ((layer * (d.nhgm1 + 1) + hg) * 2 + b % 2) * nseg) % 2 ^ 40)) })))
    ∧ (a < 1024 → b < 2 ^ 28 → b / 2 % 128 = 0 → (d.st = .free ∨ d.ctx ≠ coreCtx k) → exec (.kvag w) s = .next (s.trapNow s.cur .slotState (k.rs w.a)))
    ∧ (1024 ≤ a → exec (.kvag w) s = .next (s.trapNow s.cur .illOperand (k.rs w.a)))
    ∧ (∀ i : Fin 8, w.b.toNat = i.val →
        let g := k.kvgen[i]
        let bkt := g.toNat / 2 ^ 60 % 4
        let dw := g.toNat / 2 ^ 45 % 32
        (g.getLsbD 63 = false → exec (.kvaddr w) s = .next (s.trapNow s.cur .illOperand g))
        ∧ (g.getLsbD 63 = true → 64 * (32 * 8 ^ bkt) ≤ a → exec (.kvaddr w) s = .next (s.trapNow s.cur .rangeFault (k.rs w.a)))
        ∧ (g.getLsbD 63 = true → a < 64 * (32 * 8 ^ bkt) → exec (.kvaddr w) s = .next (s.doneWith w (·.ws w.d (BitVec.ofNat 64
            (8 * 2 ^ 60 + (g.toNat + a / 64) % 2 ^ 40 * 2 ^ 20 + a % 64 * (if g.getLsbD 62 then 64 * dw else 1)))))))

/-- R157, R159, R160, R162, R164, R165, R170, R181: the instructions that compute each lane by itself. Every lane that the
guard admits takes its result; the others keep their value.
R162, R163, R171: VCMP writes a predicate lane by lane under its guard; VEXT and VINS move one lane; an index beyond the
last lane is ILL_OPERAND, a precise trap at the instruction. -/
def Obligations.LaneResults : Prop :=
  (
  ∀ (s : State) (w : Fields),
    let k := s.core s.cur
    let et := immEt w
    let f := fLo w
    let rm := rmV k w
    let a (j : Nat) : Nat := laneAt s w.a et j
    let b (j : Nat) : Nat := laneAt s w.b et j
    let d (j : Nat) : Nat := laneAt s w.d et j
    let gives (i : Instr) (g : Nat → Nat) : Prop := VStarts s i w → exec i s = .next (s.vEnds w true (s.lanesTo w et g))
    let m := 2 ^ (8 * etWidth et)
    gives (.vadd w) (fun j => laneAdd et f rm false (a j) (b j)) ∧ gives (.vsub w) (fun j => laneAdd et f rm true (a j) (b j))
    ∧ gives (.vmul w) (fun j => laneMul et f rm (a j) (b j)) ∧ gives (.vfma w) (fun j => laneFma et f rm (a j) (b j) (d j))
    ∧ gives (.vmin w) (fun j => laneMinMax et f false (a j) (b j)) ∧ gives (.vmax w) (fun j => laneMinMax et f true (a j) (b j))
    ∧ gives (.vun w) (fun j => laneUn et f rm (a j)) ∧ gives (.vlog w) (fun j => laneLog et f (a j) (b j))
    ∧ gives (.vsh w) (fun j => laneShift et f (a j) (if 4 ≤ f then w.imm.toNat % 64 else b j))
    ∧ gives (.vsel w) (fun j => if (k.rp (BitVec.ofNat 4 w.imm.toNat)).getLsbD (j * etWidth et) then a j else b j)
    ∧ gives (.vbcast w) (fun _ => if f = 0 then (k.rs w.a).toNat % m else a (w.imm.toNat % 256))
    ∧ gives (.viota w) (fun j => intLane et (toS 16 (w.imm.toNat % 65536) + j * (k.rs w.a).toInt))
    ∧ gives (.vrand w) (fun j => randLane et f (draw (k.rs w.b) (k.rs w.a + BitVec.ofNat 64 j)))
  )
  ∧ (
  ∀ (s : State) (w : Fields),
    let k := s.core s.cur
    let et := immEt w
    let wd := etWidth et
    let p := k.rp (w.d.truncate 4)
    let i := if fLo w = 0 then w.imm.toNat % 256 else (k.rs w.b).toNat
    let ends (i : Instr) (t : State) : Prop := exec i s = .next (s.vEnds w true t)
    let traps (i : Instr) : Prop := k.handler = false → k.tvec ≠ 0 → ∃ t, exec i s = .next t
      ∧ (t.core s.cur).tcause = 3 ∧ (t.core s.cur).tepc = k.pc ∧ (t.core s.cur).tval = k.rs w.b ∧ (t.core s.cur).pc = k.tvec
      ∧ (t.core s.cur).handler = true ∧ (t.core s.cur).s = k.s ∧ (t.core s.cur).p = k.p ∧ (t.core s.cur).vq = [] ∧ t.mem = s.mem
    (VStarts s (.vcmp w) w → ends (.vcmp w) (s.setCore s.cur (k.wp (w.d.truncate 4) (putPred p wd (laneOn k w wd)
      ((List.range (lanes et)).map (fun j => laneCmp et (fLo w) (laneAt s w.a et j) (laneAt s w.b et j)))))))
    ∧ (VStarts s (.vext w) w → ((fLo w = 0 ∨ i < lanes et) →
        (laneOn k w wd i = true → ends (.vext w) (s.setCore s.cur
          (k.ws w.d (if et < 4 then BitVec.ofInt 64 (toS (8 * wd) (laneAt s w.a et i)) else BitVec.ofNat 64 (laneAt s w.a et i)))))
        ∧ (laneOn k w wd i = false → ends (.vext w) s))
      ∧ (fLo w ≠ 0 → lanes et ≤ i → traps (.vext w)))
    ∧ (VStarts s (.vins w) w → ((fLo w = 0 ∨ i < lanes et) →
        (laneOn k w wd i = true → ends (.vins w)
          (s.writeV s.cur w.d (bytesOf wd (setNth (vLanes s s.cur w.d wd) i ((k.rs w.a).toNat % 2 ^ (8 * wd))))))
        ∧ (laneOn k w wd i = false → ends (.vins w) s))
      ∧ (fLo w ≠ 0 → lanes et ≤ i → traps (.vins w)))
  )

/-- R166 to R169: conversions, reductions, scans and permutations. -/
def Obligations.CrossLaneResults : Prop :=
  ∀ (s : State) (w : Fields),
    let k := s.core s.cur
    let et := immEt w
    let wd := etWidth et
    let f := fLo w
    let n := lanes et
    let a (j : Nat) : Nat := laneAt s w.a et j
    let b (j : Nat) : Nat := laneAt s w.b et j
    let src := w.imm.toNat % 16
    let op := redOp et f (rmV k w)
    let canon (v : Nat) : Nat := if isI et = true ∨ fIsNan (fDec (fmtOf et) v) = false then v else fEnc (fmtOf et) .rne (fDec (fmtOf et) v)
    let srcs := (List.range n).map (fun j => if laneOn k w wd j then a j else redIdent et f)
    let ends (i : Instr) (t : State) : Prop := VStarts s i w → exec i s = .next (s.vEnds w true t)
    ends (.vcvt w) (s.putLanes s.cur w.d wd (laneOn k w wd)
      ((matchLanes (etWidth src) wd (w.imm.toNat / 16 % 16)).foldl (fun l m =>
        setNth l m.2 (convertLane src et (f == 1) (rmV k w) (laneAt s w.a src m.1))) (vLanes s s.cur w.d wd)))
    ∧ ends (.vred w) (s.writeV s.cur w.d (bytesOf wd (redTree op 8 srcs :: List.replicate (n - 1) 0)))
    ∧ (w.imm.toNat % 2 = 0 → ends (.vscan w) (s.writeV s.cur w.d (bytesOf wd ((scanGo op 8 1 srcs).map canon))))
    ∧ (w.imm.toNat % 2 = 1 → ends (.vscan w) (s.writeV s.cur w.d (bytesOf wd ((redIdent et f :: (scanGo op 8 1 srcs).take (n - 1)).map canon))))
    ∧ (f = 0 → ends (.vperm w) (s.lanesTo w et (fun j => if b j < n then a (b j) else 0)))
    ∧ (f = 1 → ends (.vperm w) (s.lanesTo w et (fun j => a (n - 1 - j))))
    ∧ (f = 2 → ends (.vperm w) (s.lanesTo w et (fun j => a ((j + (k.rs w.b).toNat) % n))))
    ∧ (f = 3 → ends (.vperm w) (s.lanesTo w et (fun j => if j % 2 = 0 then a (j / 2) else b (j / 2))))
    ∧ (f = 4 → ends (.vperm w) (s.lanesTo w et (fun j => if j < n / 2 then a (2 * j) else b (2 * j - n))))
    ∧ (f = 5 → ends (.vperm w) (s.lanesTo w et (fun j => if j < n / 2 then a (2 * j + 1) else b (2 * j - n + 1))))
    ∧ (f = 0 → ends (.vpm w) (s.lanesTo w et (fun j => if (k.rp (w.a.truncate 4)).getLsbD (j * wd) then 2 ^ (8 * wd) - 1 else 0)))
    ∧ (f = 1 → ends (.vpm w) (s.setCore s.cur (k.wp (w.d.truncate 4) (putPred (k.rp (w.d.truncate 4)) wd (laneOn k w wd)
        ((vLanes s s.cur w.a wd).map (· != 0))))))
    ∧ (let sel := (List.range n).filter (fun j => (k.rp (w.b.truncate 4)).getLsbD (j * wd))
       (f = 2 → ends (.vpm w) (s.lanesTo w et (fun j => (sel.map a).getD j 0)))
       ∧ (f = 3 → ends (.vpm w) (s.lanesTo w et (fun j => if (k.rp (w.b.truncate 4)).getLsbD (j * wd)
          then a ((List.range j).countP (fun i => (k.rp (w.b.truncate 4)).getLsbD (i * wd))) else 0))))
    ∧ (f = 4 → ends (.vpm w) (s.lanesTo w et (fun j => if j = 0 then (List.range n).countP (fun i => (k.rp (w.a.truncate 4)).getLsbD (i * wd)) else 0)))

/-- R176, R177, R179, R180: records, logarithms, dot products and the k best lanes. -/
def Obligations.RecordsAndDotProducts : Prop :=
  ∀ (s : State) (w : Fields),
    let k := s.core s.cur
    let et := immEt w
    let wd := etWidth et
    let t := fmtOf et
    let fmt := w.imm.toNat % 8
    let n := w.imm.toNat / 16 % 4 + 1
    let cpos := w.imm.toNat / 64 % 4
    let o := w.imm.toNat / 256 % 256
    let on0 := !w.en || ((k.rp w.gp).getLsbD 0 != w.gs)
    let odd := o % 2 = 1 ∧ (fmt = 1 ∨ fmt = 4)
    let ends (i : Instr) (t : State) : Prop := VStarts s i w → exec i s = .next (s.vEnds w true t)
    let recs := (List.range n).map (fun r => ((readV s s.cur w.a).drop (o + r * recSize fmt)).take (recSize fmt))
    let e := w.imm.toNat % 256
    let part := w.imm.toNat / 256 % 16
    (on0 = false → ends (.vqnt w) s ∧ ends (.vdqnt w) s)
    ∧ (on0 = true → ¬ odd →
      ends (.vqnt w) (s.writeV s.cur w.d ((List.range n).foldl (fun d r => patch d (o + r * recSize fmt)
        (quantRecord ((((vLanes s s.cur w.a wd).map (fDec t)).drop (32 * (cpos + r))).take 32) fmt)) (readV s s.cur w.d)))
      ∧ ((∀ r ∈ recs, recBad fmt r = false) → ends (.vdqnt w) (s.writeV s.cur w.d (patch (readV s s.cur w.d) (32 * cpos * wd)
          (bytesOf wd (recs.flatMap (fun r => (List.range 32).map (fun i => fEnc t .rne (recVal fmt r i)))))))))
    ∧ (fLo w = 0 → ends (.vlogc w) (s.writeV s.cur w.d (bytesOf 2 ((matchLanes wd 2 part).foldl (fun l m =>
        if laneOn k w wd m.1 then setNth l m.2 (l16Of (fDec t (laneAt s w.a et m.1)) e) else l) (vLanes s s.cur w.d 2)))))
    ∧ (fLo w ≠ 0 → ends (.vlogc w) (s.writeV s.cur w.d (bytesOf wd ((matchLanes 2 wd part).foldl (fun l m =>
        if laneOn k w wd m.2 then setNth l m.2 (fEnc t .rne (l16Val ((vLanes s s.cur w.a 2).getD m.1 0) e)) else l) (vLanes s s.cur w.d wd)))))
    ∧ (fLo w ≤ 2 → let src := match fLo w with | 0 => 0 | 1 => 4 | _ => 1
        ends (.vdot w) (s.lanesTo w et (fun j => dotInt et src 4 (vLanes s s.cur w.a (etWidth src)) (vLanes s s.cur w.b (etWidth src)) (laneAt s w.d et j) j)))
    ∧ (2 < fLo w → let src := if fLo w = 3 then 9 else 8
        ends (.vdot w) (s.lanesTo w et (fun j => dotF (fmtOf src) (rmV k w) (vLanes s s.cur w.a 2) (vLanes s s.cur w.b 2) (laneAt s w.d et j) j)))
    ∧ (let cands := ((List.range (lanes et)).filter (fun j => laneOn k w wd j && !(!isI et && fIsNan (fDec t (laneAt s w.a et j))))).map (fun j =>
          (⟨laneAt s w.a et j, ((k.rs w.b).toNat + j) % 2 ^ 32, false⟩ : Cand))
        let idx (i : Nat) : Nat := (vLanes s s.cur (w.d + 1) 4).getD i 0
        let olds := if fLo w = 0 then [] else ((List.range e).filter (fun i => idx i != 2 ^ 32 - 1)).map (fun i => (⟨laneAt s w.d et i, idx i, true⟩ : Cand))
        let top := ((cands ++ olds).foldl (fun l x => candInsert et x l) []).take e
        let low := if isI et then intLane et (typeMin et) else fInfBits t true
        ends (.vtopk w) ((s.writeV s.cur w.d (bytesOf wd ((List.range (lanes et)).map (fun j => match top[j]? with | some x => x.v | none => low)))).writeV
          s.cur (w.d + 1) (bytesOf 4 ((List.range 64).map (fun j => match top[j]? with | some x => x.i | none => 2 ^ 32 - 1)))))

/-- R172 to R174: vector loads and stores send the bytes of the lanes that the guard admits; a full/empty vector keeps its
place at the head of V's queue until its access is performed, and ends at once when its guard selects no word.
R25: the first eight landing-buffer entries may land; the entry's bytes are written where its mask has them, nothing
else of memory changes, and the push of the instruction is made. -/
def Obligations.VectorMemory : Prop :=
  (
  ∀ (s : State) (w : Fields) (l : Loc) (cls gr : Nat),
    let k := s.core s.cur
    let c := s.cur
    let ea := k.rs w.a + w.imm.signExtend 64
    let off := k.vview.toNat + 256 * w.d.toNat
    let mask (n : Nat) : List Bool := (List.range 256).map (fun i => laneOn k w n (i / n))
    let sel (n : Nat) : List Nat := (List.range 256).filter (fun i => laneOn k w n (i / n))
    let bytes : List AtByte := (sel 1).map (fun i => ⟨i, l.plus i, cls, gr⟩)
    let roomy := k.stamps.length < 64 ∧ k.sidelog.length < 32
    let issued (t : State) (at_ : Attr) (dest : Dest) (buf : List Byte) (parts : List (Part × AccOp)) : State :=
      s.vEnds w false (t.issueAccess c at_ k.pc dest w.push buf parts)
    let sends (i : Instr) (dest : Dest) (buf : List Byte) (parts : List (Part × AccOp)) : Prop :=
      VStarts s i w → exec i s = .next (issued s { eng := .v } dest buf parts)
    let n := 2 ^ (fLo w % 4)
    let lanesOn := (List.range (256 / n)).filter (fun j => laneOn k w n j)
    let at_ (j : Nat) : Word := ea + BitVec.ofInt 64 (toS (8 * n) ((vLanes s c w.b n).getD j 0) * n)
    let zeros : List Byte := List.replicate 256 0
    (fHi w < 4 → (∀ i ∈ sel 1, byteAt s k (fHi w) ea i .r false = .ok (l.plus i) cls gr) →
      sends (.vld w) (.region off (mask 1)) zeros ((vectorParts ea bytes).map (fun p => (p, .load))))
    ∧ (∀ buf parts used beyond, fHi w = 4 → ea.toNat < 2 ^ 23 → VStarts s (.vld w) w →
      windowPlan s c (ea.toNat / 2 ^ 20 % 8) (ea.toNat % 2 ^ 20) 256 (sel 1) = .ok buf parts used beyond →
      exec (.vld w) s = .next (let t := s.setCore c (k.touchLines used)
        issued (if beyond then t.raisePwoob c 7 0 k.pc.toNat else t) { eng := .v } (.region off (mask 1)) buf parts))
    ∧ ((∀ i ∈ sel 1, byteAt s k (fHi w) ea i .w false = .ok (l.plus i) cls gr ∧ sealedByte s (l.plus i) = false) → roomy →
      sends (.vst w) .none [] ((vectorParts ea bytes).map (fun p =>
        let d := ((readV s c w.d).drop p.pos).take p.len
        let m := ((mask 1).drop p.pos).take p.len
        (p, if m.all id then .store d else .storeM d m))))
    ∧ (∀ (place : Nat → Loc),
      (fHi w < 4 → (∀ j ∈ lanesOn, (at_ j).toNat % n = 0 ∧ Reaches s (fHi w) (at_ j) n .r (place j) cls gr) →
        sends (.vldg w) (.region off (mask n)) zeros (lanesOn.map (fun j => (⟨n * j, place j, n, cls, gr⟩, .load))))
      ∧ (roomy → (∀ j ∈ lanesOn, (at_ j).toNat % n = 0 ∧ Reaches s (fHi w) (at_ j) n .w (place j) cls gr ∧ Unsealed s (place j) n) →
        sends (.vsts w) .none []
          (lanesOn.map (fun j => (⟨0, place j, n, cls, gr⟩, .store (leBytes n ((vLanes s c w.d n).getD j 0)))))))
    ∧ (wordMask k w = 0 → sends (.vldf w) (.region off (mask 8)) zeros [] ∧ sends (.vste w) .none [] [])
    ∧ (∀ o t, wordMask k w ≠ 0 → l = .spad t o → ea.toNat % 8 = 0 →
      checkAccess s c (fHi w) ea (List.range 256) .r ≠ .bad .rangeFault →
      let waits (i : Instr) (dest : Dest) (buf : List Byte) (op : AccOp) : Prop := VStarts s i w →
        ∃ e : VEntry, e.pc = k.pc ∧ e.fe = some k.seq ∧ e.popped = true ∧ exec i s = .next
          ((issued s { eng := .v, strong := true, acq := true } dest buf [(⟨0, l, 256, cls, gr⟩, op)]).modCore c
            (fun k => { k with vq := [e] }))
      ((∀ i ∈ sel 8, byteAt s k (fHi w) ea i .r false = .ok (l.plus i) cls gr) →
        waits (.vldf w) (.region off (mask 8)) zeros (.vldf (wordMask k w) (fLo w == 1)))
      ∧ ((∀ i ∈ sel 8, byteAt s k (fHi w) ea i .w false = .ok (l.plus i) cls gr) → roomy →
        waits (.vste w) .none [] (.vste (wordMask k w) (readV s c w.d))))
  )
  ∧ (
  ∀ (s : State) (c : CoreId) (i : Nat) (l : Land), i < 8 → (s.core c).landing[i]? = some l → (l.vec = true ∨ l.more = false) → memWf s.mem = true →
    ∃ t, exec (.landing c i) s = .next t
      ∧ (t.core c).landing = delNth (s.core c).landing i
      ∧ (∀ j, j < l.data.length → j < l.mask.length → memGet t.mem (regionKey c l.off + j)
          = if l.mask.getD j false then l.data.getD j 0 else memGet s.mem (regionKey c l.off + j))
      ∧ (∀ a, (a < regionKey c l.off ∨ regionKey c l.off + l.data.length ≤ a) → memGet t.mem a = memGet s.mem a)
      ∧ (l.push ≠ 0 → (t.core c).tokens l.push = (s.core c).tokens l.push + 1)
      ∧ (t.core c).s = (s.core c).s ∧ (t.core c).p = (s.core c).p ∧ (t.core c).pc = (s.core c).pc
  )

/-- R159, R164, R165: what integer lanes compute, on lanes of n bits: sums, differences and products modulo 2^n or clamped,
logic bit by bit, and shifts whose count may reach the width. -/
def Obligations.IntegerLanes : Prop :=
  ∀ (et x y c : Nat) (rm : Rm), et < 8 →
    let n := 8 * etWidth et
    let v (x : Nat) : Int := if et < 4 then toS n x else (x : Int)
    let lo : Int := if et < 4 then -(2 ^ (n - 1)) else 0
    let hi : Int := if et < 4 then 2 ^ (n - 1) - 1 else 2 ^ n - 1
    x < 2 ^ n → y < 2 ^ n →
      laneAdd et 0 rm false x y = (x + y) % 2 ^ n ∧ laneAdd et 0 rm true x y = (x + (2 ^ n - y)) % 2 ^ n
      ∧ laneMul et 0 rm x y = x * y % 2 ^ n
      ∧ v (laneAdd et 1 rm false x y) = max lo (min hi (v x + v y)) ∧ v (laneAdd et 1 rm true x y) = max lo (min hi (v x - v y))
      ∧ v (laneMul et 1 rm x y) = max lo (min hi (v x * v y))
      ∧ laneMinMax et 0 false x y = (if v x < v y then x else y) ∧ laneMinMax et 0 true x y = (if v x < v y then y else x)
      ∧ laneCmp et 2 x y = decide (v x < v y) ∧ laneCmp et 0 x y = decide (x = y)
      ∧ (n ≤ c → laneShift et 0 x c = 0 ∧ laneShift et 1 x c = 0)
      ∧ (c < n → laneShift et 0 x c = x * 2 ^ c % 2 ^ n ∧ laneShift et 1 x c = x / 2 ^ c)
      ∧ laneShift et 3 x c = (x * 2 ^ (c % n) + x / 2 ^ (n - c % n)) % 2 ^ n

/-- R11, R22, R157: a vector write leaves every lane that its guard excludes, every byte outside its register and every
other register of every core as they were, and each lane it admits reads back. -/
def Obligations.VectorWrite : Prop :=
  ∀ (s : State) (c : CoreId) (r : BitVec 6) (w : Nat) (on : Nat → Bool) (new : List Nat), memWf s.mem = true →
    w ∈ [1, 2, 4, 8] → (∀ x ∈ new, x < 2 ^ (8 * w)) →
    let t := s.putLanes c r w on new
    let base := vKey s c r
    (∀ j, j < 256 / w → (vLanes t c r w).getD j 0 = if on j then new.getD j 0 else (vLanes s c r w).getD j 0)
    ∧ (∀ a, (a < base ∨ base + 256 ≤ a) → memGet t.mem a = memGet s.mem a)
    ∧ t.cores = s.cores ∧ memWf t.mem = true

/-- R100 to R106, R111, R182: a patch word amends a field of the template in its engine's staging slot, or of the template
store when the slot holds another. Without GO the slot keeps it; with GO the operation is checked and its snapshot joins
the queue of its engine. GO waits for no register but those the template names (R112). -/
def Obligations.PatchWords : Prop :=
  ∀ (s : State) (p : PatchWord),
    let c := s.cur
    let k := s.core c
    let eng := p.eng.toNat
    let slot := k.slots[(if k.handler then 5 else 0) + eng]?.getD Slot.reset
    let base := if slot.isOpen ∧ slot.tix = p.tix then slot.bits else (tabGet k.tmpl (64 * eng + p.tix.toNat)).getD 0
    let b := if p.fsel = 0 then base else amend base eng p.fsel.toNat p.val.toNat
    let traps (x : Cause) : Prop := execPatchWord p s = .next (s.trapFree c x)
    exec (.patchWord p) s = execPatchWord p s ∧
    (k.vq = [] → (p.go = true → eng < 5 → isBusy k (goRegs eng b) = false) →
      (5 ≤ eng → traps .illOp)
      ∧ (eng < 5 → patchOk p = false → traps .illField)
      ∧ (eng < 5 → patchOk p = true → p.go = false →
          execPatchWord p s = .next (s.setCore c { (k.setSlot eng { isOpen := true, tix := p.tix, bits := b }) with pc := k.pc + 4, wait := none }))
      ∧ (eng < 5 → patchOk p = true → p.go = true →
        (opkOk eng (opk b) = false → traps .engineFault)
        ∧ (opkOk eng (opk b) = true → headerOk b = false → traps .illField)
        ∧ (opkOk eng (opk b) = true → headerOk b = true → eng ≠ 0 → queueRoom k eng = true →
          ∃ t o, execPatchWord p s = .next t
            ∧ (t.core c).queueOf (engOfCode eng) = (if eng = 3 ∧ opk b = 5 ∧ o.live = true
                then k.gq.map (fun o => if opk o.bits = 3 then { o with stop := true } else o) else k.queueOf (engOfCode eng)) ++ [o]
            ∧ o.bits = b ∧ o.tix = p.tix ∧ o.id = k.seq ∧ o.pc = k.pc ∧ o.ae = k.ae ∧ o.fmode = k.fmode ∧ o.lantern = k.lantern
            ∧ o.started = false ∧ o.popped = false ∧ o.live = (!hEn b || ((k.rp (hGp b)).getLsbD 0 != hGs b))
            ∧ o.regs = (regFields eng).map (fun f => (f, k.rs (BitVec.ofNat 6 (fieldOf b eng f))))
            ∧ (t.core c).pc = k.pc + 4 ∧ (t.core c).slots[(if k.handler then 5 else 0) + eng]? = some Slot.reset
            ∧ (t.core c).s = k.s ∧ (t.core c).tmpl = k.tmpl ∧ t.mem = s.mem)))

/-- R190, R191, R196: a step of MMAC adds one group of products to every element of the result in the working bank, and
writes nothing else of memory; after the last group the lantern's element is compared.
R192 to R194, R197: MZERO clears its part of the working bank; MHASH stores the hash of it and compares it when asked;
MKAT compares the hash of a product of generated operands.
The recomputation of the lantern is the model's reading (log entry 29). -/
def Obligations.MatrixProducts : Prop :=
  (
  ∀ (s : State) (c : CoreId) (o : EOp), Running s c .m 1 o → memWf s.mem = true →
    let f := o.mfmt
    let base := wbankKey c (avOff o.viewC)
    let at_ (i j : Nat) : Nat := base + bankOff f i j
    let (li, lj) := o.lanternAt
    (o.mN ≤ 64 → o.prog < o.mG → ∃ t, exec (.mmac c 1) s = .next t
      ∧ (∀ i j, i < o.mM → j < o.mN → leNat (t.readMem (at_ i j) (mWidth f)) =
          (mGroup f o.prog o.mK (operandsOf s c o) i j o.aeInt (if o.prog = 0 ∧ o.mZero = true then 0 else leNat (s.readMem (at_ i j) (mWidth f)))).1
            % 2 ^ (8 * mWidth f))
      ∧ (∀ a, (a < base ∨ base + o.mM * (64 * mWidth f) ≤ a) → memGet t.mem a = memGet s.mem a)
      ∧ (∀ c', c' ≠ c → t.core c' = s.core c') ∧ (t.core c).s = (s.core c).s
      ∧ ∃ o', (t.core c).headOp .m = some o' ∧ o'.prog = o.prog + 1 ∧ o'.id = o.id)
    ∧ (o.mG ≤ o.prog →
      (bankAt s c o li lj = o.cap.getD 0 0 → exec (.mmac c 1) s = .next ((s.bump 3).workOver c .m o.id))
      ∧ (bankAt s c o li lj ≠ o.cap.getD 0 0 → o.lseed.getLsbD 16 = false →
          exec (.mmac c 1) s = .next (((s.bump 3).opRecord c .m o (causeCode .shadowMismatch) none).workOver c .m o.id)))
  )
  ∧ (
  ∀ (s : State) (c : CoreId) (n : Nat) (o : EOp), n ≠ 0 → memWf s.mem = true →
    let lo := wbankKey c (avOff o.viewC)
    let hi := lo + avSize o.viewC
    let h := hashBytes (s.readMem lo (avSize o.viewC))
    let kept := s.writeMem (wbankKey c (o.fld .m 16 * 8)) (leBytes 8 h.toNat)
    (Running s c .m 2 o → ∃ t, exec (.mzero c n) s = .next t
      ∧ (∀ a, memGet t.mem a = if lo ≤ a ∧ a < hi then 0 else memGet s.mem a)
      ∧ t.cores = (s.workOver c .m o.id).cores)
    ∧ (Running s c .m 4 o →
      (o.fld .m 17 ≠ 1 → exec (.mhash c n) s = .next (kept.workOver c .m o.id))
      ∧ (o.fld .m 17 = 1 → h.toNat = o.key64 → exec (.mhash c n) s = .next ((kept.bump 1).workOver c .m o.id))
      ∧ (o.fld .m 17 = 1 → h.toNat ≠ o.key64 → exec (.mhash c n) s = .next ((kept.bump 1).mismatch c o .katMismatch 17 (some h.toNat))))
    ∧ (Running s c .m 3 o →
      ((katHash o).toNat = o.key64 → exec (.mkat c n) s = .next ((s.bump 1).workOver c .m o.id))
      ∧ ((katHash o).toNat ≠ o.key64 → exec (.mkat c n) s = .next ((s.bump 1).mismatch c o .katMismatch 17 (some (katHash o).toNat))))
  )

/-- R183, R199, R201, R208, R209, R212: the operations of C and X that move bytes read what is left of their source, then
write towards the next 64-byte boundary of their destination, and their work is over after the last byte. With FM sentinel the
work waits for every byte to be visible at device scope, then sets the last word full (R200).
R25, R199: a CPY of at most 32 bytes inside the register region, from one place to another that each lie in 32 aligned
bytes, takes three steps: afterwards the landing buffer holds, for its granule, the bytes of the source, and its work is
over.
That a step reads all that is left of its source before it writes is the model's choice (log entry 26). -/
def Obligations.BulkCopySteps : Prop :=
  (
  ∀ (s : State) (c : CoreId) (o : EOp),
    ∀ x ∈ ([(.c, 1, .cpy c 1), (.c, 8, .phfetch c 1), (.c, 9, .stage c 1), (.x, 1, .xcpy c 1)] : List (Eng × Nat × Instr)),
      let e := x.1
      Running s c e x.2.1 o → (x.2.1 = 1 → e = .c → o.fld .c 14 = 0) →
        let n := o.len e
        let d := (o.buf.drop o.prog).take (64 - ((o.dst e).toNat + o.prog) % 64)
        (o.buf.length < n → exec x.2.2 s = .next (takeRead c e o.id (s.engRead c e o (o.ssp e) (o.reg 5) o.buf.length (n - o.buf.length))))
        ∧ (n ≤ o.buf.length → o.prog < n →
          let r := s.engWrite c e o (o.dsp e) (o.dst e) o.prog d (marksAt s (s.core c) e o o.prog 0)
          exec x.2.2 s = .next (r.2.modOpAt c e o.id (fun y => { y with prog := y.prog + r.1 })))
        ∧ (n ≤ o.buf.length → n ≤ o.prog →
          (o.fm e ≠ 2 → exec x.2.2 s = .next (s.workOver c e o.id))
          ∧ (o.fm e = 2 → (o.owed ≠ 0 ∨ s.gtc.toNat < o.stamps.device.toNat) → exec x.2.2 s = .next s)
          ∧ (∀ l off cls gr, o.fm e = 2 → o.owed = 0 → o.stamps.device.toNat ≤ s.gtc.toNat → (s.core c).landing = [] →
              engAt s (s.core c) (o.dsp e) (w64 (sentinelAddr e o)) 0 .w = .mem (.spad l off) cls gr → isMoving s (.spad l off) = false →
              exec x.2.2 s = .next ((s.fillWords (.spad l off) 8 (fun _ => .full)).workOver c e o.id)))
  )
  ∧ (
  ∀ (s : State) (c : CoreId) (o : EOp), Running s c .c 1 o → o.fld .c 14 = 0 → o.fld .c 7 = 5 → o.fld .c 8 = 5 → o.fm .c = 0 →
    o.buf = [] → o.prog = 0 → (s.core c).landing = [] → ((s.core c).iter.bind (·.sib)) = none → (s.core c).cq = [o] →
    let n := o.len .c
    let src := (o.reg 5).toNat
    let dst := (o.reg 6).toNat
    0 < n → src % 32 + n ≤ 32 → dst % 32 + n ≤ 32 → src + n ≤ regionSize (s.core c) → dst + n ≤ regionSize (s.core c) →
      regionSize (s.core c) ≤ 2 ^ 19 →
      ∃ t l, exec (.cpy c 3) s = .next t ∧ (t.core c).landing = [l] ∧ l.off = dst / 256 * 256
        ∧ (∀ i, i < n → l.data.getD (dst % 256 + i) 0 = memGet s.mem (regionKey c (src + i)) ∧ l.mask.getD (dst % 256 + i) false = true)
        ∧ (∀ i, (i < dst % 256 ∨ dst % 256 + n ≤ i) → l.mask.getD i false = false)
        ∧ t.mem = s.mem ∧ ∃ o', (t.core c).cq = [o'] ∧ o'.fin = true
  )

/-- R199, R203, R204, R206, R216: the operations that move elements read element after element, in their order, and write
each before the next.
R205, R207, R210, R215, R217: FILL writes its pattern; MCAST reads its source, writes one destination after another and
leaves out one that fails; DESC starts the entries of its chain; XRED combines element after element; XSIG writes its word
once earlier X operations are visible, and sets it full. -/
def Obligations.ElementCopySteps : Prop :=
  (
  ∀ (s : State) (c : CoreId) (o : EOp),
    ∀ x ∈ ([(.c, 1, .cpy c 1), (.c, 2, .cpynd c 1), (.c, 3, .gather c 1), (.c, 4, .scatter c 1), (.c, 6, .relayout c 1),
        (.x, 3, .xgath c 1)] : List (Eng × Nat × Instr)),
      let e := x.1
      Running s c e x.2.1 o → (x.2.1 = 1 → o.fld .c 14 ≠ 0) → (x.2.1 = 6 → o.fld .c 21 ≠ 2) →
        let el := elemAt e o o.prog
        let d := (elemBytes e o o.buf).drop o.aux
        let r := s.engWrite c e o (o.dsp e) el.dst o.aux d (marksAt s (s.core c) e o o.prog o.aux)
        (o.prog < elemCount e o → o.buf.length < el.ss →
          exec x.2.2 s = .next (takeRead c e o.id (s.engRead c e o (o.ssp e) el.src o.buf.length (el.ss - o.buf.length))))
        ∧ (o.prog < elemCount e o → el.ss ≤ o.buf.length →
          exec x.2.2 s = .next (r.2.modOpAt c e o.id (fun y =>
            if el.ds ≤ o.aux + r.1 then { y with prog := y.prog + 1, aux := 0, buf := [] } else { y with aux := y.aux + r.1 })))
        ∧ (elemCount e o ≤ o.prog → o.fm e ≠ 2 → exec x.2.2 s = .next (s.workOver c e o.id))
  )
  ∧ (
  ∀ (s : State) (c : CoreId) (o : EOp),
    (Running s c .c 5 o → let n := o.len .c
      (o.prog < n →
        let d := (List.range (min (n - o.prog) (64 - ((o.reg 6).toNat + o.prog) % 64))).map (fun i =>
          (leBytes 8 (o.reg 5).toNat).getD (((o.reg 6).toNat + (o.prog + i)) % 8) 0)
        let r := s.engWrite c .c o (o.fld .c 8) (o.reg 6) o.prog d (marksAt s (s.core c) .c o o.prog 0)
        exec (.fill c 1) s = .next (r.2.modOpAt c .c o.id (fun y => { y with prog := y.prog + r.1 })))
      ∧ (n ≤ o.prog → o.fm .c ≠ 2 → exec (.fill c 1) s = .next (s.workOver c .c o.id)))
    ∧ (Running s c .c 7 o → let n := o.len .c
      let off := (o.reg 6).toNat
      (o.buf.length < n → exec (.mcast c 1) s = .next (takeRead c .c o.id (s.engRead c .c o (o.ssp .c) (o.reg 5) o.buf.length (n - o.buf.length))))
      ∧ (n ≤ o.buf.length → ∀ l, (maskCores (o.reg 12)).find? (fun l => !o.aux.testBit l) = some l →
        (o.prog = 0 → ∀ x, mcFails s l off n = some x → exec (.mcast c 1) s = .next
          (((s.opRecord c .c { o with gstatus := 0 } x (some (2 ^ l))).modCore c (fun k => { k with mfail := k.mfail ||| BitVec.ofNat 64 (2 ^ l) })).modOpAt c .c o.id
            (fun y => { y with aux := y.aux ||| 2 ^ l })))
        ∧ (o.prog < n → (o.prog = 0 → mcFails s l off n = none) →
          let r := s.engWrite c .c o 2 (BitVec.ofNat 64 (l * 2 ^ 20 + off)) o.prog ((o.buf.drop o.prog).take (64 - (off + o.prog) % 64)) (mcastMarks o l)
          exec (.mcast c 1) s = .next (r.2.modOpAt c .c o.id (fun y => { y with prog := y.prog + r.1 })))
        ∧ (n ≤ o.prog → 0 < o.prog → exec (.mcast c 1) s = .next (s.modOpAt c .c o.id (fun y => { y with
            prog := 0, aux := y.aux ||| 2 ^ l, cap := [y.cap.getD 0 0 ||| 2 ^ l] }))))
      ∧ (n ≤ o.buf.length → (∀ l, (o.reg 12).getLsbD l = true → o.aux.testBit l = true) → o.fm .c ≠ 2 → exec (.mcast c 1) s = .next (s.workOver c .c o.id)))
    ∧ (∀ off n i, (s.core c).headOp .c = some o → o.started = true → o.chain = some (off, n, i) → o.kind = 10 →
      (∀ y, descEntry o (s.readMem (spadKey s c (off + 64 * i)) 64) = some y → exec (.desc c 1) s = .next (s.copyStart c .c y))
      ∧ (descEntry o (s.readMem (spadKey s c (off + 64 * i)) 64) = none →
          exec (.desc c 1) s = .next (s.modOpAt c .c o.id (fun o => { (o.fail .illOperand) with uoOnly := o.uoAll }))))
    ∧ (Running s c .x 2 o →
      let w := xredSize (o.fld .x 15)
      let el := elemAt .x o o.prog
      (o.prog < elemCount .x o → o.buf.length < w →
        exec (.xred c 1) s = .next (takeRead c .x o.id (s.engRead c .x o (o.ssp .x) el.src o.buf.length (w - o.buf.length))))
      ∧ (∀ off, o.prog < elemCount .x o → w ≤ o.buf.length → engAt s (s.core c) (o.dsp .x) el.dst 0 .rw = .region off →
        let r := xredOp (o.fld .x 15) (o.fld .x 16) (leNat (regionRead s c o.id off w)) (leNat o.buf)
        exec (.xred c 1) s = .next (((s.modCore c (fun k => k.landBytes o.id off (leBytes w r.1) 0)).chargeBytes c .x (2 * w)).modOpAt c .x o.id
          (fun y => { y with prog := y.prog + 1, buf := [], cap := [], clamp := y.clamp || r.2 })))
      ∧ (elemCount .x o ≤ o.prog → o.fm .x ≠ 2 → exec (.xred c 1) s = .next (s.workOver c .x o.id)))
    ∧ (∀ l off cls gr t old w, Running s c .x 4 o → (s.core c).xfloor.toNat ≤ s.gtc.toNat → o.fld .x 17 = 0 →
        engAt s (s.core c) (o.dsp .x) (o.reg 6) 0 .w = .mem (.spad l off) cls gr → soWaits s c o cls = false →
        homeBusy s (.spad l off) 8 = false →
        writeAt (s.owe c .x o.id cls) { whoOp s c .x o with strong := true } (.spad l off) cls gr s.gtc
          (leBytes 8 (o.reg 5).toNat) = .done t old w false →
        exec (.xsig c 1) s = .next (((t.fillWords (.spad l off) 8 (fun _ => .full)).chargeBytes c .x 8).modOpAt c .x o.id
          (fun y => { y with fin := true, prog := 1 })))
    ∧ (Running s c .x 4 o → s.gtc.toNat < (s.core c).xfloor.toNat → exec (.xsig c 1) s = .next s)
  )

/-- R257 to R264: the commands of G. BLOAD and BACT read their bytes, take a number at the admission point, and at their
turn load the program or the activations into the core's store and into every unit of their page set; BEXEC checks, takes a
number, and at its turn becomes a job; BREAD lands its lanes; BSAFE ends in its own turn; BSTAT writes its four words.
R235 to R237: KVAPPEND encodes its source and writes it byte by byte; KVHAND freezes its slot, and hands it over once
the appends that came before are complete and visible; one that had completed already counts by its Vdevice (the slot's floor). -/
def Obligations.GenerationCommands : Prop :=
  (
  ∀ (s : State) (c : CoreId) (o : EOp),
    let k := s.core c
    let units := BPlace.nums (placesOf s o.pages)
    let ws := words32 (o.buf.length / 4) o.buf
    (Running s c .g 1 o → let n := o.fld .g 8
      0 < n →
        (o.buf.length < 4 * n → readCause s c 0 (o.reg 5) o.buf.length (min 32 (4 * n - o.buf.length)) = none →
          (sealsOf s ((List.range (min 32 (4 * n - o.buf.length))).map (fun j => engAt s k 0 (o.reg 5) (o.buf.length + j) .r))).isSome = true →
          exec (.bload c) s = .next (takeRead c .g o.id (s.engRead c .g o 0 (o.reg 5) o.buf.length (min 32 (4 * n - o.buf.length)))))
        ∧ (4 * n ≤ o.buf.length → progCheck ws = none →
          exec (.bload c) s = .next (s.modG c o.id (fun o => { o with fin := true, status := 0x109, gstatus := 1 })))
        ∧ (∀ p no, 4 * n ≤ o.buf.length → progCheck ws = some p → o.no = some no → s.turnOf no units = true →
          exec (.bload c) s = .next (((units.foldl (fun s u => s.modUnit u (fun x => { x with prog := ws, owner := some (ownerTag k) }))
            (s.modGs c (fun g => { g with prog := some p, progSet := some o.pages }))).leave no).gDone c o.id)))
    ∧ (Running s c .g 2 o → let n := o.fld .g 10 + 1
      let l16 := o.fld .g 9 == 1
      (o.buf.length < 66 * n →
        exec (.bact c) s = .next (takeRead c .g o.id (s.engRead c .g o (o.fld .g 7) (o.reg 5) o.buf.length (66 * n - o.buf.length))))
      ∧ (∀ no, 66 * n ≤ o.buf.length → (actRecs n o.buf).any (recBad (if l16 then 4 else 1)) = false → (o.reg 5).toNat % 2 = 0 → o.no = some no →
          s.turnOf no units = true →
          exec (.bact c) s = .next (((units.foldl (fun s u => s.modUnit u (fun x => { x with act := o.buf.take (66 * n), l16 := l16 }))
            (s.modGs c (fun g => { g with act := o.buf.take (66 * n), l16 := l16, actSet := some o.pages }))).leave no).gDone c o.id)))
    ∧ (Running s c .g 3 o →
      (o.prog = 0 → bexecCause (s.modGs c GStore.clearLast) ((s.modGs c GStore.clearLast).core c).gs o = none →
        exec (.bexec c) s = .next ((s.modGs c GStore.clearLast).modG c o.id (fun o => { o with prog := 1, aux := 1 })))
      ∧ (∀ st x, o.prog = 0 → bexecCause (s.modGs c GStore.clearLast) ((s.modGs c GStore.clearLast).core c).gs o = some (st, x) →
        exec (.bexec c) s = .next ((s.modGs c GStore.clearLast).modG c o.id (fun o => { (o.fail x) with gstatus := st, aux := 1 })))
      ∧ (o.prog ≠ 0 → s.banks.jobs = [] → o.no = none → exec (.bexec c) s = .next (s.enrol c o.id units))
      ∧ (∀ n, o.prog ≠ 0 → s.banks.jobs = [] → o.no = some n → s.turnOf n units = true →
        exec (.bexec c) s = .next { s with banks := { s.banks with jobs := [
          { job := n, core := c, op := o.id, units := units, started := false, first := 0, dels := [],
            stop := if o.stop then some (1, s.gtc) else none, keep := false, cycles := 0, bytes := 0, sib := k.iter.bind (·.sib) }] } }))
    ∧ (Running s c .g 4 o → breadCause s c o = none → o.fld .g 21 = 0 → k.iter.bind (·.sib) = none →
        let row := k.gs.rows.getD (o.fld .g 19) []
        let lane (b : Nat) : Word × Bool := landedLane k.gs row (32 * o.fld .g 20 + b)
        (∀ b, b < 32 → (lane b).2 = false ∧ (∀ x, row[32 * o.fld .g 20 + b]? = some x → x.clamp = false)) →
        exec (.bread c) s = .next ((s.modCore c (fun k => k.landBytes o.id (o.vview.toNat % 2 ^ 19 + 256 * o.fld .g 18)
          ((List.range 32).flatMap (fun b => leBytes 8 (lane b).1.toNat)) 0)).gDone c o.id))
    ∧ (Running s c .g 5 o → exec (.bsafe c) s = .next (s.gDone c o.id))
    ∧ (Running s c .g 6 o → (o.reg 17).toNat % 8 = 0 → (o.reg 17).toNat + 32 ≤ spadSize k →
        let g := k.gs
        let d := leBytes 8 (g.stLoad + g.stExec * 2 ^ 8 + g.stAct * 2 ^ 16 + g.dels % 8 * 2 ^ 24) ++ leBytes 8 g.poison.toNat
          ++ leBytes 8 g.cycles ++ leBytes 8 g.bytes
        (o.prog < 32 → let r := s.engWrite c .g o 1 (o.reg 17) o.prog (d.drop o.prog) noMarks
          exec (.bstat c) s = .next (r.2.modG c o.id (fun o => { o with prog := o.prog + r.1 })))
        ∧ (32 ≤ o.prog → exec (.bstat c) s = .next (s.gDone c o.id)))
  )
  ∧ (
  ∀ (s : State) (c : CoreId) (o : EOp),
    let k := s.core c
    let n := o.kvD * o.kvEsz
    (Running s c .g 7 o →
      (o.buf.length < n → exec (.kvappend c 1) s = .next (takeRead c .g o.id (s.engRead c .g o (o.fld .g 7) (o.reg 5) o.buf.length (n - o.buf.length))))
      ∧ (n ≤ o.buf.length → o.aux = 0 → o.kvRot = false →
        exec (.kvappend c 1) s = .next (s.modG c o.id (fun x => { x with aux := 1, last := kvEncode o.kvP (o.fld .g 24 == 1) false o.buf [] o.kvD })))
      ∧ (∀ l, n ≤ o.buf.length → o.aux ≠ 0 → o.prog < o.kvD + 2 * gDw o.kvgen →
        let key := o.kvKey (coreCtx k)
        let b := kvOffset o.kvgen o.kvP o.prog
        (s.obj key).st = .present → b < 512 * (s.obj key).size → heapByte s key b = some l →
        let r := s.engPut c .g o l 4 2 [o.last.getD o.prog 0] noMarks
        exec (.kvappend c 1) s = .next ((r.2.chargeBytes c .g r.1).modG c o.id (fun o => { o with prog := o.prog + r.1 })))
      ∧ (n ≤ o.buf.length → o.aux ≠ 0 → o.kvD + 2 * gDw o.kvgen ≤ o.prog → (s.slot (gSlot o.kvgen)).st ≠ .free →
        exec (.kvappend c 1) s = .next ((s.setSlot (gSlot o.kvgen) { s.slot (gSlot o.kvgen) with
          len := max (s.slot (gSlot o.kvgen)).len (o.kvP + 1) }).gDone c o.id)))
    ∧ (Running s c .g 8 o → o.prog = 0 → let z := (o.reg 5).toNat
      let d := s.slot z
      ((1024 ≤ z ∨ d.ctx ≠ coreCtx k ∨ d.st ≠ .prompt) → exec (.kvhand c) s = .next (s.gFailAt c o.id .slotState))
      ∧ (z < 1024 → d.ctx = coreCtx k → d.st = .prompt →
        exec (.kvhand c) s = .next ((s.setSlot z { d with st := .handing, hlen := d.len, awaited := d.appends }).modG c o.id
          (fun o => { o with prog := 1, cap := [z] }))))
    ∧ (∀ slot : BitVec 10, let d := s.slot slot.toNat
      ((d.st ≠ .handing ∨ d.awaited.any (appendLive s) = true ∨ s.gtc.toNat < d.floor.toNat) → exec (.kvhandGen slot) s = .next s)
      ∧ (d.st = .handing → d.awaited.any (appendLive s) = false → d.floor.toNat ≤ s.gtc.toNat →
        ∃ t, exec (.kvhandGen slot) s = .next t ∧ (t.slot slot.toNat).st = .gen ∧ (t.slot slot.toNat).awaited = [] ∧ t.mem = s.mem))
  )

/-- R246 to R248, R250, R252: the words of a unit that change only the unit, for a unit that may issue: each writes its
register, its mask or its loops, and the next word follows. A result lane is poisoned when an input byte of it is. -/
def Obligations.BankWords : Prop :=
  ∀ (s : State) (w : BankWord) (r : BRun),
    let n := s.curUnit.toNat
    let u := s.unit n
    u.ready = some r →
    let wd := bWidth w
    let a := bLanes wd (u.ry w.a)
    let b := bLanes wd (u.ry w.b)
    let uns := w.imm.getLsbD 2
    let c := w.imm.toNat / 8
    let pa (j : Nat) : Bool := lanePoison (u.rq w.a) wd j
    let pb (j : Nat) : Bool := lanePoison (u.rq w.b) wd j
    let gives (i : Instr) (u' : BUnit) : Prop := exec i s = .next (s.setUnit n u'.advance)
    let lanes2 (f : Nat → Nat → Nat) : BUnit := u.wy w.d (bytesOf wd ((List.range (64 / wd)).map (fun j => f (a.getD j 0) (b.getD j 0)))) (laneMask wd (fun j => pa j || pb j))
    let lanes1 (f : Nat → Nat) : BUnit := u.wy w.d (bytesOf wd (a.map f)) (laneMask wd pa)
    let arith (f : Int → Int → Int) (x y : Nat) : Nat :=
      if uns then clampLane wd (f (toS (8 * wd) x) (toS (8 * wd) y)) else ofS (8 * wd) (f (toS (8 * wd) x) (toS (8 * wd) y))
    let v (x : Nat) : Int := if uns then (x : Int) else toS (8 * wd) x
    gives (.bankNop w) u
    ∧ gives (.bankLdi w) (u.wy w.d (bytesOf (2 ^ w.b.toNat) (List.replicate (64 / 2 ^ w.b.toNat) (ofS (8 * 2 ^ w.b.toNat) w.imm.toInt))) 0)
    ∧ gives (.bankMov w) (u.wy w.d (u.ry w.a) (u.rq w.a))
    ∧ gives (.bankAdd w) (lanes2 (arith (· + ·))) ∧ gives (.bankSub w) (lanes2 (arith (· - ·))) ∧ gives (.bankMul w) (lanes2 (arith (· * ·)))
    ∧ gives (.bankMin w) (lanes2 (fun x y => if v y < v x then y else x)) ∧ gives (.bankMax w) (lanes2 (fun x y => if v x < v y then y else x))
    ∧ gives (.bankCmp w) { u with m := setNth u.m w.d.toNat (laneMask wd (fun j =>
        bankCond c (v (a.getD j 0)) (v (b.getD j 0))
        && !pa j && !pb j)) }
    ∧ gives (.bankSel w) (u.wy w.d (bytesOf wd ((List.range (64 / wd)).map (fun j => if (u.rm c).getLsbD (j * wd) then a.getD j 0 else b.getD j 0)))
        (laneMask wd (fun j => pa j || pb j)))
    ∧ gives (.bankShl w) (lanes1 (fun x => x * 2 ^ c % 2 ^ (8 * wd)))
    ∧ gives (.bankShr w) (lanes1 (fun x => if uns then ofS (8 * wd) (toS (8 * wd) x / 2 ^ c) else x / 2 ^ c))
    ∧ (w.imm = 4 → gives (.bankLogb w) (u.wy w.d (bytesOf 1 ((bLanes 1 (u.ry w.a)).map (fun x => 255 - x))) (laneMask 1 (fun j => lanePoison (u.rq w.a) 1 j))))
    ∧ (∀ f : Nat → Nat → Nat, (w.imm = 0 ∧ f = (· &&& ·)) ∨ (w.imm = 1 ∧ f = (· ||| ·)) ∨ (w.imm = 2 ∧ f = (· ^^^ ·)) ∨ (w.imm = 3 ∧ f = (fun x y => x &&& (255 - y))) →
        gives (.bankLogb w) (u.wy w.d (bytesOf 1 ((List.range 64).map (fun j => f ((bLanes 1 (u.ry w.a)).getD j 0) ((bLanes 1 (u.ry w.b)).getD j 0))))
          (laneMask 1 (fun j => lanePoison (u.rq w.a) 1 j || lanePoison (u.rq w.b) 1 j))))
    ∧ gives (.bankKclr w) (u.wk w.d KAcc.zero)
    ∧ gives (.bankKmov w) (u.wk w.d ⟨(List.range 64).map (fun j =>
          (if !uns || (u.rm (w.imm.toNat % 4)).getLsbD j then (u.rk w.a).lanes else (u.rk w.d).lanes).getD j ⟨0, false, false⟩),
        (u.rk w.d).dirty || (u.rk w.a).dirty⟩)
    ∧ exec (.bankLoop w) s = .next (s.setUnit n { u with
        loops := ⟨u.pw + 1, u.pw + 1 + (w.d.toNat + 32 * w.a.toNat), w.imm.toNat⟩ :: u.loops, pw := u.pw + 1 })

/-- R248, R249, R251, R253, R255, R267: MACs, column accesses, the ridgepole and the ends of a program. -/
def Obligations.BankEffects : Prop :=
  ∀ (s : State) (w : BankWord) (r : BRun),
    let n := s.curUnit.toNat
    let u := s.unit n
    u.ready = some r →
    let zero : KLane := ⟨0, false, false⟩
    let q := u.wc.getD (w.imm.toNat % 4) 0 + w.imm.toNat / 4 % 256
    let key := r.key q
    let isOpen := tabGet s.banks.openRows (bankOf key) = some (key / 2 ^ 11)
    let moved (u : BUnit) : BUnit := if w.imm.getLsbD 10 then { u with wc := setNth u.wc (w.imm.toNat % 4) (u.wc.getD (w.imm.toNat % 4) 0 + 1) } else u
    let counted : BRun := { r with bytes := r.bytes + 64 }
    let mac (step : Nat) (out : List (KLane × Bool)) : State := s.setUnit n
      (({ u with ac := u.ac + step, run := some r }).wk w.d { lanes := out.map Prod.fst, dirty := true }).advance
    (let out := (List.range 64).map (fun i => qmacLane u r w i ((u.rk w.d).lanes.getD i zero))
     (∀ x ∈ out, x.2 = false) → exec (.bankQmac w) s = .next (mac 1 out))
    ∧ (let out := (List.range 64).map (fun i => lmacLane u r w i ((u.rk w.d).lanes.getD i zero))
       (∀ x ∈ out, x.2 = false) → exec (.bankLmac w) s = .next (mac 4 out))
    ∧ (¬ isOpen → let waits := s.setUnit n { u with run := some { r with rowWait := some (bankOf key, key / 2 ^ 11) } }
        exec (.bankLdr w) s = .next waits ∧ exec (.bankStr w) s = .next waits)
    ∧ (isOpen → isPoison s key = false → s.jobOf r.job = none → exec (.bankLdr w) s = .next (s.setUnit n
        (moved ({ u with run := some counted }.wy w.d ((List.range 64).map (fun i => rowByte s (key + i))) 0)).advance))
    ∧ (∀ j, isOpen → isPoison s key = false → s.jobOf r.job = some j → exec (.bankLdr w) s = .next ((s.setUnit n
        (moved ({ u with run := some counted }.wy w.d ((List.range 64).map (fun i => rowByte s (key + i))) 0)).advance).readStamp
          j.core .g j.op (leaseAt s (r.wordIa q) 0 64).w))
    ∧ (isOpen → stampsPending s (r.wordIa q) 64 = true → exec (.bankStr w) s = .next s)
    ∧ (isOpen → stampsPending s (r.wordIa q) 64 = false → dirIn s (r.wordIa q) 64 = [] → s.jobOf r.job = none → exec (.bankStr w) s = .next
        ((s.putWord key (u.ry w.a) (u.rq w.a != 0)).setUnit n (moved { u with run := some counted }).advance))
    ∧ (∀ j, isOpen → stampsPending s (r.wordIa q) 64 = false → dirIn s (r.wordIa q) 64 = [] → s.jobOf r.job = some j →
        exec (.bankStr w) s = .next ((((((s.putWord key (u.ry w.a) (u.rq w.a != 0)).setUnit n (moved { u with run := some counted }).advance).owe
          j.core .g j.op 1).stampOwn { core := j.core, eng := .g, seq := j.op, cyc := s.cyc } (sectorsOf (r.wordIa q) 0 64) 1 s.gtc []).dropOwn
          j.core (.ia (r.wordIa q)) 0 64)))
    ∧ (r.isHead = true → exec (.bankRidge w) s = .next (s.ridgeSend n u r w.a.toNat (u.rk w.a).lanes))
    ∧ (r.isHead = false → exec (.bankRidge w) s = .next (s.setUnit n { u with run := some { r with ridge := some w.a.toNat } }))
    ∧ (s.jobOf r.job = none → exec (.bankSafe w) s = .next
        ((s.setUnit n ({ u with run := some { r with safes := r.safes + 1, stopped := false } }).advance).release n r))
    ∧ (∀ j m t, s.jobOf r.job = some j → j.stop = some (m, t) → exec (.bankSafe w) s = .next
        ((s.setUnit n ({ u with run := some { r with safes := r.safes + 1, stopped := m == r.safes + 1 } }).advance).release n r))
    ∧ exec (.bankExit w) s = .next ((s.setUnit n { u with run := some { r with exited := true } }).release n r)

/-- R244, R251, R265, R270, R274: what happens beside the words of a program: the issue of the next word, the opening of a
row, the row that arrives on the ridgepole, the service of a channel's queue, the start, the end and the stop of a job, and
the reads of views.
Which writes a sequencer holds is the model's reading (log entry 30). -/
def Obligations.BankUnits : Prop :=
  ∀ (s : State),
    (∀ (u : UnitId) (r : BRun), (s.unit u.toNat).ready = some r →
      exec (.unitWordIssue u) s = .next { s with curUnit := u, fetched := ((s.unit u.toNat).prog[(s.unit u.toNat).pw]?).bind decodeBank })
    ∧ (∀ (u : UnitId), (s.unit u.toNat).ready = none → exec (.unitWordIssue u) s = .next s)
    ∧ (∀ (u : UnitId) (r : BRun) (bank row : Nat), (s.unit u.toNat).run = some r → r.rowWait = some (bank, row) →
      ∃ t, exec (.rowOpen u) s = .next t ∧ t.unit u.toNat = { s.unit u.toNat with run := some { r with rowWait := none } }
        ∧ t.banks.openRows = tabSet s.banks.openRows bank row ∧ t.mem = s.mem)
    ∧ (∀ (u : UnitId) (r : BRun) (kx : Nat) (row : List KLane) (rest : List (List KLane)), (s.unit u.toNat).run = some r →
      r.ridge = some kx → r.incoming = row :: rest →
      exec (.ridgeReceive u) s = .next (s.ridgeSend u.toNat (s.unit u.toNat) { r with incoming := rest } kx
        (ridgeSum row ((s.unit u.toNat).k.getD kx KAcc.zero))))
    ∧ (∀ (ch : BitVec 7) (i key : Nat) (b : Byte), s.wtq[i]? = some (key, b) → chanOf key = ch.toNat →
      (isHeld s key = true → exec (.mcsServe ch i) s = .next s)
      ∧ (isHeld s key = false → exec (.mcsServe ch i) s = .next (s.commit (fun k => k / 64 == key / 64))))
    ∧ (∀ (c : CoreId) (o : EOp) (j : BJob) (p : BProg), Running s c .g 3 o → (s.core c).gs.prog = some p → (s.core c).gs.resume = none →
      s.banks.jobs = [j] → j.core = c → j.started = false → j.op = o.id → j.units = BPlace.nums (placesOf s o.pages) →
      ∃ t, exec (.writeThroughDrain c) s = .next t
        ∧ t.banks.jobs = [{ j with started := true, first := s.gtc, dels := [], cycles := 0, bytes := 0 }]
        ∧ (∀ e ∈ t.wtq, e ∈ s.wtq))
    ∧ (∀ (c : CoreId) (o : EOp) (j : BJob) (p : BProg), Running s c .g 3 o → (s.core c).gs.prog = some p →
      s.banks.jobs = [j] → j.core = c → j.started = true → j.op = o.id → o.owed = 0 → (jobRuns s j).all (·.exited) = true →
      let left (g : GStore) : GStore :=
        { g with lastOk := true, lastSet := some o.pages, rows := jobRows j p.dels, rowsN := o.fld .g 11 + 1, dels := p.dels,
                 poison := rowsPoison (jobRows j p.dels), cycles := jobCycles s j, bytes := jobBytes s j }
      exec (.bexecComplete c) s = .next (((s.modGs c left).endJob j).gDone c o.id))
    ∧ (∀ (c : CoreId) (o : EOp) (j : BJob), Running s c .g 3 o → s.banks.jobs = [j] → j.core = c → j.started = true → j.op = o.id → j.keep = false →
      j.stop.isSome = true → (jobRuns s j).all (fun r => r.exited || r.stopped) = true → (jobRuns s j).all (·.exited) = false →
      exec (.bankStop c) s = .next (((s.modGs c (fun g => { g.clearLast with resume := none, cycles := jobCycles s j, bytes := jobBytes s j })).endJob j).modG c o.id
        (fun o => { o with fin := true, gstatus := 4 })))
    ∧ (∀ (c : CoreId) (o : EOp) (j : BJob) (m : Nat) (w : Word), Running s c .g 3 o → s.banks.jobs = [j] → j.core = c → j.started = true → j.op = o.id →
      j.stop = some (m, w) → w.toNat + 1050 * s.base.bwdog.toNat ≤ s.gtc.toNat → (jobRuns s j).any (fun r => !r.exited && !r.stopped) = true →
      ∃ t, exec (.bankWatchdog c) s = .next t ∧ t.mem = s.mem
        ∧ (∀ u ∈ j.units, (∃ r, (s.unit u).run = some r ∧ r.exited = false ∧ r.stopped = false) → ∀ g < 4, t.unit (u / 4 * 4 + g) = BUnit.reset))
    ∧ (∀ (i ia n : Nat) (a : Acc) (l : List ViewByte) (cl : Leaf), s.homeQ[i]? = some a → isViewLoad s a = true → s.now a.loc = .ia ia →
      mayServe s i = true → homeAt s ia = .own → pageKeys s ia a.len false = .view l n cl →
      let got : PlaneGot := { bytes := a.plane, w := a.planeW, poison := a.planeP }
      let miss := (planeNeeds l).filter (fun o => (tabGet a.plane o).isNone)
      (miss = [] → a.planeP = false →
        exec (.viewRead i) s = .next ((s.dropEntry i).loaded a (l.map (viewFrom a.plane)) a.planeW a.planeP))
      ∧ (∀ t, nextPlane s (whoOf a) l n cl got = .wait t → exec (.viewRead i) s = .next t)
      ∧ (∀ t g, nextPlane s (whoOf a) l n cl got = .more t g →
        exec (.viewRead i) s = .next (t.setEntry i { a with plane := g.bytes, planeW := g.w, planeP := g.poison }))
      ∧ (∀ o rest, miss = o :: rest → (∀ x, stampsPending s x 1 = false) → (∀ x, behindWrite s x = false) → s.bridge.dir = [] →
        nextPlane s (whoOf a) l n cl got = .more s {
          bytes := (miss.filter (fun x => x / 64 == o / 64)).foldl (fun g x => tabSet g x (homeByte s (ccKey cl x))) a.plane,
          w := wmax a.planeW (leaseOver s (secsOf ((miss.filter (fun x => x / 64 == o / 64)).map (fun x => ownIa s (n * 65536 + x))))).w,
          poison := a.planeP || (miss.filter (fun x => x / 64 == o / 64)).any (fun x => isPoison s (ccKey cl x)) }))

/-- R70, R71, R31, R32, R81, R124: a load is performed from earlier writes of its core that cover it, from a live copy, or
it joins the queue of its home; a store joins that queue, opens a stamp-buffer entry and changes its core's own live copy;
a home performs loads, stores and updates of a scratchpad; LDF and STE wait at their word until its bit is right.
That the homes serve one queue for each scratchpad and for each 512-byte line is the model's choice (log entry 9). -/
def Obligations.AccessSteps : Prop :=
  (∀ (s : State) (c : CoreId) (i : Nat) (a : Acc),
    let k := s.core c
    let gone := s.setCore c { k with pend := delNth k.pend i }
    let covered := a.strong = false ∧ (forwardsOf s a).length = a.len
    let free := (∀ e ∈ (s.core a.core).vq, a.seq < e.seq ∨ e.holds = false) ∧ ∀ e ∈ olderThan s a, overlaps s e a = true →
      if e.op.writes then a.strong = false ∧ (knownByte e 0).isSome = true else ¬ (a.strong = true ∧ e.strong = true)
    k.pend[i]? = some a → a.op = .load → a.cls ≠ 0 → 0 < a.len →
      (free → covered → ∀ copy, exec (.performALoad c i copy) s
        = .next (gone.answer { a with fwd := forwardsOf s a } (List.replicate a.len 0) 0 false))
      ∧ (free → ¬ covered → exec (.performALoad c i false) s = .next (gone.joinHome { a with fwd := if a.strong then [] else forwardsOf s a }))
      ∧ (∀ d v, free → ¬ covered → a.strong = false → copyRead s k (s.keyNow a.loc) a.len = some (d, v) →
          exec (.performALoad c i true) s = .next (gone.answer { a with fwd := forwardsOf s a } d v false))
      ∧ (¬ free → ∀ copy, exec (.performALoad c i copy) s = .next s))
  ∧ (∀ (s : State) (c : CoreId) (i : Nat) (a : Acc) (d : List Byte),
    let k := s.core c
    k.pend[i]? = some a → a.op = .store d → a.cls ≠ 0 → a.core = c →
      let free := isAhead s a = false ∧ k.stamps.length < 64 ∧ (∀ e ∈ k.pend, e.seq < a.seq → overlaps s e a = false)
        ∧ (∀ e ∈ k.sidelog, e.seq < a.seq → overlaps s e a = false)
        ∧ (∀ e ∈ s.homeQ, e.core = c → e.seq < a.seq → overlaps s e a = true → e.op.writes = true ∧ e.waiting = none)
      (free → exec (.sendAStore c i) s = .next ((s.setCore c { k with
          pend := delNth k.pend i, stamps := k.stamps ++ [{ core := c, seq := a.seq, cls := a.cls, sc := a.sc, stamps := none }],
          copies := copyWrite s k.copies (s.keyNow a.loc) d [] }).joinHome a))
      ∧ (¬ free → exec (.sendAStore c i) s = .next s))
  ∧ (∀ (s : State) (a : Acc), ∃ n : Nat, s.cyc ≤ n ∧ ∃ t : Word, (s.joinHome a).homeQ = s.homeQ ++ [{ a with arr := t, cyc := n }]
      ∧ (s.joinHome a).cores = s.cores ∧ (s.joinHome a).mem = s.mem ∧ (s.joinHome a).leases = s.leases ∧ (s.joinHome a).gtc = s.gtc)
  ∧ (∀ (s : State) (i : Nat) (a : Acc) (l o key n : Nat),
    s.homeQ[i]? = some a → a.loc = .spad l o → mayServe s i = true → 0 < n → spadPlace s l o n = some key →
      let gone := { s with homeQ := delNth s.homeQ i }
      let w := (leaseAt s a.loc.key 0 n).w
      (a.op = .load → a.len = n → exec (.serveAtAHome i) s = .next (gone.answer a (s.readMem key n) w false))
      ∧ (∀ d, a.op = .store d → d.length = n → behindLog s a = false → ∃ t : State, exec (.serveAtAHome i) s = .next (t.partDone a)
          ∧ t.mem = (s.writeMem key d).mem ∧ t.homeQ = gone.homeQ ∧ (leaseAt t a.loc.key 0).w = a.arr + 1)
      ∧ (∀ code x y ret, a.op = .rmw code n x y ret → behindLog s a = false → ∃ t : State,
          exec (.serveAtAHome i) s = .next (if ret then t.answer a (s.readMem key n) w false else t.partDone a)
          ∧ t.mem = (s.writeMem key (leBytes n (rmwNew code n (leNat (s.readMem key n)) x.toNat y.toNat))).mem
          ∧ t.homeQ = gone.homeQ))
  ∧ (∀ (s : State) (i : Nat) (a : Acc), s.homeQ[i]? = some a → mayServe s i = false → exec (.serveAtAHome i) s = .next s)
  ∧ (∀ (s : State) (i : Nat) (a : Acc) (l o key : Nat),
    s.homeQ[i]? = some a → a.loc = .spad l o → a.waiting.isSome = true → mayServe s i = true → spadPlace s l o a.len = some key →
      let gone := { s with homeQ := delNth s.homeQ i }
      (∀ c, a.op = .ldf c →
        (isFull s key = true → exec (.feWaitEnd i) s = .next ((if c then gone.setFull key false else gone).answer a
          (s.readMem key 8) (leaseAt s a.loc.key 0 a.len).w false))
        ∧ (isFull s key = false → exec (.feWaitEnd i) s = .next s))
      ∧ (∀ v, a.op = .ste v →
        (isFull s key = false → ∃ t : State, exec (.feWaitEnd i) s = .next (t.partDone a) ∧ t.mem = (s.writeMem key (leBytes 8 v.toNat)).mem
          ∧ isFull t key = true ∧ t.homeQ = gone.homeQ)
        ∧ (isFull s key = true → exec (.feWaitEnd i) s = .next s)))

/-- R70, R72, R75, R77, R85, R86, R37: a returned stamp raises the horizons of its scopes and closes its entry; a copy dies
at its expiry and a home's table clears at E; a fence retires when its conditions hold, and a sequentially consistent
operation ends once it is visible and begins in its slot; the side log replays from its head; a tick adds one to the GTC. -/
def Obligations.StampAndLeaseSteps : Prop :=
  ∀ (s : State) (c : CoreId),
    let k := s.core c
    (∀ (i : Nat) (e : StampEnt) (st : Stamps), k.stamps[i]? = some e → e.stamps = some st →
      let hz := k.hz
      let wait' : Option Wait := match k.wait with
        | some (.home n w) => if e.sc = true ∧ n = e.seq then some (.scDone st.system w) else k.wait
        | x => x
      exec (.returnAStamp c i) s = .next (s.setCore c { k with
        stamps := delNth k.stamps i, soFloor := if e.cls = 0 then wmax k.soFloor st.system else k.soFloor, wait := wait',
        hz := if e.cls = 2 then { hz with uo := wmax hz.uo st.system } else { hz with
          core := wmax hz.core st.core, cluster := wmax hz.cluster st.cluster, device := wmax hz.device st.device,
          system := wmax hz.system st.system } }))
    ∧ (∀ (i : Nat) (e : StampEnt), k.stamps[i]? = some e → e.stamps = none → exec (.returnAStamp c i) s = .next s)
    ∧ (∀ (i : Nat) (e : Nat × Copy), k.copies[i]? = some e →
        (e.2.expiry.toNat ≤ s.gtc.toNat → exec (.expireALease c i) s = .next (s.setCore c { k with copies := delNth k.copies i }))
        ∧ (s.gtc.toNat < e.2.expiry.toNat → exec (.expireALease c i) s = .next s))
    ∧ (∀ (g : Nat) (l : Lease), tabGet s.leases g = some l →
        (l.e.toNat ≤ s.gtc.toNat → exec (.leaseTableClear g) s = .next { s with leases := tabSet s.leases g { l with m := 0 } })
        ∧ (s.gtc.toNat < l.e.toNat → exec (.leaseTableClear g) s = .next s))
    ∧ (∀ (scope q : Nat) (w : Fields), k.wait = some (.fence scope q w) →
        (fenceReady s c scope q = true → exec (.retireAFence c) s = .next (s.setCore c ((k.retireFence scope).finishHeld w (k.pc + 8))))
        ∧ (fenceReady s c scope q = false → exec (.retireAFence c) s = .next s))
    ∧ (∀ (v : Word) (w : Fields), k.wait = some (.scDone v w) →
        (v.toNat ≤ s.gtc.toNat → exec (.retireAFence c) s = .next (s.setCore c (k.finishHeld w (k.pc + 8))))
        ∧ (s.gtc.toNat < v.toNat → exec (.retireAFence c) s = .next s))
    ∧ (∀ (t : Word) (a : Acc) (g : Group) (w : Fields), k.wait = some (.slot t a g w) →
        (s.gtc.toNat < t.toNat → exec (.scSlot c) s = .next s)
        ∧ (t.toNat < s.gtc.toNat → exec (.scSlot c) s = .next (s.setCore c { k with wait := some (.slot (nextSlot s c) a g w) }))
        ∧ (t.toNat = s.gtc.toNat → mayPerform s a = true → (a.op.writes = true → k.stamps.length < 64) →
          exec (.scSlot c) s = .next ((s.setCore c { k with
            wait := some (.home a.seq w), groups := k.groups ++ [g],
            stamps := if a.op.writes then k.stamps ++ [{ core := c, seq := a.seq, cls := a.cls, sc := true, stamps := none }] else k.stamps,
            scRev := some t.toNat, copies := k.ownCopies s a }).joinHome a)))
    ∧ (k.sidelog = [] → exec (.sideLogReplay c) s = .next s)
    ∧ (∀ (a : Acc) (rest : List Acc) (d : List Byte) (t : State) (d' : List Byte) (v : Word) (p : Bool),
        k.sidelog = a :: rest → a.op = .store d → (∀ e ∈ s.homeQ, overlaps s e a = true → e.waiting = none) →
        stampsPending s (s.keyNow a.loc) a.len = false → (a.eng = .s ∨ a.eng = .v) →
        writeAt (s.modCore c (fun k => { k with
            sidelog := k.sidelog.filter (fun e => e != a)
            stamps := if heldElsewhere s c a.seq then k.stamps
              else k.stamps ++ [{ core := c, seq := a.seq, cls := a.cls, sc := a.sc, stamps := none }] }))
          (whoOf a) a.loc a.cls a.gr s.gtc d = .done t d' v p →
        exec (.sideLogReplay c) s = .next (t.partDone a))
    ∧ (∃ cl : Vector Cluster 16, exec .tick s = .next { s with gtc := s.gtc + 1, clusters := cl }
        ∧ ∀ i : Fin 16, cl[i].holder = s.clusters[i].holder ∧ cl[i].cmds = s.clusters[i].cmds ∧ cl[i].last = s.clusters[i].last
          ∧ cl[i].grantTick = s.clusters[i].grantTick)

/-- R15, R17, R31, R87, R182, R184: an operation at the head of its queue starts once its token and the stores before it
allow, and takes the token; a queue that is not its own ends it with ENGINE_FAULT and moves no token; a wait for a token
starts a clock, ends with the token, and after 2^20 ticks is a trap of S and a fault of any other engine,
whose push is still made unless the wait was for room for it; an operation
whose work is over completes with its push once it finds room. A full/empty wait of 2^20 ticks traps.
The status of a wrong queue and the records of token time-outs are the model's reading (log entry 15). -/
def Obligations.EngineSteps : Prop :=
  ∀ (s : State) (c : CoreId),
    let k := s.core c
    (∀ (e : Eng) (o : EOp), k.headOp e = some o → o.started = false → o.popped = false →
      (k.queuesOk e (hPop o.bits) (hPush o.bits) = false →
        exec (.engineOperationStart c e) s = .next (s.setHead c e { (o.fail .engineFault) with noTok := true, gstatus := if e == .g then 5 else 0 }))
      ∧ (k.queuesOk e (hPop o.bits) (hPush o.bits) = true → k.popReady (hPop o.bits) = false → o.tokStart = none →
        exec (.engineOperationStart c e) s = .next (s.setHead c e { o with tokStart := some s.gtc }))
      ∧ (k.queuesOk e (hPop o.bits) (hPush o.bits) = true → k.popReady (hPop o.bits) = true →
        (∀ a ∈ unperformed s c, a.seq < o.id → a.op.writes = true → ∀ x, a.loc ≠ .spad k.lid.toNat x) →
        (e = .m → holdsLease s c = true ∧ arrayOver s (s.cluster (clusterOf c)) = false) →
        ∃ t o', exec (.engineOperationStart c e) s = .next t ∧ (t.core c).headOp e = some o' ∧ o'.started = true ∧ o'.id = o.id
          ∧ (t.core c).tok = (k.pop (hPop o.bits)).tok ∧ t.mem = s.mem ∧ (o.live = false → o'.fin = true))
      ∧ (o.fin = false → o.tokStart.isSome = true → k.popReady (hPop o.bits) = true →
        exec (.tokenWaitEnd c e) s = .next (s.setHead c e { o with tokStart := none }))
      ∧ (∀ t0, o.tokStart = some t0 →
        (t0.toNat + 2 ^ 20 ≤ s.gtc.toNat → exec (.tokenTimeout c e) s = .next (s.setHead c e { (o.fail .tokenTimeout) with
          tokStart := none, noTok := o.fin, gstatus := if e == .g then 5 else 0 }))
        ∧ (s.gtc.toNat < t0.toNat + 2 ^ 20 → exec (.tokenTimeout c e) s = .next s)))
    ∧ (∀ (e : Eng) (o : EOp), e ≠ .g → k.headOp e = some o → opOver s c o = true → o.status = 0 → o.gstatus = 0 → o.clamp = false → o.noTok = false →
      (k.pushReady (hPush o.bits) = true →
        ∃ t, exec (.engineOperationComplete c e) s = .next t ∧ (t.core c).queueOf e = (k.queueOf e).tail
          ∧ (t.core c).tok = (k.push (hPush o.bits)).tok ∧ (t.core c).hz = (k.raiseHorizons (if o.uoOnly then 2 else 1) o.stamps).hz
          ∧ (t.core c).deferred = k.deferred ∧ t.mem = s.mem)
      ∧ (k.pushReady (hPush o.bits) = false → o.tokStart = none →
        exec (.engineOperationComplete c e) s = .next (s.setHead c e { o with tokStart := some s.gtc })))
    ∧ (∀ (t0 : Word) (q : BitVec 3) (push : Bool), k.wait = some (.token t0 q push) →
      ((if push then k.pushReady q else k.popReady q) = true → exec (.tokenWaitEnd c .s) s = .next (s.setCore c { k with wait := none }))
      ∧ ((if push then k.pushReady q else k.popReady q) = false → exec (.tokenWaitEnd c .s) s = .next s)
      ∧ (t0.toNat + 2 ^ 20 ≤ s.gtc.toNat → exec (.tokenTimeout c .s) s = .next (s.trapNow c .tokenTimeout (q.zeroExtend 64)))
      ∧ (s.gtc.toNat < t0.toNat + 2 ^ 20 → exec (.tokenTimeout c .s) s = .next s))
    ∧ (∀ (n : Nat) (w : Fields) (a : Acc) (t0 : Word), k.wait = some (.home n w) → (∀ b ∈ s.homeQ, b.core = c → b.seq = n → b = a) →
      a ∈ s.homeQ → a.core = c → a.seq = n → a.waiting = some t0 → ((∃ x, a.op = .ldf x) ∨ (∃ v, a.op = .ste v)) →
      (t0.toNat + 2 ^ 20 ≤ s.gtc.toNat → ∃ u : State, exec (.feTimeout c) s = .next (u.trapNow c .feTimeout (k.rs w.a + w.imm.signExtend 64))
        ∧ u.mem = s.mem ∧ u.full = s.full ∧ a ∉ u.homeQ ∧ (u.core c).s = k.s)
      ∧ (s.gtc.toNat < t0.toNat + 2 ^ 20 → exec (.feTimeout c) s = .next s))
    ∧ (∀ (x : VEntry) (rest : List VEntry) (w : Fields) (n : Nat) (a : Acc) (t0 : Word), (∀ m w', k.wait ≠ some (.home m w')) → k.vq = x :: rest →
      (x.ins = .vldf w ∨ x.ins = .vste w) →
      x.fe = some n → (∀ b ∈ s.homeQ, b.core = c → b.seq = n → b = a) → a ∈ s.homeQ → a.core = c → a.seq = n → a.waiting = some t0 →
      x.seq ≤ n →
      (t0.toNat + 2 ^ 20 ≤ s.gtc.toNat → exec (.feTimeout c) s = .next (s.vecTrap c .feTimeout (x.a + w.imm.signExtend 64))
        ∧ (s.rewind c).mem = s.mem ∧ (s.rewind c).full = s.full ∧ a ∉ (s.rewind c).homeQ)
      ∧ (s.gtc.toNat < t0.toNat + 2 ^ 20 → exec (.feTimeout c) s = .next s))

/-- R38, R286 to R289, R294, R295, R299: a new iteration starts in the state of R38; a saved one resumes from its frame; a
waiting node ages; a pre-emption saves its iteration at a boundary; a migration ends with the logical ids swapped; a
cancelled sibling that is gone gives its slot back, also one whose group was freed meanwhile.
What a saved iteration keeps beyond the spec's frame is the model's choice (log entry 33). -/
def Obligations.SchedulerSteps : Prop :=
  (∀ (s : State) (n : Nat) (x : Node) (c : CoreId), nextPick s = some (.fresh n c) → s.node n = some x →
    ∃ t, exec .dispatch s = .next t
      ∧ (let k := t.core c
         k.pc = BitVec.ofNat 64 x.entry ∧ k.handler = false ∧ k.s[0] = 0 ∧ k.s[5] = BitVec.ofNat 64 x.nextOrd
         ∧ k.s[6] = BitVec.ofNat 64 x.ctx ∧ k.s[7] = BitVec.ofNat 64 n ∧ k.s[8] = (if x.join then x.status else 0)
         ∧ k.s[9] = (if x.sib.isSome then BitVec.ofNat 64 x.slot else BitVec.allOnes 64)
         ∧ k.s[62] = BitVec.ofNat 64 (x.pbsp * 16384) ∧ k.s[10] = 0 ∧ k.s[63] = 0
         ∧ k.p[0] = BitVec.allOnes 256 ∧ k.p[1] = 0 ∧ k.p[15] = 0 ∧ k.h = Vector.replicate 16 0 ∧ k.tqcfg = x.tqcfg ∧ k.tvec = x.tvec
         ∧ k.tok = Vector.replicate 8 0 ∧ k.ae = 0 ∧ k.fmode = 0 ∧ k.status = 0 ∧ k.lseed = 0 ∧ k.lantern = 0xACE1
         ∧ ∃ it, k.iter = some it ∧ it.ctx = x.ctx ∧ it.node = n ∧ it.ord = x.nextOrd ∧ it.cancelled = false ∧ it.sib = x.sib)
      ∧ t.node n = some { x with nextOrd := x.nextOrd + 1, served := (s.core c).lid.toNat, clock := s.gtc, running := x.running + 1 })
  ∧ (∀ (s : State) (v : Saved) (c : CoreId), nextPick s = some (.saved v c) →
    let ia := saveFrameIa s v.it.ctx v.frame
    ∃ t, exec (.resume c) s = .next t
      ∧ (let k := t.core c
         k.pc = frameWord s ia 0x480 ∧ k.handler = (frameWord s ia 0x488).getLsbD 0
         ∧ (∀ i : Fin 64, k.s[i] = frameWord s ia (8 * i.val)) ∧ (∀ i : Fin 16, k.h[i] = frameWord s ia (0x400 + 8 * i.val))
         ∧ k.lid = (s.core c).lid ∧ k.icache = [] ∧ k.wcache = [] ∧ k.copies = []
         ∧ k.iter = some { v.it with since := s.gtc, disp := s.sched.dispNo })
      ∧ v ∉ t.sched.saved)
  ∧ (∀ (s : State) (n : BitVec 12) (x : Node), s.node n.toNat = some x → isWaiting s n.toNat x = true → x.ready.isSome = true → x.ep < 3 →
    (x.clock.toNat + 65536 ≤ s.gtc.toNat → exec (.agingStep n) s = .next (s.setNode n.toNat (some { x with ep := x.ep + 1, clock := s.gtc })))
    ∧ (s.gtc.toNat < x.clock.toNat + 65536 → exec (.agingStep n) s = .next s))
  ∧ (∀ (s : State) (c : CoreId) (it : Iter) (tag : Nat),
    let k := s.core c
    k.preReq = some tag → k.iter = some it →
      (it.persist = true ∨ hasFrame s c = false → exec (.preemption c) s = .next s)
      ∧ (it.persist = false → hasFrame s c = true →
        (s.banks.jobs.any (fun j => j.core == c) = true → exec (.preemption c) s = .next (s.stopJobs c true))
        ∧ (∀ f, s.banks.jobs.any (fun j => j.core == c) = false → s.bridge.reqs.any (fun e => feAsked s c e.2) = false →
          atBoundary (s.abandonFe c) c = true → freeFrame (s.abandonFe c) it.ctx = some f →
          ∃ t v, exec (.preemption c) s = .next t ∧ (t.core c).iter = none ∧ (t.core c).preReq = none
            ∧ (t.core c).tok = Vector.replicate 8 0 ∧ (t.core c).lid = k.lid
            ∧ t.sched.saved = s.sched.saved ++ [v] ∧ v.it.node = it.node ∧ v.it.ord = it.ord ∧ v.frame = f ∧ v.lid = k.lid.toNat
            ∧ v.core.pc = ((s.abandonFe c).core c).pc ∧ v.core.s = ((s.abandonFe c).core c).s)
        ∧ (s.banks.jobs.any (fun j => j.core == c) = false → s.bridge.reqs.any (fun e => feAsked s c e.2) = false →
          atBoundary (s.abandonFe c) c = false → exec (.preemption c) s = .next s)))
  ∧ (∀ (s : State) (c : CoreId) (m : Move), s.sched.moves.find? (fun m => m.src == c) = some m → m.src ≠ m.dst → memWf s.mem = true →
    let a := s.core m.src
    let b := s.core m.dst
    ∃ t, exec (.migrationRelease c) s = .next t
      ∧ (t.core m.dst).lid = a.lid ∧ (t.core m.src).lid = b.lid ∧ (t.core m.dst).pc = a.pc ∧ (t.core m.dst).s = a.s
      ∧ (t.core m.dst).p = a.p ∧ (t.core m.dst).h = a.h ∧ (t.core m.dst).iter = a.iter ∧ (t.core m.src).iter = none
      ∧ (∀ o, o < 2 ^ 21 → memGet t.mem (regionKey m.dst o) = memGet s.mem (regionKey m.src o) ∧ memGet t.mem (regionKey m.src o) = 0)
      ∧ (∀ c', c' ≠ m.src → c' ≠ m.dst → t.core c' = s.core c') ∧ t.sched.moves = s.sched.moves.filter (fun x => x.src != c))
  ∧ (∀ (s : State) (g : BitVec 6) (i : BitVec 4),
    let gone (n : Nat) : Prop := sibGone s (g.toNat, i.toNat) = true ∧ (s.slot n).st ≠ .handing
    let freed (n ctx : Nat) : State := if (s.slot n).st ≠ .free ∧ (s.slot n).ctx = ctx then s.releaseSlot n else s
    (∀ b, s.sched.owed = [] → s.ballot g.toNat = some b →
      let n := b.slots.getD i.toNat 0
      let done := b.cancelled.testBit i.toNat = true ∧ b.released.testBit i.toNat = false ∧ gone n
      (done → exec (.siblingRelease g i) s
        = .next ((freed n b.ctx).setBallot g.toNat (some { b with released := b.released ||| 2 ^ i.toNat })))
      ∧ (¬ done → exec (.siblingRelease g i) s = .next s))
    ∧ (∀ o : SibOwed, s.sched.owed = [o] → o.grp = g.toNat → o.idx = i.toNat →
      (gone o.slot → exec (.siblingRelease g i) s
        = .next { freed o.slot o.ctx with sched := { (freed o.slot o.ctx).sched with owed := [] } })
      ∧ (¬ gone o.slot → exec (.siblingRelease g i) s = .next s)))

/-- R221, R225, R277, R353, R354, R356, R357: the steps of a relocation whose entry no RDC holds; the end of a load held by a page fault; the
migration engine's epoch and commit.
That a chunk, and a migrated page, is copied in one step, and what the spec leaves open of an epoch, is the model's
reading (log entries 44 and 45). -/
def Obligations.PageAndRelocationSteps : Prop :=
  (∀ (s : State) (ctx id : Nat) (tag : BitVec 32), s.base.reloc = some (ctx, id, tag) →
    let key := objKey ctx id
    let o := s.obj key
    let old := o.base * 512 + 512 * o.prog
    o.st = .relocating → s.recallEntries [key] = none →
      (o.prog < o.size → o.busy = false → exec .relocChunk s = .next { s.setObj key { o with busy := true } with
        cores := s.cores.map (fun k => { k with copies := dropCopies k.copies old 512 }) })
      ∧ (o.prog < o.size → o.busy = true → accessTo s old 512 = true → exec .relocChunk s = .next s)
      ∧ (∀ t d v p, o.prog < o.size → o.busy = true → accessTo s old 512 = false →
          copyPieces s old (o.newBase * 512 + 512 * o.prog) 16 = .done t d v p →
          exec .relocChunk s = .next (t.setObj key { o with busy := false, prog := o.prog + 1 }))
      ∧ (o.prog = o.size → o.busy = false → ringFull s.base.cq = false →
          ∃ t : State, exec .relocEnd s = .next (t.completion tag 0 none) ∧ t.base.reloc = none
            ∧ t.obj key = { o with st := .present, base := o.newBase, busy := false, prog := 0, newBase := 0 })
      ∧ (o.prog ≠ o.size → exec .relocEnd s = .next s))
  ∧ (∀ (s : State) (i : Nat) (a : Acc) (t0 : Word), s.homeQ[i]? = some a → a.waiting = some t0 → stillFaults s a.loc = true →
      (s.gtc.toNat < t0.toNat + 1050000 → exec (.pageFaultLoad i) s = .next s)
      ∧ (t0.toNat + 1050000 ≤ s.gtc.toNat → a.op = .load → ∃ t, exec (.pageFaultLoad i) s = .next t ∧ a ∉ t.homeQ
        ∧ (t.core a.core).deferred = (s.core a.core).deferred ++ [{ cause := .pageFaultLoad, tval := BitVec.ofNat 64 ((heldIa a.loc).getD (Config.freeWord s.free).toNat), page := true }]
        ∧ (t.core a.core).s = (s.core a.core).s))
  ∧ (∀ (s : State),
      (s.gtc.toNat < s.xlat.nextEpoch.toNat → exec .migrationEpoch s = .next s)
      ∧ (s.xlat.nextEpoch.toNat ≤ s.gtc.toNat → s.base.migcfg.getLsbD 63 = false →
          let z := 2 ^ (s.base.migcfg.toNat / 2 ^ 58 % 32)
          exec .migrationEpoch s = .next { s with xlat := { s.xlat with nextEpoch := BitVec.ofNat 64 ((s.gtc.toNat / z + 1) * z) } }))
  ∧ (∀ (s : State) (page : Nat) (m : Migration) (l : Leaf), s.xlat.migs.find? (fun m => m.page == page) = some m →
      tabGet s.xlat.pages page = some l → (∀ e ∈ pageDir s page l, e.2.st ≠ .hE ∧ e.2.st ≠ .hA ∧ isTransient e.2.st = false) →
      ∃ t l', exec (.migrateCommit page) s = .next t ∧ tabGet t.xlat.pages page = some l'
        ∧ lMig l' = false ∧ lTier l' = (if m.replica then 2 else 0) ∧ (∀ x ∈ t.xlat.migs, x.page ≠ page)
        ∧ (m.replica = true → l'.w1 = BitVec.ofNat 64 (m.frames.headD 0 * 65536)))

/-- R324, R325, R327, R328, R330, R331, R335, R366: what the home's directory does with the peer's requests, snoop answers
and write-backs, a grain's refusal and reservation, and the recalls of an AK store. A bridge that is down carries nothing.
What a grant carries as W and X is the model's reading (log entry 55). -/
def Obligations.HomeDirectory : Prop :=
  (∀ (s : State) (f : Flit), s.bridge.up = false → ∀ i ∈ [Instr.reqs f, .reqx f, .requ f, .reqwt f, .reqstrong f, .wb f, .datas f,
      .datae f, .datam f, .gntu f, .cmpwt f, .cmpstrong f, .refuse f, .wback f, .fwds f, .fwdx f, .inv f, .snprspdata f, .snprsps f,
      .snprspi f, .invack f], exec i s = .next s)
  ∧ (∀ (s : State) (f : Flit), s.bridge.up = true → Quiet s → dirAt s f.ia = none →
    let gr := f.grain.toNat
    let g := grBase f.ia gr
    let reply : Flit := { flit0 with port := f.port, tag := f.tag, ia := g, grain := BitVec.ofNat 2 gr }
    let l := leaseAt s g gr
    let x := wmax s.gtc l.e + 1
    let sends (r : Out) (m : Flit) (st : DirSt) : Prop := ∃ t e, r = .next t ∧ t.bridge.out = s.bridge.out ++ [m]
      ∧ tabGet t.bridge.dir g = some e ∧ e.st = st ∧ e.p = true ∧ e.h = false ∧ t.mem = s.mem ∧ t.bridge.linkHeld = []
    dirIn s g (grSize gr) = [] →
      (∀ ks, pageKeys s g (grSize gr) true = .keys ks false →
        let d := homeBytes s g ks
        sends (exec (.reqs f) s) { reply with msg := 0x08, stamp := x, data := d, w := l.w } .hE
        ∧ sends (exec (.reqx f) s) { reply with msg := 0x09, stamp := x, data := d, w := l.w } .hE
        ∧ sends (exec (.requ f) s) { reply with msg := 0x09, stamp := x, data := d, w := l.w } .hE)
      ∧ (∀ ks, pageKeys s g (grSize gr) true = .keys ks true →
        let m : Flit := { reply with msg := 0x07, cc := true, stamp := l.w, data := homeBytes s g ks }
        sends (exec (.reqs f) s) m .hS ∧ sends (exec (.reqx f) s) m .hS ∧ sends (exec (.requ f) s) m .hS))
  ∧ (∀ (s : State) (f : Flit) (g : Nat) (d : Dir), s.bridge.up = true → dirAt s f.ia = some (g, d) →
    let refused (r : Out) : Prop :=
      let old := s.bridge.waiters.find? (isWaiter f g)
      let k := (old.map (·.count)).getD 0
      ∃ t, r = .next t
        ∧ t.bridge.out = s.bridge.out ++ [{ flit0 with msg := 0x0D, port := f.port, tag := f.tag, ia := f.ia, grain := f.grain, opf := BitVec.ofNat 16 k }]
        ∧ (∃ w ∈ t.bridge.waiters, w.tag = f.tag.toNat ∧ w.port = f.port ∧ w.grain = g ∧ w.count = k + 1)
        ∧ (tabGet s.bridge.resv g = none → k < 7 → tabGet t.bridge.resv g = none)
        ∧ (tabGet s.bridge.resv g = none → 7 ≤ k → ∃ r, tabGet t.bridge.resv g = some r ∧ r.since = s.gtc)
        ∧ t.bridge.dir = s.bridge.dir ∧ t.bridge.linkHeld = s.bridge.linkHeld ∧ t.mem = s.mem
    let other := ∀ r, tabGet s.bridge.resv g = some r → isHolder f r = false
    (other → isTransient d.st = true ∨ stampsPending s g (grSize d.gr) = true ∨ reservedAway s f g (grSize d.gr) = true →
      refused (exec (.reqs f) s) ∧ refused (exec (.reqx f) s)
      ∧ (d.st ≠ .tInv ∨ d.p = false ∨ d.next ≠ none ∨ d.req = none → refused (exec (.requ f) s)))
    ∧ (∀ w, other → d.st = .tInv → d.p = true → d.next = none → d.req = some w → w.flit = none →
        w.cyc = (s.arrive (if f.port then 3 else 2)).2.1 →
        ∃ t, exec (.requ f) s = .next t ∧ t.bridge.out = s.bridge.out ∧ t.bridge.linkHeld = s.bridge.linkHeld ∧ t.mem = s.mem
          ∧ tabGet t.bridge.dir g = some { d with next := some { f with msg := 0x03, conv := true } })
    ∧ (d.needP = true →
      let taken := (s.homeTake g f.data).raiseW (sectorsOf g d.gr) (if f.dirty then f.w + 2 else 0)
      (d.st = .tFS →
        exec (.snprspdata f) s = .next (taken.endTransient g { d with p := true } (if f.dirty then .hO else .hS))
        ∧ exec (.snprsps f) s = .next (s.endTransient g { d with p := true } .hS))
      ∧ (d.st = .tFX → exec (.snprspdata f) s = .next (taken.endTransient g { d with p := false } .hS))
      ∧ (d.st = .tFX ∨ d.st = .tFS → f.wbpend = false → exec (.snprspi f) s = .next (s.endTransient g { d with p := false } .hS))
      ∧ (d.st = .tFX ∨ d.st = .tFS → f.wbpend = true → tabGet s.bridge.stale (grBase f.ia f.grain.toNat) = none →
        exec (.snprspi f) s = .next (s.setDir g (some { d with needP := false })))
      ∧ (d.st = .tInv → d.needH = true → exec (.invack f) s = .next (s.setDir g (some { d with p := false, needP := false })))
      ∧ (d.st = .tInv → d.needH = false → exec (.invack f) s
          = .next ((dirAcked g s.bridge.swaits.length s).endTransient g { d with p := false, needP := false } .hS)))
    ∧ (d.needP = false → exec (.invack f) s = .next s ∧ exec (.snprsps f) s = .next s ∧ exec (.snprspdata f) s = .next s
        ∧ (f.wbpend = false → exec (.snprspi f) s = .next s))
    ∧ (∀ n, f.wbpend = true → tabGet s.bridge.stale (grBase f.ia f.grain.toNat) = some (n + 1) → exec (.snprspi f) s
        = .next { s with bridge := { s.bridge with stale := tabPut s.bridge.stale (grBase f.ia f.grain.toNat) (if n = 0 then none else some n) } })
    ∧ (let ack : Flit := { flit0 with msg := 0x0E, port := f.port, tag := f.tag, ia := f.ia, grain := f.grain }
       let take (s : State) : State := (s.homeTake g f.data).raiseW (sectorsOf g d.gr) (f.w + 2)
       (d.st = .hE ∨ d.st = .hO → exec (.wb f) s = .next (((take s).endTransient g { d with p := false } .hS).send ack))
       ∧ (d.st = .tFS ∨ d.st = .tFX → d.needP = false → exec (.wb f) s = .next (((take s).send ack).endTransient g { d with p := false } .hS))
       ∧ (d.st = .hS ∨ d.st = .hA ∨ d.st = .tInv ∨ d.st = .tBS → exec (.wb f) s = .next (s.send ack))))
  ∧ (∀ (s : State) (g : Nat) (d : Dir) (st : DirSt), d.next = none →
    let rest : Dir := { d with st := st, needP := false, needH := false, req := none, next := none }
    let left := s.setDir g (if d.p = true ∨ d.h = true then some rest else none)
    (d.req = none ∨ (∃ w, d.req = some w ∧ w.flit = none) → s.endTransient g d st = left)
    ∧ (∀ w f, d.req = some w → w.flit = some f →
      (f.msg = 0x01 → s.endTransient g d st = left.giveRecorded f w.cyc g d.gr d.h .shared)
      ∧ (f.msg = 0x02 → s.endTransient g d st = left.giveRecorded f w.cyc g d.gr d.h .exclusive)))
  ∧ (∀ (s : State) (g : Nat) (r : Resv), tabGet s.bridge.resv g = some r →
    (s.gtc.toNat < r.since.toNat + 8192 → exec (.reservationEnd g) s = .next s)
    ∧ (r.since.toNat + 8192 ≤ s.gtc.toNat → (∀ w ∈ s.bridge.waiters, w.grain = g → w.tag ≠ r.tag → w.count < 8) →
        (∀ w ∈ s.bridge.waiters, w.grain = g → w.tag = r.tag → w.port = r.port) →
        ∃ t, exec (.reservationEnd g) s = .next t ∧ t.bridge.resv = tabDel s.bridge.resv g))
  ∧ (∀ (s : State) (c : CoreId) (i : Nat) (x : StampWait), s.bridge.swaits[i]? = some x →
    let left := x.left.filter (· != clusterOf c)
    (clusterOf c ∉ x.left → exec (.akRecallAck c i) s = .next s)
    ∧ (clusterOf c ∈ x.left → ∃ t, exec (.akRecallAck c i) s = .next t
      ∧ (∀ p, p < 4 → (t.core (coreAt (clusterOf c) p)).copies
          = (s.core (coreAt (clusterOf c) p)).copies.filter (fun e => !x.secs.contains e.1))
      ∧ (left ≠ [] ∨ x.dirs ≠ [] → t.bridge.swaits = setNth s.bridge.swaits i { x with left := left })
      ∧ (left = [] → x.dirs = [] → t.bridge.swaits = delNth s.bridge.swaits i)))

/-- R324, R326, R327, R335, R365: what the remote-data cache does with grants, snoops and refusals, and how the completions of
this device's write-through and strong accesses end them.
A store to a grain in state O is a write-back and a new request in this model (log entry 19). -/
def Obligations.RemoteDataCache : Prop :=
  ∀ (s : State) (f : Flit), s.bridge.up = true →
    (linkReqOf s f = none → exec (.datas f) s = .next s ∧ exec (.datae f) s = .next s ∧ exec (.datam f) s = .next s ∧ exec (.gntu f) s = .next s
      ∧ exec (.wback f) s = .next s ∧ exec (.cmpwt f) s = .next s ∧ exec (.cmpstrong f) s = .next s ∧ exec (.refuse f) s = .next s)
    ∧ (∀ r, linkReqOf s f = some r →
      let free := { s with bridge := { s.bridge with reqs := tabDel s.bridge.reqs f.tag.toNat } }
      let gr := f.grain.toNat
      let grant (y : Out) (st : RdcSt) (w floor : Word) (cc : Bool) : Prop := ∃ t x, y = .next t ∧ tabGet t.bridge.rdc (grBase f.ia gr) = some x
        ∧ x.st = st ∧ x.data = f.data ∧ x.w = w ∧ x.floor = floor ∧ x.cc = cc ∧ x.gr = gr
        ∧ t.bridge.reqs = free.bridge.reqs ∧ t.mem = s.mem
      ((∀ e ∈ s.bridge.rdc, bytesMeet e.1 (grSize e.2.gr) (grBase f.ia gr) (grSize gr) = true → e.2.st = .s ∨ isTransientRdc e.2.st = true) →
        grant (exec (.datas f) s) .s (f.stamp + 2) 0 f.cc ∧ grant (exec (.datae f) s) .e (f.w + 2) f.stamp false
        ∧ grant (exec (.datam f) s) .m (f.w + 2) f.stamp false)
      ∧ (∀ x, tabGet s.bridge.rdc r.flit.ia = some x →
          exec (.wback f) s = .next (if x.st = .xI then { free with bridge := { free.bridge with rdc := tabDel s.bridge.rdc r.flit.ia } } else free))
      ∧ (∀ g x, rdcAt s f.ia = some (g, x) → x.st = .sM → ∃ t y, exec (.gntu f) s = .next t ∧ tabGet t.bridge.rdc g = some y
          ∧ y.st = .m ∧ y.floor = f.stamp ∧ y.data = x.data)
      ∧ exec (.refuse f) s = .next { s with bridge := { s.bridge with reqs := tabSet s.bridge.reqs f.tag.toNat { r with k := f.opf.toNat + 1, retry := some (s.gtc + BitVec.ofNat 64 (64 * 2 ^ min f.opf.toNat 6)) } } }
      ∧ (∀ a, entryOf free r = some a →
          let gone := free.dropAcc a
          let stamped (u : State) : State :=
            let who : Who := { core := r.core, eng := r.eng, seq := r.seq }
            if homeAt u r.flit.ia = .peer then u.stampOwn who r.secs a.cls a.arr [] (f.stamp + 2) else u.giveStamps who (flatStamps (f.stamp + 2))
          exec (.cmpwt f) s = .next ((stamped gone).partDone a)
          ∧ (f.wd = true → exec (.cmpstrong f) s = .next (free.unissue a))
          ∧ (f.wd = false → a.op = .load → isBlock r.flit = false →
              exec (.cmpstrong f) s = .next (gone.answer a ((leBytes 8 f.mask.toNat).take a.len) (f.w + 2) false))
          ∧ (∀ code n x y, f.wd = false → a.op = .rmw code n x y true → exec (.cmpstrong f) s
              = .next ((stamped (gone.modCore a.core (fun k => { k with copies := dropCopies k.copies (gone.keyNow a.loc) a.len }))).answer a
                ((leBytes 8 f.mask.toNat).take n) (f.w + 2) false))))
    ∧ (∀ (i : Nat) (r : LinkReq) (t0 : Word), tabGet s.bridge.reqs i = some r → r.retry = some t0 →
        (s.gtc.toNat < t0.toNat → exec (.refuseRetry i) s = .next s)
        ∧ (t0.toNat ≤ s.gtc.toNat → exec (.refuseRetry i) s
            = .next ({ s with bridge := { s.bridge with reqs := tabSet s.bridge.reqs i { r with retry := none } } }.send r.flit)))
    ∧ (let reply (g gr : Nat) (m : BitVec 8) : Flit := { flit0 with msg := m, port := f.port, tag := f.tag, ia := g, grain := BitVec.ofNat 2 gr }
       let gives (r : Out) (m : Flit) (g : Nat) (x : Option RdcGrain) : Prop := ∃ t, r = .next t ∧ t.bridge.out = s.bridge.out ++ [m]
         ∧ tabGet t.bridge.rdc g = x ∧ t.bridge.linkHeld = s.bridge.linkHeld ∧ t.mem = s.mem
       let held (r : Out) (m : BitVec 8) : Prop := ∃ t x, r = .next t ∧ t.bridge.linkHeld = s.bridge.linkHeld ++ [x] ∧ x.flit = { f with msg := m }
         ∧ t.bridge.out = s.bridge.out ∧ t.bridge.rdc = s.bridge.rdc ∧ t.mem = s.mem
       let ack (g gr : Nat) : Flit := { (reply g gr 0x15) with stamp := s.gtc }
       (∀ g, rdcAt s f.ia = none → tabGet s.bridge.rdc g = none → gives (exec (.fwds f) s) (reply f.ia f.grain.toNat 0x14) g none
        ∧ (leasesOver s f.ia f.grain.toNat = true →
            gives (exec (.fwdx f) s) (reply f.ia f.grain.toNat 0x14) g none
            ∧ gives (exec (.inv f) s) (ack f.ia f.grain.toNat) g none))
       ∧ (∀ g x, rdcAt s f.ia = some (g, x) → tabGet s.bridge.rdc g = some x →
        let data : Flit := { (reply g x.gr 0x12) with dirty := isDirty x, data := x.data, w := rdcW s g x }
        (isWanted s x = false →
          (x.st = .m ∨ x.st = .o → gives (exec (.fwds f) s) data g (some { x with st := .o }))
          ∧ (x.st = .e → gives (exec (.fwds f) s) data g (some { x with st := .s })))
        ∧ (x.st = .s ∨ x.st = .sM → gives (exec (.fwds f) s) (reply g x.gr 0x13) g (some x))
        ∧ (x.st = .xI → gives (exec (.fwds f) s) { (reply g x.gr 0x14) with wbpend := true } g (some x))
        ∧ (isWanted s x = false → stampsPending s g (grSize x.gr) = false → leasesOver s g x.gr = true →
          (x.st = .m ∨ x.st = .o ∨ x.st = .e → gives (exec (.fwdx f) s) data g none ∧ gives (exec (.inv f) s) data g none)
          ∧ (x.st = .s → gives (exec (.inv f) s) (ack g x.gr) g none)
          ∧ (x.st = .sM → gives (exec (.inv f) s) (ack g x.gr) g (some { x with st := .iM, data := [] })))
        ∧ (isWanted s x = true → held (exec (.fwds f) s) 0x0F ∧ held (exec (.fwdx f) s) 0x10 ∧ held (exec (.inv f) s) 0x11)
        ∧ ((∃ n ∈ sectorsOf g x.gr, ∃ l, tabGet s.leases n = some l ∧ l.ak = false ∧ s.gtc.toNat < l.e.toNat) →
            held (exec (.inv f) s) 0x11 ∧ held (exec (.fwdx f) s) 0x10)))

/-- R332, R364 to R368: accesses of the peer performed here; a sound flit is its message and a broken one retrains its
port; bridge-up, the slot wheel, and ports that go down and come up. -/
def Obligations.BridgeLink : Prop :=
  (∀ (s : State) (f : Flit), s.bridge.up = true →
    let wt : Flit := { f with msg := 0x04 }
    let st : Flit := { f with msg := 0x05 }
    let n := f.opf.toNat % 32
    let size := match f.opf.toNat / 64 % 8 with | 0 => 1 | 1 => 2 | 2 => 4 | _ => 8
    let cmp (m : BitVec 8) (v : Nat) (stamp w : Word) : Flit :=
      { flit0 with msg := m, port := f.port, tag := f.tag, ia := f.ia, stamp := stamp, mask := BitVec.ofNat 64 v, w := w }
    let does (r : Out) (mem : List Host.Cell) (m : Flit) : Prop := ∃ t, r = .next t ∧ t.mem = mem ∧ t.bridge.out = s.bridge.out ++ [m]
      ∧ t.bridge.linkHeld = s.bridge.linkHeld
    (Quiet s → lineBusy s wt = false →
      (f.mask = 0 → does (exec (.reqwt f) s) s.mem (cmp 0x0B 0 (s.gtc + 1) 0))
      ∧ (∀ l o key, f.mask ≠ 0 → locOfIa s f.ia 0 = some (.spad l o) → isMoving s (.spad l o) = false → f.data.length = 64 →
          spadPlace s l o 64 = some key →
          does (exec (.reqwt f) s) (s.writeMemM key f.data (maskList f.mask)).mem (cmp 0x0B 0 (s.gtc + 1) 0)))
    ∧ (lineBusy s wt = true → ∃ t, exec (.reqwt f) s = .next t ∧ t.bridge.linkHeld = s.bridge.linkHeld ∧ t.mem = s.mem
        ∧ t.bridge.out = (s.refuse wt (lineOf s wt) (lineGr s wt)).bridge.out)
    ∧ ((11 ≤ n ∧ n ≤ 14) ∨ 25 ≤ n ∨ (n ≠ 24 ∧ f.opf.toNat / 2 ^ 12 ≠ 0) → exec (.reqstrong f) s = .next (s.badFlit f.port))
    ∧ (n = 24 → exec (.reqstrong f) s = .next (s.withdraw st))
    ∧ (∀ l o key, Quiet s → lineBusy s st = false → f.opf.toNat / 2 ^ 12 = 0 → f.opf.toNat / 64 % 8 ≠ 7 → locOfIa s f.ia 0 = some (.spad l o) →
        isMoving s (.spad l o) = false → spadPlace s l o size = some key →
        let old := leNat (s.readMem key size)
        let w := (leaseAt s (Loc.spad l o).key 0 size).w
        (n = 15 → viewAt s (Loc.spad l o).key size = none → does (exec (.reqstrong f) s) s.mem (cmp 0x0C old w w))
        ∧ (n ≤ 10 → does (exec (.reqstrong f) s)
            (s.writeMem key (leBytes size (rmwNew n size old f.val.toNat f.repl.toNat))).mem
            (cmp 0x0C (if f.opf.getLsbD 5 then 0 else old) (s.gtc + 1) w))))
  ∧ (∀ (s : State) (port : Bool) (raw : List Byte),
    (s.bridge.up = false → exec (.linkFlit port raw) s = .next s)
    ∧ (s.bridge.up = true → flitOf port raw s.free = none → exec (.linkFlit port raw) s = .next (s.badFlit port))
    ∧ (∀ f, s.bridge.up = true → flitOf port raw s.free = some f →
        ∃ i : Instr, exec (.linkFlit port raw) s = exec i { s with free := s.free + 1 }
          ∧ [i] = ([(0x01, Instr.reqs f), (0x02, .reqx f), (0x03, .requ f), (0x04, .reqwt f),
          (0x05, .reqstrong f), (0x06, .wb f), (0x07, .datas f), (0x08, .datae f), (0x09, .datam f), (0x0A, .gntu f), (0x0B, .cmpwt f),
          (0x0C, .cmpstrong f), (0x0D, .refuse f), (0x0E, .wback f), (0x0F, .fwds f), (0x10, .fwdx f), (0x11, .inv f), (0x12, .snprspdata f),
          (0x13, .snprsps f), (0x14, .snprspi f), (0x15, .invack f)].filter (fun e : BitVec 8 × Instr => e.1 == f.msg)).map (·.2)))
  ∧ (∀ (s : State) (peer : Bool) (t0 : Word),
    (s.bridge.up = true ∨ peer = s.devnum → exec (.bridgeUp peer t0) s = .next s)
    ∧ (s.bridge.up = false → peer ≠ s.devnum → s.devnum = true → s.ctxs.any (·.isOpen) = true → ∃ t, exec (.bridgeUp peer t0) s = .next t
        ∧ t.bridge.up = false ∧ t.gtc = s.gtc ∧ t.bridge.brstat0.toNat % 4 = 1 ∧ t.bridge.brstat1.toNat % 4 = 1)
    ∧ (s.bridge.up = false → peer ≠ s.devnum → (s.devnum = false ∨ s.ctxs.any (·.isOpen) = false) → ∃ t, exec (.bridgeUp peer t0) s = .next t
        ∧ t.bridge.up = true ∧ t.bridge.port0 = true ∧ t.bridge.port1 = true ∧ t.gtc = (if s.devnum then t0 else s.gtc)
        ∧ t.bridge.brstat0.toNat % 4 = 2 ∧ t.bridge.brstat1.toNat % 4 = 2
        ∧ t.bridge.wheelNext = some (128, BitVec.ofNat 64 ((t.gtc.toNat / 512 + 1) * 512))))
  ∧ (∀ (s : State) (n : Nat) (t0 : Word), s.bridge.wheelNext = some (n, t0) →
    (s.gtc.toNat < t0.toNat → exec .wheelResize s = .next s)
    ∧ (t0.toNat ≤ s.gtc.toNat → exec .wheelResize s = .next { s with bridge := { s.bridge with wheel := n, wheelNext := none } }))
  ∧ (∀ (s : State) (port : Bool),
    (s.bridge.up = false → exec (.portUp port) s = .next s ∧ ∃ t, exec (.portDown port) s = .next t ∧ t.bridge.up = false
      ∧ (if port then t.bridge.port1 else t.bridge.port0) = false ∧ t.mem = s.mem)
    ∧ (s.bridge.up = true → ∃ t, exec (.portUp port) s = .next t ∧ (if port then t.bridge.port1 else t.bridge.port0) = true
      ∧ (if port then t.bridge.brstat1 else t.bridge.brstat0).toNat % 4 = 2 ∧ t.bridge.reqs = s.bridge.reqs ∧ t.mem = s.mem)
    ∧ (s.bridge.up = true → s.bridge.port0 = true → s.bridge.port1 = true → ∃ t, exec (.portDown port) s = .next t ∧ t.bridge.up = true
      ∧ (if port then t.bridge.port1 else t.bridge.port0) = false ∧ (if port then t.bridge.brstat1 else t.bridge.brstat0).toNat % 4 = 0
      ∧ (∀ n r, tabGet s.bridge.reqs n = some r → r.flit.port = port → ∃ r', tabGet t.bridge.reqs n = some r' ∧ r'.flit.port = !port) ∧ t.mem = s.mem)
    ∧ (s.bridge.up = true → (if port then s.bridge.port0 else s.bridge.port1) = false → ∃ t, exec (.portDown port) s = .next t
      ∧ t.bridge.up = false ∧ t.bridge.reqs = [] ∧ t.bridge.waiters = [] ∧ t.bridge.resv = []
      ∧ (∀ e ∈ t.bridge.rdc, isHostIa e.1 = true)))

/-- R325, R329, R333, R334, R353, R363: the host's reads and writes of device memory, its answers to back-invalidations, and
the lines of host memory this device caches.
The use of MetaValue, the 64-byte lines and the grains of the host are the model's choices (log entries 38 to 40). -/
def Obligations.HostPort : Prop :=
  (∀ (s : State) (h : HostMsg),
    let line := h.ia / 64 * 64
    let tells (r : Out) (m : HostOut) : Prop := ∃ t, r = .next t ∧ t.base.hostOut = s.base.hostOut ++ [m] ∧ t.bridge.hostWait = []
    (hdmHas s h.ia = false → exec (.memrd h) s = .next s ∧ exec (.memrddata h) s = .next s ∧ exec (.meminv h) s = .next s ∧ exec (.memwr h) s = .next s)
    ∧ (hdmHas s h.ia = true → Quiet s → dirIn s line 64 = [] →
      (∀ ks cc, pageKeys s line 64 false = .keys ks cc →
        let own : Bool := h.mv == .any && !cc
        let mv : MetaValue := if h.mv = .inv then .inv else if own then .any else .shared
        let read (r : Out) : Prop := ∃ t, r = .next t
          ∧ t.base.hostOut = s.base.hostOut ++ [.cmp h.tag mv (homeBytes (countAccess s line false) line ks) (ks.any (isPoison s))]
          ∧ t.mem = s.mem ∧ t.bridge.hostWait = [] ∧ (h.mv = .inv → t.bridge.dir = s.bridge.dir)
          ∧ (h.mv ≠ .inv → ∃ g d, dirAt t line = some (g, d) ∧ d.h = true ∧ d.st = (if own then .hA else .hS))
        read (exec (.memrd h) s) ∧ read (exec (.memrddata h) s) ∧ tells (exec (.meminv h) s) (.cmp h.tag mv [] false))
      ∧ (pageKeys s line 64 false = .fault →
        let waits (r : Out) (q : HostReq) : Prop := ∃ t x, r = .next t ∧ t.bridge.hostWait = [x] ∧ x.req = q ∧ x.since = some s.gtc
          ∧ t.base.hostOut = s.base.hostOut
        waits (exec (.memrd h) s) (.memRd h) ∧ waits (exec (.memrddata h) s) (.memRdData h) ∧ waits (exec (.meminv h) s) (.memInv h))
      ∧ (pageKeys s h.ia 1 true = .fault → tells (exec (.memwr h) s) (.cmp h.tag .inv [] true))
      ∧ (let a := s.arrive 4
         let q : HostWait := { req := .memWr h, since := none, arr := a.1, cyc := a.2.1 }
         ∀ ks cc u d w p, pageKeys s h.ia 1 true = .keys ks cc →
          writeIa { a.2.2 with bridge := { a.2.2.bridge with hostWait := [q] } } (whoHost (.memWr h) a.2.1) h.ia 1 0 a.1 h.data = .done u d w p →
          let ends (v : State) : Out :=
            let v := v.toHost (.cmp h.tag .inv [] false)
            .next { v with bridge := { v.bridge with hostWait := delNth v.bridge.hostWait 0 } }
          (h.mv = .inv → exec (.memwr h) s = ends (u.hostLeaves line))
          ∧ (h.mv = .shared → exec (.memwr h) s = ends ((u.hostLeaves line).hostHolds line false)))))
  ∧ (∀ (s : State) (h : HostMsg),
    (dirAt s h.ia = none → exec (.birspi h) s = .next s ∧ exec (.birsps h) s = .next s ∧ exec (.birspe h) s = .next s)
    ∧ (∀ g d, dirAt s h.ia = some (g, d) → ∀ i ∈ [Instr.birspi h, .birsps h, .birspe h],
      (d.needH = false → exec i s = .next s)
      ∧ (d.needH = true → d.st = .tInv → d.needP = true → exec i s = .next (s.setDir g (some { d with h := false, needH := false })))
      ∧ (d.needH = true → d.st = .tInv → d.needP = false → exec i s
          = .next ((dirAcked g s.bridge.swaits.length s).endTransient g { d with h := false, needH := false } .hS))
      ∧ (d.needH = true → d.st = .tBS → exec i s = .next (s.endTransient g { d with h := true } .hS)))
    ∧ exec (.biconflict h) s = .next (s.toHost (.biconflictAck h.ia)))
  ∧ (∀ (s : State) (h : HostMsg),
    let answers (d : List Byte) (dirty : Bool) (g : Nat) (x : Option RdcGrain) : Prop := ∃ t, exec (.hostSnoop h) s = .next t
      ∧ t.base.hostOut = s.base.hostOut ++ [.snoopRsp h.ia d dirty] ∧ tabGet t.bridge.rdc g = x ∧ t.bridge.hostWait = s.bridge.hostWait
      ∧ t.mem = s.mem
    (isHostIa h.ia = false → exec (.hostSnoop h) s = .next s)
    ∧ (∀ g, isHostIa h.ia = true → rdcAt s h.ia = none → tabGet s.bridge.rdc g = none → (h.mv = .shared ∨ leasesOver s h.ia 0 = true) →
        answers [] false g none)
    ∧ (∀ g x, isHostIa h.ia = true → rdcAt s h.ia = some (g, x) → tabGet s.bridge.rdc g = some x →
      (isWanted s x = false → h.mv = .shared → (x.st = .m ∨ x.st = .e) → answers x.data (isDirty x) g (some { x with st := .s }))
      ∧ (isWanted s x = false → h.mv ≠ .shared → stampsPending s g (grSize x.gr) = false → leasesOver s g x.gr = true →
        ((x.st = .m ∨ x.st = .e) → answers x.data (isDirty x) g none) ∧ (x.st = .s → answers [] false g none))
      ∧ (isWanted s x = true ∨ (h.mv ≠ .shared ∧ ∃ n ∈ sectorsOf g x.gr, ∃ l, tabGet s.leases n = some l ∧ l.ak = false ∧ s.gtc.toNat < l.e.toNat) →
        ∃ t y, exec (.hostSnoop h) s = .next t ∧ t.bridge.hostWait = s.bridge.hostWait ++ [y] ∧ y.req = .snoop h ∧ y.since = none
          ∧ t.base.hostOut = s.base.hostOut ∧ t.bridge.rdc = s.bridge.rdc ∧ t.mem = s.mem))
    ∧ (∀ g x, isHostIa g = true → rdcAt s h.ia = some (g, x) → isTransientRdc x.st = true → h.data.length = grSize x.gr → h.data ≠ [] →
      h.mv ≠ .inv → exec (.cxlCacheCompletion h) s = .next ((s.setRdc g (some { x with
        st := (if h.mv = .shared then .s else if x.st = .iS then .e else .m), data := h.data, w := s.gtc, floor := s.gtc })).touchRdc g))
    ∧ (rdcAt s h.ia = none → exec (.cxlCacheCompletion h) s = .next s))

/-- R359, R360, R361, R369: a command that is not at its turn, or whose completion finds no room, does nothing; before
READY every command but HELLO completes with BADCTX; a reserved bit is BADCMD; a closed context is BADCTX. A completion
writes TAG, RESULT and VALUE at the tail of its ring and raises vector 0.
The codes of a command that breaks two rules at once are the model's reading (log entry 35). -/
def Obligations.CommandCompletions : Prop :=
  (∀ (s : State) (q : Cmd) (opc : Nat) (i : Instr), CommandOf q opc i →
    (¬ Queued s opc q → exec i s = .next s)
    ∧ (Queued s opc q →
      (s.base.ready = false → opc ≠ 0 → exec i s = .next (s.answered opc q 0x81 none))
      ∧ ((s.base.ready = true ∨ opc = 0) → q.reserved = true → exec i s = .next (s.answered opc q 0x80 none))
      ∧ (s.base.ready = true → q.reserved = false → opc ∉ [0x00, 0x01, 0x08, 0x09] → (s.ctx (cxOf q)).isOpen = false →
          exec i s = .next (s.answered opc q 0x81 none))))
  ∧ (∀ (s : State) (tag : BitVec 32) (res : Nat) (v : Word), memWf s.mem = true → s.base.cq.size ≠ 0 →
    let t := s.completion tag res (some v)
    hostRead t (s.base.cq.base.toNat + 16 * s.base.cq.tail.toNat) 16 = leBytes 4 tag.toNat ++ leBytes 4 res ++ leBytes 8 v.toNat
    ∧ t.base.msix = s.base.msix ++ [0] ∧ t.base.cq.tail = BitVec.ofNat 64 ((s.base.cq.tail.toNat + 1) % s.base.cq.size.toNat)
    ∧ t.base.cq.head = s.base.cq.head ∧ t.cores = s.cores)
  ∧ (∀ s : State, (s.base.stg < 3 → exec .tailReread s = .next s)
    ∧ (3 ≤ s.base.stg → s.base.cr.size ≠ 0 → s.base.cq.size ≠ 0 →
      leNat (hostRead s s.base.crtail.toNat 8) % s.base.cr.size.toNat = s.base.cr.head.toNat →
        exec .tailReread s = .next { s with base := { s.base with cr := { s.base.cr with tail := s.base.cr.head } } })
    ∧ (3 ≤ s.base.stg → 1 < s.base.cr.size.toNat → s.base.cq.size ≠ 0 → ringFull s.base.cq = false →
      let r := recordAt s s.base.cr.head.toNat
      let head := (s.base.cr.head.toNat + 1) % s.base.cr.size.toNat
      s.base.cr.head.toNat < s.base.cr.size.toNat → (cmdUnit r.1).isSome = true →
      leNat (hostRead s s.base.crtail.toNat 8) % s.base.cr.size.toNat = head →
        exec .tailReread s = .next { s with base := { s.base with
          cr := { s.base.cr with head := BitVec.ofNat 64 head, tail := BitVec.ofNat 64 head }, cmds := s.base.cmds ++ [r] } }))

/-- R351, R352, R355, R358, R361, R373: the commands on contexts and on translation.
What the spec leaves open of MAP, VIEW and UNMAP is in log entry 42. -/
def Obligations.TranslationCommands : Prop :=
  ∀ (s : State) (q : Cmd),
    let c := cxOf q
    let x := s.ctx c
    let does (opc : Nat) (r : Out) (t : State) (res : Nat) (v : Option Word) : Prop := r = .next (t.answered opc q res v)
    (Queued s 0x00 q → q.reserved = false →
      (s.base.ready = false → q.a0 = 1 → does 0x00 (exec (.hello q) s) { s with base := { s.base with ready := true } } 0 (some 1))
      ∧ (s.base.ready = false → q.a0 ≠ 1 → does 0x00 (exec (.hello q) s) s 0x82 (some 1))
      ∧ (s.base.ready = true → does 0x00 (exec (.hello q) s) s 0x82 none))
    ∧ (Accepted s 0x01 q → q.a1.toNat / 2 ^ 12 % 16 = 0 → q.a1.toNat < 2 ^ 28 →
      let first := q.a1.toNat % 2 ^ 12
      let count := q.a1.toNat / 2 ^ 16 % 2 ^ 12
      let clash := s.ctxs.any (fun y => y.isOpen && rangesMeet first count y.first y.count)
      (x.isOpen = true ∨ clash = true → does 0x01 (exec (.ctxopen q) s) s 0x82 none)
      ∧ (x.isOpen = false → clash = false → does 0x01 (exec (.ctxopen q) s) (s.setCtx c { x with
          isOpen := true, table := q.a0, first := first, count := count, frameBase := q.a2, frameCount := q.a3.toNat,
          keyver := x.keyver + 1, otbase := 0, otlimit := 0, ttbase := none, tens := [], heapPool := [] }) 0 none))
    ∧ (Accepted s 0x02 q →
      (canClose s c = false → does 0x02 (exec (.ctxclose q) s) s 0x82 none)
      ∧ (canClose s c = true → (∀ d id tag, s.base.reloc = some (d, id, tag) → d ≠ c) → ∃ t, does 0x02 (exec (.ctxclose q) s) t 0 none
        ∧ (c < s.ctxs.size → (t.ctx c).isOpen = false) ∧ (∀ d, d ≠ c → t.ctx d = s.ctx d) ∧ (∀ e ∈ t.heap.objs, e.1 / 2 ^ 40 ≠ c)
        ∧ (∀ f ∈ keyFrames s c, tabGet t.xlat.erased f = some s.free) ∧ t.mem = s.mem))
    ∧ (Accepted s 0x08 q →
      (s.xlat.tpool = none → does 0x08 (exec (.tpool q) s) { s with xlat := { s.xlat with tpool := some (q.a0, q.a1) } } 0 none)
      ∧ (s.xlat.tpool.isSome = true → does 0x08 (exec (.tpool q) s) s 0x82 none))
    ∧ (Accepted s 0x09 q → does 0x09 (exec (.migpool q) s) { s with xlat := { s.xlat with
        migFree := (List.range q.a1.toNat).foldl (fun l i => setAdd l (q.a0.toNat / 65536 + i)) s.xlat.migFree } } 0 none)
    ∧ (Accepted s 0x10 q → anyMig s q.a0.toNat (pageSize q.a1) q.a3.toNat = false →
      (s.xlat.tpool = none ∨ mapOk s c q.a0.toNat q.a1 q.a2 q.a3.toNat = false → does 0x10 (exec (.map q) s) s 0x82 none)
      ∧ (s.xlat.tpool.isSome = true → mapOk s c q.a0.toNat q.a1 q.a2 q.a3.toNat = true → ∃ t, does 0x10 (exec (.map q) s) t 0 none ∧ t.mem = s.mem
        ∧ (q.a3 = 1 → tabGet t.xlat.pages (q.a0.toNat % 2 ^ 48 / 65536) = some (mapLeaf q.a1 q.a2 0)
            ∧ ∀ n, n ≠ q.a0.toNat % 2 ^ 48 / 65536 → tabGet t.xlat.pages n = tabGet s.xlat.pages n)))
    ∧ (Accepted s 0x11 q →
      let ls := leavesFrom s q.a0.toNat q.a1.toNat
      (homeAt s q.a0.toNat ≠ .own ∨ (∃ e ∈ ls, lPin e.2 = true) → does 0x11 (exec (.unmap q) s) s 0x82 none)
      ∧ (homeAt s q.a0.toNat = .own → (∀ e ∈ ls, lPin e.2 = false ∧ lMig e.2 = false ∧ pageDir s e.1 e.2 = [] ∧ pageDraining s e.2 = false) →
        rising none (s.xlat.pages.map (·.1)) = true →
          ∃ t, does 0x11 (exec (.unmap q) s) t 0 none ∧ (∀ e ∈ ls, tabGet t.xlat.pages e.1 = none) ∧ t.mem = s.mem))
    ∧ (Accepted s 0x12 q →
      (ownLeaf s q.a0.toNat = none → does 0x12 (exec (.pin q) s) s 0x82 none)
      ∧ (∀ n l, ownLeaf s q.a0.toNat = some (n, l) → (∀ m ∈ s.xlat.migs, m.page ≠ n) → does 0x12 (exec (.pin q) s) (s.setLeaf n (some (l.pin true))) 0 none))
    ∧ (Accepted s 0x13 q →
      (ownLeaf s q.a0.toNat = none → does 0x13 (exec (.unpin q) s) s 0x82 none)
      ∧ (∀ n l, ownLeaf s q.a0.toNat = some (n, l) → if lCc l then does 0x13 (exec (.unpin q) s) s 0x82 none
          else does 0x13 (exec (.unpin q) s) (s.setLeaf n (some (l.pin false))) 0 none))
    ∧ (Accepted s 0x14 q →
      let l : Leaf := match ownLeaf s q.a0.toNat with | some (_, l) => l | none => { w0 := 0, w1 := 0 }
      does 0x14 (exec (.ptread q) s) (s.hostWrite q.a1.toNat (leBytes 8 l.w0.toNat ++ leBytes 8 l.w1.toNat)) 0 none)
    ∧ (Accepted s 0x15 q → ∃ t, does 0x15 (exec (.faultabort q) s) t 0 none
      ∧ ∀ a ∈ s.homeQ, a.waiting.isSome = true → locOn q.a0.toNat a.loc = true → stillFaults s a.loc = true → a ∉ t.homeQ)

/-- R218, R225, R229, R231, R239, R240, R296, R303, R306, R307, R361: the commands on the heap, the slots, the sibling groups
and the tensors.
What the spec leaves open of them is in log entries 45 to 47. -/
def Obligations.HeapSlotAndTensorCommands : Prop :=
  ∀ (s : State) (q : Cmd),
    let c := cxOf q
    let x := s.ctx c
    let n := q.a0.toNat
    let does (opc : Nat) (r : Out) (t : State) (res : Nat) : Prop := r = .next (t.answered opc q res none)
    (Accepted s 0x20 q →
      (hasObjects s c = true → does 0x20 (exec (.heapcfg q) s) s 0x82)
      ∧ (hasObjects s c = false → does 0x20 (exec (.heapcfg q) s) (s.setCtx c { x with otbase := q.a0, otlimit := q.a1 }) 0))
    ∧ (Accepted s 0x21 q →
      let pages := (List.range q.a1.toNat).map (fun i => n / 2 ^ 21 + i)
      let ok := n % 2 ^ 21 = 0 ∧ ∀ p ∈ pages, ∃ m l, ownLeaf s (p * 2 ^ 21) = some (m, l) ∧ lCc l = true
      (¬ ok → does 0x21 (exec (.heappool q) s) s 0x82)
      ∧ (ok → ∃ t, does 0x21 (exec (.heappool q) s) t 0 ∧ t.mem = s.mem ∧ (c < s.ctxs.size → ∀ p ∈ pages, p ∈ (t.ctx c).heapPool)))
    ∧ (Accepted s 0x22 q → q.a2.toNat % 2 ^ 41 = 0 → q.a2.toNat < 2 ^ 52 →
      let ok := 0 < n ∧ n < otLimit s c ∧ (s.obj (objKey c n)).st = .absent ∧ 0 < q.a1.toNat ∧ q.a1.toNat ≤ 2048
      (¬ ok → does 0x22 (exec (.objset q) s) s 0x82)
      ∧ (ok → does 0x22 (exec (.objset q) s) (s.setObj (objKey c n) { s.obj (objKey c n) with
          size := q.a1.toNat, arena := q.a2.getLsbD 41, owner := q.a2.toNat / 2 ^ 42 % 2 ^ 10 }) 0))
    ∧ (Accepted s 0x23 q → s.base.reloc = none →
      (relocOk s c n q.a1.toNat = false → does 0x23 (exec (.reloc q) s) s 0x82)
      ∧ (relocOk s c n q.a1.toNat = true → s.recallEntries [objKey c n] = none → ∃ t, exec (.reloc q) s = .next t ∧ t.base.reloc = some (c, n, q.tag) ∧ t.mem = s.mem
        ∧ t.obj (objKey c n) = { s.obj (objKey c n) with st := .relocating, newBase := q.a1.toNat / 512, prog := 0, busy := false }))
    ∧ (Accepted s 0x24 q →
      (shareOk q (s.slot n) (s.slot q.a1.toNat) = false → does 0x24 (exec (.share q) s) s 0x82)
      ∧ (shareOk q (s.slot n) (s.slot q.a1.toNat) = true → q.a2.toNat % 64 = 0 → s.bridge.dir = [] → ∃ t, does 0x24 (exec (.share q) s) t 0
        ∧ (t.slot n).len = q.a2.toNat ∧ (t.slot n).st = .prompt ∧ t.mem = s.mem))
    ∧ (Accepted s 0x28 q →
      let d := openDesc q
      let ok := n < 1024 ∧ (s.slot n).st = .free ∧ q.a1.toNat % 2 ^ 31 = 0 ∧ q.a2.toNat < 2 ^ 40 ∧ d.ctx = c ∧ 0 < d.dw ∧ d.dw ≤ 16
        ∧ d.idbase ≠ 0 ∧ idsClear s d = true ∧ d.idbase + d.segs - 1 < otLimit s d.ctx
      (¬ ok → does 0x28 (exec (.slotopen q) s) s 0x82)
      ∧ (ok → ∃ t, does 0x28 (exec (.slotopen q) s) t 0 ∧ t.slot n = d ∧ t.mem = s.mem))
    ∧ (Accepted s 0x29 q →
      let d := s.slot n
      (1024 ≤ n ∨ d.st = .free ∨ d.ctx ≠ c → does 0x29 (exec (.slotclose q) s) s 0x82)
      ∧ (n < 1024 → d.st ≠ .free → d.ctx = c → d.st ≠ .handing → does 0x29 (exec (.slotclose q) s) (s.releaseSlot n) 0)
      ∧ (n < 1024 → d.st = .handing → d.ctx = c → exec (.slotclose q) s = .next s))
    ∧ (Accepted s 0x2C q → q.a1.toNat / 2 ^ 56 = 0 → q.a1.toNat % 2 ^ 46 = 0 →
      let size := q.a1.toNat / 2 ^ 51 % 32
      let quorum := q.a1.toNat / 2 ^ 46 % 32
      let ok := n < 64 ∧ 0 < size ∧ size ≤ 16 ∧ quorum ≤ size ∧ slotWordsOk q = true ∧ s.ballot n = none
      (¬ ok → does 0x2C (exec (.grpreg q) s) s 0x82)
      ∧ (ok → ∃ b : Ballot, does 0x2C (exec (.grpreg q) s) (s.setBallot n (some b)) 0 ∧ b.ctx = c ∧ b.size = size ∧ b.closed = false
        ∧ b.quorum = (if quorum = 0 then size / 2 + 1 else quorum) ∧ b.slots = slotWords q ∧ b.posted = 0 ∧ b.fin = 0 ∧ b.late = 0))
    ∧ (Accepted s 0x2D q →
      (s.ballot n = none → does 0x2D (exec (.grpfree q) s) s 0x82)
      ∧ (∀ b, s.ballot n = some b → if b.ctx = c ∧ (b.closed = true ∨ groupLive s n = false)
          then
            let owed := (List.range b.size).filterMap (sibOwed s n)
            does 0x2D (exec (.grpfree q) s) { s.setBallot n none with sched := { (s.setBallot n none).sched with
              owed := s.sched.owed ++ owed.filter (fun o => !s.sched.owed.contains o) } } 0
          else does 0x2D (exec (.grpfree q) s) s 0x82))
    ∧ (Accepted s 0x2E q →
      (s.ballot n = none → does 0x2E (exec (.grpread q) s) s 0x82)
      ∧ (∀ b, s.ballot n = some b → if b.ctx = c then does 0x2E (exec (.grpread q) s) (s.hostWrite q.a1.toNat (wordBytes b.words)) 0
          else does 0x2E (exec (.grpread q) s) s 0x82))
    ∧ (Accepted s 0x30 q → does 0x30 (exec (.ttcfg q) s) (s.setCtx c { x with ttbase := some q.a0 }) 0)
    ∧ (hasEntry s c n = false → (Accepted s 0x31 q → does 0x31 (exec (.tcreate q) s) s 0x82) ∧ (Accepted s 0x32 q → does 0x32 (exec (.tdestroy q) s) s 0x82))
    ∧ (Accepted s 0x31 q → hasEntry s c n = true →
      let d : TDesc := (List.range 16).map (wordAt (hostRead s q.a1.toNat 128))
      let used := (tabGet x.tens n).isSome
      let ends (k : Nat) : Prop := does 0x31 (exec (.tcreate q) s) { s with free := s.free + 1 } k
      (used = true → ends 1)
      ∧ (used = false → formatOk d = false → ends 2)
      ∧ (used = false → formatOk d = true → tKind d ≠ 3 →
        (createResult s c false d [] ≠ 0 → ends (createResult s c false d []))
        ∧ (∀ u e w p, createResult s c false d [] = 0 → writeEntry s c n (some d) = .done u e w p →
            does 0x31 (exec (.tcreate q) s) { u with free := u.free + 1 } 0)))
    ∧ (∀ u e w p, Accepted s 0x32 q → hasEntry s c n = true → writeEntry s c n none = .done u e w p →
        does 0x32 (exec (.tdestroy q) s) { u with free := u.free + 1 } 0)
    ∧ (∀ ws, hasEntry s c n = true → homeAt s (entryIa s c n) = .own → entryPage s (entryIa s c n) = none →
        entryPage s (entryIa s c n + 127) = none → dirIn s (entryIa s c n) 128 = [] →
        ∃ u, writeEntry s c n ws = .done u [] 0 false ∧ (c < s.ctxs.size → tabGet (u.ctx c).tens n = ws) ∧ u.mem = s.mem)

/-- R371, R386, R388 to R392: the commands on firmware, the fleet's limits and the telemetry block.
Signatures and digests are free values (log entry 52). -/
def Obligations.BasecampCommands : Prop :=
  ∀ (s : State) (q : Cmd),
    let a := q.a0.toNat
    let does (opc : Nat) (r : Out) (t : State) (res : Nat) : Prop := r = .next (t.answered opc q res none)
    (Accepted s 0x03 q →
      let off := q.a1.toNat
      let n := q.a2.toNat
      (n = 0 ∨ 65536 < n ∨ Config.flashSize < off + n → does 0x03 (exec (.fwstage q) s) s 0x82)
      ∧ (0 < n → n ≤ 65536 → off + n ≤ Config.flashSize → ∃ t, does 0x03 (exec (.fwstage q) s) t 0 ∧ t.fleet.staged = true
        ∧ ((flashOf t (otherSlot s)).drop off).take n = hostRead s a n ∧ flashOf t (1 - otherSlot s) = flashOf s (1 - otherSlot s)
        ∧ (off ≤ (flashOf s (otherSlot s)).length → 0 < off → (flashOf t (otherSlot s)).take off = (flashOf s (otherSlot s)).take off)))
    ∧ (Accepted s 0x04 q →
      let b := flashOf s (otherSlot s)
      (imageOk b = true → s.fleet.fused ≤ imgSvn b → does 0x04 (exec (.fwcommit q) s) { s with fleet := { s.fleet with staged := false } } 0)
      ∧ (imageOk b = false ∨ imgSvn b < s.fleet.fused → does 0x04 (exec (.fwcommit q) s) s 0x83))
    ∧ (Accepted s 0x05 q →
      let svn := s.base.fwver.toNat % 2 ^ 32
      (s.fleet.fused = svn → does 0x05 (exec (.svnlock q) s) s 0x82)
      ∧ (s.fleet.fused ≠ svn → does 0x05 (exec (.svnlock q) s) { s with fleet := { s.fleet with fused := max s.fleet.fused svn } } 0))
    ∧ (Accepted s 0x06 q →
      (a % 4096 ≠ 0 → does 0x06 (exec (.telem q) s) s 0x80)
      ∧ (a % 4096 = 0 → does 0x06 (exec (.telem q) s) { (s.hostWrite a (wordBytes (teleWords s))) with free := s.free + 1 } 0))
    ∧ (Accepted s 0x07 q → a < 2 ^ 16 →
      let mig := a % 256
      let thr := a / 256
      if mig < 80 ∨ 110 < mig ∨ thr < mig + 5 ∨ 112 < thr then does 0x07 (exec (.thermcfg q) s) s 0x82
      else does 0x07 (exec (.thermcfg q) s) { s with fleet := { s.fleet with mig := mig, thr := thr } } 0)
    ∧ (Accepted s 0x0A q → a < 2 ^ 16 → a % 256 < 2 →
        does 0x0A (exec (.fencepol q) s) { s with fleet := { s.fleet with auto := q.a0.getLsbD 0, perDay := a / 256 } } 0)
    ∧ (Accepted s 0x0B q →
      let c : CoreId := q.a0.truncate 6
      (64 ≤ a ∨ (s.fleetCore c).test ≠ .passed → does 0x0B (exec (.readmit q) s) s 0x82)
      ∧ (a < 64 → (s.fleetCore c).test = .passed → does 0x0B (exec (.readmit q) s) (s.setFleetCore c { s.fleetCore c with test := .concurred }) 0))
    ∧ (Accepted s 0x0C q → a < 2 ^ 16 →
      if a < 280 ∨ 450 < a then does 0x0C (exec (.powercfg q) s) s 0x82
      else does 0x0C (exec (.powercfg q) s) { s with fleet := { s.fleet with powerNext := a } } 0)

/-- R281, R282, R297, R317, R362, R369 to R372, R375: launches, the MMIO registers, the stages of start-up and reset
release.
The bytes of an SPDM answer, what flash holds, and what Basecamp sets LEASELEN to are free values (log entries 52, 56
and 76). -/
def Obligations.LaunchAndStartUp : Prop :=
  ∀ s : State,
    (∀ (c : BitVec 4) (v : Word),
      let x := s.ctx c.toNat
      let n := v.toNat % 4096
      let t := { s with base := { s.base with launches := s.base.launches.filter (fun e => e != (c, v)) } }
      (s.base.ready = false → exec (.launch c v) s = .next t)
      ∧ (s.base.ready = true → x.isOpen = false → exec (.launch c v) s = .next (t.refuseLaunch c.toNat n 0x0113))
      ∧ (s.base.ready = true → x.isOpen = true → (4096 ≤ v.toNat ∨ x.has n = false ∨ (s.node n).isSome = true) →
          exec (.launch c v) s = .next (t.refuseLaunch c.toNat n (causeCode .illOperand)))
      ∧ (s.base.ready = true → x.isOpen = true → v.toNat < 4096 → x.has n = true → s.node n = none →
        (∀ u y, loadNode t c.toNat n = .node u y → exec (.launch c v) s = .next (u.enter n y none))
        ∧ (∀ u y e, loadNode t c.toNat n = .fault u y e → exec (.launch c v) s = .next (u.enter n y (some e)))
        ∧ (∀ u, loadNode t c.toNat n = .wait u → exec (.launch c v) s
            = .next { u with base := { u.base with launches := u.base.launches ++ [(c, v)] } })))
    ∧ (∀ (sl : BitVec 5) (v : Word),
      (s.base.stg ≠ 3 → exec (.stgb sl v) s = .next s)
      ∧ (s.base.stg = 3 → ∃ t, exec (.stgb sl v) s = .next t ∧ t.stgb = s.stgb.set sl.toNat (BitVec.ofNat 64 (v.toNat % 32)) sl.isLt
        ∧ t.mem = memClear s.mem (stgKey sl.toNat (min (stgSize s sl.toNat) (stgSize t sl.toNat))) (stgKey sl.toNat (max (stgSize s sl.toNat) (stgSize t sl.toNat)))))
    ∧ (∀ v : Word,
      let us := v.toNat % 1024
      (s.base.stg = 3 → 0 < us → us ≤ 1000 → exec (.bwdog v) s = .next { s with base := { s.base with bwdog := BitVec.ofNat 64 us } })
      ∧ (us = 0 ∨ 1000 < us → exec (.bwdog v) s = .next s)
      ∧ (let epl := v.toNat / 2 ^ 58 % 32
         let thr := v.toNat / 2 ^ 49 % 512
         (s.base.stg = 3 → v.toNat / 2 ^ 16 % 2 ^ 17 = 0 → 16 ≤ epl → epl ≤ 30 → 0 < thr → thr ≤ 510 →
            exec (.migcfg v) s = .next { s with base := { s.base with migcfg := v } })
         ∧ (s.base.stg = 3 → (v.toNat / 2 ^ 16 % 2 ^ 17 ≠ 0 ∨ epl < 16 ∨ 30 < epl ∨ thr = 0 ∨ 510 < thr) →
            exec (.migcfg v) s = .next (s.badWrite 0x308))))
    ∧ (∀ (off : Nat) (v : Word),
      (s.base.stg ≠ 3 → exec (.mmioWrite off v) s = .next s)
      ∧ (s.base.stg = 3 →
        (off = 0x300 → exec (.mmioWrite off v) s = exec (.bwdog v) s) ∧ (off = 0x308 → exec (.mmioWrite off v) s = exec (.migcfg v) s)
        ∧ (∀ c : BitVec 4, off = 0x10000 + 4096 * c.toNat → exec (.mmioWrite off v) s = exec (.launch c v) s)
        ∧ (∀ sl : BitVec 5, off = 0x800 + 8 * sl.toNat → exec (.mmioWrite off v) s = exec (.stgb sl v) s)
        ∧ (off = 0x200 → exec (.mmioWrite off v) s = .next (if s.base.ready = false ∨ s.base.cr.head = s.base.cr.tail
            then { s with base := { s.base with cr := { s.base.cr with base := v } } } else s.badWrite off))
        ∧ (off = 0x210 → exec (.mmioWrite off v) s = .next (if s.base.ready = false ∨ s.base.cr.head = s.base.cr.tail
            then { s with base := { s.base with crtail := v } } else s.badWrite off))
        ∧ (off = 0x250 → exec (.mmioWrite off v) s = .next (if v.toNat < s.base.cq.size.toNat
            then { s with base := { s.base with cq := { s.base.cq with head := v } } } else s.badWrite off))
        ∧ (off = 0x290 → exec (.mmioWrite off v) s = .next (if v.toNat < s.base.eq.size.toNat
            then { s with base := { s.base with eq := { s.base.eq with head := v } } } else s.badWrite off))
        ∧ (off ∈ [0x218, 0x258, 0x298] → exec (.mmioWrite off v) s = .next (s.badWrite off))
        ∧ (off < 0x200 ∨ 0x20000 ≤ off → exec (.mmioWrite off v) s = .next s)))
    ∧ (∀ req : List Byte,
      (s.base.stg = 0 → ∀ i ∈ [Instr.negotiateAlgorithms req, .getDigests req, .challenge req, .getMeasurements req], exec i s = .next s)
      ∧ (∀ i ∈ [Instr.getVersion req, .getCapabilities req, .getCertificate req], ∃ d, exec i s
          = .next { s with base := { s.base with hostOut := s.base.hostOut ++ [.spdm d] }, free := s.free + 1 })
      ∧ (s.base.stg ≠ 0 → ∀ i ∈ [Instr.negotiateAlgorithms req, .getDigests req, .challenge req, .getMeasurements req], ∃ d, exec i s
          = .next { s with base := { s.base with hostOut := s.base.hostOut ++ [.spdm d] }, free := s.free + 1 }))
    ∧ (∀ strap : Bool, ∃ t, exec (.resetRelease strap) s = .next t ∧ t.gtc = 0 ∧ t.devnum = strap ∧ t.cores = State.reset.cores
        ∧ t.base.stg = 0 ∧ t.base.ready = false ∧ t.xlat.pages = [] ∧ t.fleet.flash0 = s.fleet.flash0 ∧ t.fleet.flash1 = s.fleet.flash1
        ∧ t.fleet.fused = s.fleet.fused ∧ t.mem = s.mem.filter (fun e => hostBase ≤ e.1 && e.1 < hostBase + 2 ^ 48))
    ∧ (∀ c0 c1 : Word,
      let gives (t : State) (stg err : Nat) : State := { t with base := { t.base with stg := stg, err := err, msix := t.base.msix ++ [2] } }
      (s.base.err ≠ 0 → exec (.startStage c0 c1) s = .next s)
      ∧ (s.base.err = 0 → s.base.stg = 0 → exec (.startStage c0 c1) s = .next (gives s 1 0))
      ∧ (s.base.err = 0 → s.base.stg = 1 → goodSlots s = [] → exec (.startStage c0 c1) s = .next (gives s 0 1))
      ∧ (s.base.err = 0 → s.base.stg = 1 → (∀ n ∈ goodSlots s, imgSvn (flashOf s n) < s.fleet.fused) → goodSlots s ≠ [] →
          exec (.startStage c0 c1) s = .next (gives s 0 2))
      ∧ (∀ n, s.base.err = 0 → s.base.stg = 1 → n ∈ goodSlots s → s.fleet.fused ≤ imgSvn (flashOf s n) →
          ∃ t, exec (.startStage c0 c1) s = .next t ∧ t.base.stg = 2 ∧ t.base.err = 0 ∧ t.fleet.running ∈ goodSlots s
            ∧ imgVersion (flashOf s n) ≤ imgVersion (flashOf s t.fleet.running)
            ∧ t.base.fwver = BitVec.ofNat 64 (imgVersion (flashOf s t.fleet.running) * 2 ^ 32 + imgSvn (flashOf s t.fleet.running)))
      ∧ (s.base.err = 0 → s.base.stg = 2 → c0 = 0 → c1 = 0 → exec (.startStage c0 c1) s = .next (gives s 2 3))
      ∧ (s.base.err = 0 → s.base.stg = 2 → (c0 ≠ 0 ∨ c1 ≠ 0) → ∃ t, exec (.startStage c0 c1) s = .next t ∧ t.base.stg = 3 ∧ t.base.err = 0
          ∧ t.base.chanok0 = c0 ∧ t.base.chanok1 = c1 ∧ t.cores = s.cores ∧ 32 ≤ t.leaseLen.toNat ∧ t.leaseLen.toNat ≤ 4096)
      ∧ (s.base.err = 0 → 3 ≤ s.base.stg → ∃ n, 32 ≤ n ∧ n ≤ 4096 ∧ exec (.startStage c0 c1) s
          = .next { s with leaseLen := BitVec.ofNat 64 n, free := s.free + 1 }))

/-- R121, R381, R385 to R390, R393: heartbeats, votes, fencing, self-test, appeal and readmission, the thermal limits, the
power window, scrubbing and tampering.
Periods, the appeal limit and the power window rest on log entries 48 to 51. -/
def Obligations.FleetSteps : Prop :=
  ∀ s : State,
    let now := s.gtc.toNat / 1024
    (∀ (c n : CoreId) (b : Beat),
      let key := 64 * c.toNat + n.toNat
      let f := s.fleet
      (s.base.stg ≠ 3 ∨ areNeighbours c n = false ∨ tabGet f.judged key = some now → exec (.heartbeat c n b) s = .next s)
      ∧ (s.base.stg = 3 → areNeighbours c n = true → tabGet f.judged key ≠ some now →
        let miss := (tabGet f.missed key).getD 0 + 1
        ∃ t, exec (.heartbeat c n b) s = .next t ∧ tabGet t.fleet.judged key = some now
          ∧ (b = .missing → tabGet t.fleet.missed key = some miss ∧ (3 ≤ miss → tabGet t.fleet.suspect key = some now)
            ∧ (miss < 3 → t.fleet.suspect = f.suspect))
          ∧ (b = .faulty → tabGet t.fleet.suspect key = some now ∧ tabGet t.fleet.missed key = some 0)
          ∧ (b = .clean → t.fleet.suspect = f.suspect ∧ tabGet t.fleet.missed key = some 0 ∧ tabGet t.fleet.clean key = some ((tabGet f.clean key).getD 0 + 1))))
    ∧ (∀ (v c : CoreId),
      let key := 64 * v.toNat + c.toNat
      (tabGet s.fleet.suspect key = none → exec (.vote v c false) s = .next s)
      ∧ (∀ p, tabGet s.fleet.suspect key = some p → (s.core c).fenced = false → c ∉ s.fleet.ordered →
        let t := { s with fleet := { s.fleet with votes := s.fleet.votes ++ [{ voter := v, suspect := c, period := p, readmit := false }],
                                                  suspect := tabDel s.fleet.suspect key } }
        exec (.vote v c false) s = .next (if votesNeeded c ≤ liveVotes t c false then { t with fleet := { t.fleet with ordered := s.fleet.ordered ++ [c] } } else t)))
    ∧ (∃ t, exec .voteLapse s = .next t ∧ t.fleet.votes = s.fleet.votes.filter (fun v => now < v.period + 4)
      ∧ ∀ c p, (s.fleetCore c).test = .appealing p → (t.fleetCore c).test = (if p + 12 ≤ now then .refused now else .appealing p))
    ∧ (∀ c : CoreId,
      (c ∉ s.fleet.ordered ∨ (s.core c).fenced = true → exec (.coreFenced c) s = .next s)
      ∧ (c ∈ s.fleet.ordered → (s.core c).fenced = false → ∃ t, exec (.coreFenced c) s = .next t ∧ (t.core c).fenced = true
        ∧ (t.core c).iter = none ∧ (t.core c).preReq = none ∧ (t.fleetCore c).test = .running now ∧ c ∉ t.fleet.ordered))
    ∧ (∀ (i : Nat) (a : Acc) (l o : Nat), s.homeQ[i]? = some a → a.loc = .spad l o →
      ((s.core (s.byLid l)).fenced = false ∨ s.gtc.toNat < a.arr.toNat + 65536 → exec (.fenced i) s = .next s)
      ∧ ((s.core (s.byLid l)).fenced = true → a.arr.toNat + 65536 ≤ s.gtc.toNat → ∃ t, exec (.fenced i) s = .next t ∧ a ∉ t.homeQ))
    ∧ (∀ (c : CoreId) (pass : Bool),
      let x := s.fleetCore c
      let ends := (∃ p, x.test = .running p) ∨ (∃ p, x.test = .refused p ∧ p + 65536 ≤ now)
      (¬ ends → exec (.selfTestEnd c pass) s = .next s)
      ∧ (ends → ∃ t, exec (.selfTestEnd c pass) s = .next t ∧ (t.fleetCore c).test = (if pass then .appealing now else .refused now)))
    ∧ (∀ c : CoreId,
      let x := s.fleetCore c
      let ok := x.test = .concurred ∨ (x.test = .passed ∧ autoConcurs s x = true)
      (¬ ok → exec (.coreReadmitted c) s = .next s)
      ∧ (ok → ∃ t, exec (.coreReadmitted c) s = .next t ∧ (t.core c).fenced = false ∧ (t.fleetCore c).test = .none ∧ (t.fleetCore c).shut = false
        ∧ (memWf s.mem = true → ∀ o, o < 2 ^ 21 → memGet t.mem (regionKey c o) = 0)))
    ∧ (∀ (c : CoreId) (hi lo : Nat),
      let x := s.fleetCore c
      let top := max hi lo
      (top < 16 * s.fleet.mig ∨ (s.core c).migReq = true ∨ (s.core c).fenced = true → exec (.thermalMigrate c hi lo) s = .next s)
      ∧ (16 * s.fleet.mig ≤ top → (s.core c).migReq = false → (s.core c).fenced = false → ∃ t, exec (.thermalMigrate c hi lo) s = .next t
          ∧ (t.core c).migReq = true ∧ (t.fleetCore c).hi = top)
      ∧ (top < 16 * s.fleet.thr ∨ x.throttled.isSome = true → exec (.throttle c hi lo) s = .next s)
      ∧ (16 * s.fleet.thr ≤ top → x.throttled = none → ∃ t, exec (.throttle c hi lo) s = .next t ∧ (t.fleetCore c).throttled = some now ∧ t.cores = s.cores)
      ∧ (∀ p, x.throttled = some p → top < 16 * (s.fleet.thr - 5) → ∃ t, exec (.throttleEnd c hi lo) s = .next t
          ∧ (t.fleetCore c).throttled = none ∧ (t.fleetCore c).throttledPeriods = x.throttledPeriods + (now - p) ∧ t.cores = s.cores)
      ∧ (x.throttled = none → exec (.throttleEnd c hi lo) s = .next s)
      ∧ (min hi lo < 16 * 115 ∨ x.shut = true → exec (.thermalShutdown c hi lo) s = .next s)
      ∧ (16 * 115 ≤ min hi lo → x.shut = false → ∃ t, exec (.thermalShutdown c hi lo) s = .next t ∧ (t.fleetCore c).shut = true
          ∧ ((s.core c).fenced = false → (t.core c).fenced = true ∧ (t.fleetCore c).test = .waiting))
      ∧ (top < 16 * s.fleet.mig → ∃ t, exec (.readingBelowMig c hi lo) s = .next t ∧ (t.core c).migReq = false ∧ (t.fleetCore c).hi = top
          ∧ (x.test = .waiting → (t.fleetCore c).test = .running now))
      ∧ (16 * s.fleet.mig ≤ top → x.test ≠ .waiting → exec (.readingBelowMig c hi lo) s = .next s))
    ∧ (∀ mw : Nat, exec (.powerWindow mw) s
        = .next { s with fleet := { s.fleet with powerMw := min mw (1000 * s.fleet.power), power := s.fleet.powerNext } })
    ∧ (∀ (word : Nat),
      (isBacked s (64 * word) = false → ∀ r, exec (.scrub word r) s = .next s)
      ∧ (isBacked s (64 * word) = true → exec (.scrub word .clean) s = .next s
        ∧ exec (.scrub word .corrected) s = .next { s with fleet := { s.fleet with corrected := bumpAt s.fleet.corrected (64 * word / 2 ^ 36) } }
        ∧ ∃ t, exec (.scrub word .uncorrectable) s = .next t ∧ t.fleet.uncorrectable = bumpAt s.fleet.uncorrectable (64 * word / 2 ^ 36) ∧ t.cores = s.cores))
    ∧ (∀ x : Sensor, (s.base.err = 4 → exec (.tamperTrip x) s = .next s)
      ∧ (s.base.err ≠ 4 → (∀ e ∈ s.fleet.trips, e.1 ≠ x → e.2.toNat + 1050000 < s.gtc.toNat) → ∃ t, exec (.tamperTrip x) s = .next t
          ∧ t.fleet.trips = s.fleet.trips ++ [(x, s.gtc)] ∧ t.base.err = s.base.err ∧ t.cores = s.cores)
      ∧ (s.base.err ≠ 4 → (∃ e ∈ s.fleet.trips, e.1 ≠ x ∧ s.gtc.toNat ≤ e.2.toNat + 1050000) → ∃ t, exec (.tamperTrip x) s = .next t
          ∧ t.base.err = 4 ∧ t.base.stg = 0 ∧ t.xlat.wiped.isSome = true ∧ t.cores = State.reset.cores))

/-- R90, R93, R94, R100, R102, R108, R109, R111: every well-formed instruction with an encoding is read back from its words,
whatever its operands. -/
def Obligations.DecodeReadsEncodings : Prop :=
  ∀ i : Instr, i.wellFormed = true → hasEncoding i = true → decodeEncoded (encode i) = some i

/-- R93, R94, R99, R100, R108, R109: the worked encodings of the spec decode to the instructions they stand for. -/
def Obligations.WorkedEncodings : Prop :=
  let z : Fields := { en := false, gp := 0, gs := false, pop := 0, push := 0, d := 0, a := 0, b := 0, f := 0, imm := 0 }
  decodeParcels 0x140002CB 0x00000008 = .ok (.addi { z with d := 11, a := 11, imm := 8 })
  ∧ decodeParcels 0x609CD141 0x080A0000 = .ok (.vadd { z with en := true, gp := 3, gs := true, pop := 1, push := 5, d := 5, a := 1, b := 2, imm := 0xA0000 })
  ∧ decodeParcels 0x34000314 0x44300008 = .ok (.amo { z with d := 12, a := 20, b := 0b010001, f := 3, imm := 8 })
  ∧ decodeParcels 0x78000202 0x000A4310 = .ok (.vqnt { z with d := 8, a := 2, imm := 0xA4310 })
  ∧ decodeParcels 0x540000C1 0x30100010 = .ok (.refld { z with d := 3, a := 1, b := 12, f := 1, imm := 16 })
  ∧ decodeParcels 0x27000000 0 = .illOp ∧ decodeParcels 0x14000000 0x04000000 = .illField
  ∧ decodePatch 0x814B0007 = .ok (.patchWord { eng := 0, tix := 5, fsel := 5, go := true, val := 7 })
  ∧ decodePatch 0x915FFFFF = .ok (.patchWord { eng := 1, tix := 5, fsel := 15, go := true, val := 0xFFFF })
  ∧ decodePatch 0xD0000000 = .illOp
  ∧ decodeBank 0xA0801020 = some (.bankLoop { d := 2, a := 0, b := 1, imm := 32 })
  ∧ decodeBank 0x98000000 = some (.bankRidge { d := 0, a := 0, b := 0, imm := 0 })
  ∧ decodeBank 0xB0000000 = some (.bankExit { d := 0, a := 0, b := 0, imm := 0 }) ∧ decodeBank 0xB8000000 = none

/-- R90, R91, R93, R111, R155: ISSUE fetches the parcel at pc, and the second one where bit 31 of the first is clear; what
decodes stands ready; what does not, or cannot be fetched, traps once every vector instruction before it has started. A step
whose next event is an ISSUE runs the decoded instruction.
That plain data (an agenda, and a fixed order where it is empty) says which event comes next is the model's choice
(log entry 2). -/
def Obligations.StepRunsTheDecodedInstruction : Prop :=
  ∀ (s : State) (c : CoreId),
    let k := s.core c
    let pc := k.pc
    let s0 := { s with cur := c }
    let issues : Prop := k.iter.isSome = true ∧ k.fenced = false ∧ trapDue k = false ∧ waitLooks k.wait = true
    let faults (t : State) (x : Cause) (at_ : Word) : State := if k.vq = [] then t.trapNow c x at_ else t
    let gives (t : State) (d : Decoded) : Prop :=
      (∀ i, d = .ok i → exec (.issue c) s = .next { t.begin c with fetched := some i })
      ∧ (d = .illOp → exec (.issue c) s = .next (if (t.core c).vq = [] then t.trapFree c .illOp else t))
      ∧ (d = .illField → exec (.issue c) s = .next (if (t.core c).vq = [] then t.trapFree c .illField else t))
    (¬ issues → exec (.issue c) s = .next s)
    ∧ (issues →
      (∀ x, fetchParcel s0 c pc.toNat = .bad x → exec (.issue c) s = .next (faults s0 x pc))
      ∧ (∀ t, fetchParcel s0 c pc.toNat = .stall t → exec (.issue c) s = .next t)
      ∧ (∀ t lo, fetchParcel s0 c pc.toNat = .got t lo →
        (lo.getLsbD 31 = true → gives t (decodePatch lo))
        ∧ (lo.getLsbD 31 = false →
          (∀ x, fetchParcel t c (pc.toNat + 4) = .bad x → exec (.issue c) s = .next (faults t x (pc + 4)))
          ∧ (∀ u, fetchParcel t c (pc.toNat + 4) = .stall u → exec (.issue c) s = .next u)
          ∧ (∀ u hi, fetchParcel t c (pc.toNat + 4) = .got u hi → gives u (decodeParcels lo hi)))))
    ∧ (∀ (rest : List Instr) (t : State) (i : Instr), s.agenda = .issue c :: rest →
        exec (.issue c) { s with agenda := rest } = .next t → t.fetched = some i → step s = exec i { t with fetched := none })
    ∧ (∀ (e : Instr) (rest : List Instr) (t : State), s.agenda = e :: rest → hasEncoding e = false →
        exec e { s with agenda := rest } = .next t → t.fetched = none → step s = .next t)

/-- R35, R9: nothing stops the device: every instruction and every step of it answers a next state, from every state.
That an event whose condition fails leaves the state as it is, instead of stopping, is the model's choice (log entry
8). -/
def Obligations.NothingStops : Prop :=
  (∀ (i : Instr) (s : State), ∃ t, exec i s = .next t) ∧ ∀ s : State, ∃ t, step s = .next t

/-- Memory keeps its canonical form: addresses rise strictly and no entry holds the byte an unlisted address reads as
(assumption 4).
The form of memory is the model's (log entry 4). -/
def Obligations.EveryStepKeepsMemoryCanonical : Prop :=
  ∀ s t : State, memWf s.mem = true → step s = .next t → memWf t.mem = true

/-- R16, R19, R37, R69, R73, R369: the machine right after reset, where the spec gives its values.
The lantern state, task mode and the absent fence are the model's values (log entry 5). -/
def Obligations.ResetState : Prop :=
  let s := State.reset
  memWf s.mem = true ∧ s.gtc = 0 ∧ s.leaseLen = 512 ∧ s.base.stg = 0 ∧ s.base.ready = false ∧ s.bridge.up = false ∧ s.homeQ = []
  ∧ s.xlat.pages = [] ∧ ∀ c : CoreId, (s.core c).tqcfg = 0x2E0D804A402 ∧ (s.core c).lantern = 0xACE1 ∧ (s.core c).lid = c
    ∧ (s.core c).tok = Vector.replicate 8 0 ∧ (s.core c).iter = none ∧ (s.core c).handler = false ∧ (s.core c).fenced = false

/-- R15, R17, R98, R99, R112, R155: what comes before the effect of a sequencer instruction, shown for the families of the
table: a queue that is not S's traps; a token or room that is missing makes it wait, or ends the non-blocking form with a zero
predicate; a failed guard leaves only its pop and push; a register with a result on the way makes it wait.
R14, R155: while a vector instruction waits to start, S goes on issuing, at most 32 instructions behind it. An instruction
that would move a token, or that is not one of those that may go ahead, waits; one that may go ahead and names no register
that the waiting ones read or write takes its effect, and one whose guard fails passes.
Which instructions may issue past a waiting vector instruction is the model's reading of R155 (log entry 12). -/
def Obligations.BeforeTheEffect : Prop :=
  (
  ∀ (s : State) (w : Fields),
    let k := s.core s.cur
    let c := s.cur
    k.wait = none → k.vq = [] →
    (∀ x ∈ [(Instr.add w, [w.d, w.a, w.b]), (.sub w, [w.d, w.a, w.b]), (.addi w, [w.d, w.a, w.b]), (.movi w, [w.d, w.a, w.b]),
      (.cmp w, [w.a, w.b]), (.lea w, [w.d, w.a, w.b]), (.b w, []), (.call w, [63]), (.ret w, [w.a]), (.sel w, [w.d, w.a, w.b]),
      (.ld w, [w.d, w.a, w.b]), (.st w, [w.d, w.a, w.b]), (.ldp w, [w.d, w.a]), (.lds w, [w.d, w.a]), (.fence w, [w.d, w.a, w.b]),
      (.flagset w, [w.d, w.a, w.b]), (.seal w, [w.d, w.a, w.b]), (.ballot w, [w.d, w.a, w.b]), (.canchk w, []),
      (.phbegin w, [w.d, w.a, w.b]), (.tkpop w, [w.d, w.a, w.b]), (.tkpush w, [w.d, w.a, w.b]), (.rdtime w, [w.d, w.a, w.b]),
      (.rte w, [w.d, w.a, w.b]), (.cfgr w, [w.d]), (.tset w, [w.d, w.a, w.b]), (.mlease w, [w.d, w.a, w.b]),
      (.mstat w, [w.d, w.a, w.b]), (.refld w, [w.d, w.a, w.b]), (.hld w, [w.d, w.b]), (.hst w, [w.d, w.b]),
      (.kvag w, [w.d, w.a, w.b]), (.spawn w, [w.d, w.a, w.b]), (.trap w, [w.d, w.a, w.b])],
      (k.queuesOk .s w.pop w.push = false → exec x.1 s = .next (s.trapNow c .illOperand (badQueue k .s w)))
      ∧ (k.queuesOk .s w.pop w.push = true →
        (k.popReady w.pop = false →
          exec x.1 s = .next (if isNb w then s.setCore c { (k.wp w.gp 0) with pc := k.pc + 8, wait := none }
            else s.setCore c { k with wait := some (.token s.gtc w.pop false) }))
        ∧ (k.popReady w.pop = true → k.pushReady w.push = false →
          exec x.1 s = .next (if isNb w then s.setCore c { (k.wp w.gp 0) with pc := k.pc + 8, wait := none }
            else s.setCore c { k with wait := some (.token s.gtc w.push true) }))
        ∧ (k.popReady w.pop = true → k.pushReady w.push = true →
          (guardOk k w = false → exec x.1 s = .next (s.setCore c (k.finish w (k.pc + 8) true)))
          ∧ (guardOk k w = true → isBusy k x.2 = true → exec x.1 s = .next s))))
  )
  ∧ (
  ∀ (s : State) (w : Fields),
    let k := s.core s.cur
    let c := s.cur
    k.wait = none → k.vq ≠ [] →
    let numbered : State := s.modCore c (fun k => { k with seq := nextSeq k })
    let ends (t : State) : Out := .next (t.modCore c (fun k => (k.finish w ((s.core s.cur).pc + 8) false).countAhead))
    (∀ i ∈ [Instr.fence w, .flagset w, .seal w, .ballot w, .canchk w, .phbegin w, .rte w, .cfgr w, .tset w, .mlease w, .mstat w, .refld w,
        .hst w, .kvag w, .spawn w, .kill w, .trap w, .yield w, .endIter w], exec i s = .next s)
    ∧ (w.pop ≠ 0 ∨ w.push ≠ 0 ∨ isNb w = true ∨ aheadFull k = true →
      ∀ i ∈ [Instr.add w, .addi w, .cmp w, .b w, .ld w, .st w, .ldp w, .lds w, .hld w, .rdtime w], exec i s = .next s)
    ∧ (w.pop = 0 → w.push = 0 → isNb w = false → aheadFull k = false → vecClash k w { s := [w.d, w.a, w.b], ahead := true } = false →
      (guardOk k w = false → ∀ i ∈ [Instr.add w, .sub w, .addi w, .movi w, .lea w, .ld w, .st w, .rdtime w], exec i s = ends s)
      ∧ (guardOk k w = true → isBusy k [w.d, w.a, w.b] = true → ∀ i ∈ [Instr.add w, .sub w, .addi w, .movi w, .lea w, .ld w, .st w], exec i s = .next s)
      ∧ (guardOk k w = true → isBusy k [w.d, w.a, w.b] = false →
        exec (.addi w) s = ends (numbered.modCore c (fun k' => k'.ws w.d (k.rs w.a + w.imm.signExtend 64)))
        ∧ exec (.movi w) s = ends (numbered.modCore c (fun k' => k'.ws w.d (w.imm.signExtend 64)))))
  )

/-- R26, R112, R113, R114, R117: an instruction that computes a scalar register changes no other scalar register, no
predicate but that of a non-blocking form, no special register, no byte of memory and no other core; s0 reads 0 and keeps
no write. -/
def Obligations.RegisterFrame : Prop :=
  (∀ (s : State) (w : Fields), Executes s w → ∀ i ∈ [Instr.add w, .sub w, .mul w, .mulh w, .div w, .rem w, .and w, .or w, .xor w, .andn w, .shl w,
      .shr w, .sra w, .min w, .max w, .clz w, .popc w, .bfx w, .bfi w, .sel w, .addi w, .andi w, .ori w, .xori w, .shli w, .shri w, .srai w,
      .movi w, .lui w, .lea w, .lea2 w],
    ∃ t, exec i s = .next t ∧
      (let k := s.core s.cur
       let k' := t.core s.cur
       (∀ r : BitVec 6, r ≠ w.d → k'.rs r = k.rs r) ∧ (∀ r : BitVec 4, (w.en = true ∨ w.gs = false ∨ r ≠ w.gp) → k'.rp r = k.rp r)
       ∧ k'.h = k.h ∧ k'.status = k.status ∧ k'.fmode = k.fmode ∧ k'.tvec = k.tvec ∧ k'.tepc = k.tepc ∧ k'.tcause = k.tcause
       ∧ k'.tval = k.tval ∧ k'.handler = k.handler ∧ k'.range = k.range ∧ k'.hz = k.hz ∧ k'.obs = k.obs ∧ k'.pend = k.pend
       ∧ (w.pop = 0 → w.push = 0 → k'.tok = k.tok)
       ∧ t.mem = s.mem ∧ t.full = s.full ∧ t.homeQ = s.homeQ ∧ (∀ c, c ≠ s.cur → t.core c = s.core c)))
  ∧ (∀ k : Core, k.rs 0 = 0 ∧ (∀ v, k.ws 0 v = k) ∧ (∀ r v, r ≠ 0 → (k.ws r v).rs r = v))

/-- R27, R119, R121, R147 to R150, R152, R267, R291, R298: nine forms that complete from every state and operands that meet the
conditions named. LD, LDP and ST send accesses to bytes they may access and go on. BALLOT, SPAWN and KILL of a task that is
not cancelled, the fence of the first two ready, take effect and write their code. YIELD with nothing asked of it goes on;
with a pre-emption asked for and a free frame the iteration is saved. END with every operation complete retires the iteration.
STR at an open row of a line that no request and no stamp holds writes its word. -/
def Obligations.FormsComplete : Prop :=
  (∀ (s : State) (w : Fields), Executes s w →
    let k := s.core s.cur
    let c := s.cur
    let v := k.rs w.a
    let ea := v + k.rs w.b + w.imm.signExtend 64
    let n := sizeBytes (fLo w)
    let held (t : State) : Out := .next (t.modCore c (·.enterWait w))
    let fenced (n : Nat) : State := s.modCore c (·.retireFence n)
    let through (r : Nat × State) : Out := .next (s.after w r.2 (·.ws w.d (BitVec.ofNat 64 r.1)))
    let fromWindow (buf : List Byte) (parts : List (Part × AccOp)) (used : List (Nat × List Byte)) (beyond : Bool) : Out :=
      .next ((if beyond then (s.setCore c (k.touchLines used)).raisePwoob c 7 0 k.pc.toNat else s.setCore c (k.touchLines used)).sentWith
        w {} (.sreg w.d (fLo w)) buf parts)
    (∀ bytes b, fHi w < 4 → checkAccess s c (fHi w) ea (List.range n) .r = .ok bytes b →
      exec (.ld w) s = .next (s.sentWith w {} (.sreg w.d (fLo w)) (List.replicate n 0) ((scalarParts ea n bytes).map (fun p => (p, .load)))))
    ∧ (∀ buf parts used beyond, fHi w = 4 →
      windowPlan s c (windowOf ea).1 (windowOf ea).2 n (List.range n) = .ok buf parts used beyond →
      exec (.ld w) s = fromWindow buf parts used beyond)
    ∧ (∀ buf parts used beyond, windowPlan s c w.b.toNat (v + w.imm.signExtend 64).toNat n (List.range n) = .ok buf parts used beyond →
      exec (.ldp w) s = fromWindow buf parts used beyond)
    ∧ (∀ bytes b, checkAccess s c (fHi w) ea (List.range n) .w = .ok bytes b → k.stamps.length < 64 → k.sidelog.length < 32 →
      exec (.st w) s = .next (s.sentWith w {} .none []
        ((scalarParts ea n bytes).map (fun p => (p, .store (((leBytes n (k.rs w.d).toNat).drop p.pos).take p.len))))))
    ∧ (∀ g i, k.iter.bind (·.sib) = some (g, i) → fenceReady s c 2 k.seq = true →
      exec (.ballot w) s = through ((fenced 2).postHash g i v))
    ∧ (isCancelled k = false → v.toNat < 4096 → fenceReady s c 2 k.seq = true →
      exec (.spawn w) s = through ((fenced 2).spawnNode (coreCtx k) v.toNat))
    ∧ (w.f ≠ 1 → v.toNat < 4096 → exec (.kill w) s = through (s.killNode (coreCtx k) v.toNat))
    ∧ (w.f = 1 → v.toNat < 64 → exec (.kill w) s = through (s.killGroup (coreCtx k) v.toNat))
    ∧ (settled k = true → isCancelled k = false → k.migReq = false → k.preReq = none → exec (.yield w) s = .next (s.doneWith w id))
    ∧ (∀ r it f, settled k = true → isCancelled k = false → k.preReq = some r → k.iter = some it → freeFrame s it.ctx = some f →
      exec (.yield w) s = held ((((s.doneWith w id).dropLease c).modCore c Core.dropEngines).saveIter c f (k.pc + 8) true))
    ∧ (isCancelled k = false → k.phstate.getLsbD 63 = false → settled k = true → trapWaits k = false → fenceReady s c 4 k.seq = true →
      exec (.endIter w) s = held ((fenced 4).endTask c)))
  ∧ (∀ (s : State) (w : BankWord) (r : BRun), (s.unit s.curUnit.toNat).ready = some r →
    let n := s.curUnit.toNat
    let u := s.unit n
    let q := u.wc.getD (w.imm.toNat % 4) 0 + w.imm.toNat / 4 % 256
    let key := r.key q
    let wrote : State := (s.putWord key (u.ry w.a) (u.rq w.a != 0)).setUnit n
      (({ u with run := some { r with bytes := r.bytes + 64 } }.stepCursor w).advance)
    tabGet s.banks.openRows (bankOf key) = some (key / 2 ^ 11) → stampsPending s (r.wordIa q) 64 = false → dirIn s (r.wordIa q) 64 = [] →
    (s.jobOf r.job = none → exec (.bankStr w) s = .next wrote)
    ∧ (∀ j, s.jobOf r.job = some j → exec (.bankStr w) s = .next (((wrote.owe j.core .g j.op 1).stampOwn
        { core := j.core, eng := .g, seq := j.op, cyc := s.cyc } (sectorsOf (r.wordIa q) 0 64) 1 s.gtc []).dropOwn
          j.core (.ia (r.wordIa q)) 0 64)))
end

