-- ==== Sys2Proof/Laws/Memory.lean ====
section
/-! SUPPORT. Memory keeps its canonical form under every operation, and a stored byte reads back. -/

namespace Sys2Proof.Machine

open Sys2Proof

/-! Rising keys. -/

/-- A lower bound of a rising list. -/
def below (lo : Option Nat) (a : Nat) : Bool := match lo with | none => true | some l => l < a

theorem rising_cons (lo : Option Nat) (a : Nat) (t : List Nat) :
    rising lo (a :: t) = (below lo a && rising (some a) t) := rfl

theorem below_trans {lo : Option Nat} {a b : Nat} (h : below lo a = true) (hb : a < b) : below lo b = true := by
  cases lo <;> simp [below] at *; omega

theorem rising_weaken {lo : Option Nat} {a : Nat} {t : List Nat} (h : below lo a = true) (ht : rising (some a) t = true) :
    rising lo t = true := by
  cases t with
  | nil => rfl
  | cons b t =>
    rw [rising_cons] at *
    simp only [Bool.and_eq_true] at *
    exact ⟨below_trans h (by simpa [below] using ht.1), ht.2⟩

theorem rising_tail {lo : Option Nat} {a : Nat} {t : List Nat} (h : rising lo (a :: t) = true) : rising lo t = true := by
  rw [rising_cons, Bool.and_eq_true] at h
  exact rising_weaken h.1 h.2

theorem rising_none {lo : Option Nat} {t : List Nat} (h : rising lo t = true) : rising none t = true := by
  cases t with
  | nil => rfl
  | cons a t => rw [rising_cons, Bool.and_eq_true] at h; simp [rising_cons, below, h.2]

theorem rising_filter {β : Type} (p : Nat × β → Bool) (lo : Option Nat) (t : List (Nat × β))
    (h : rising lo (t.map (·.1)) = true) : rising lo ((t.filter p).map (·.1)) = true := by
  induction t generalizing lo with
  | nil => rfl
  | cons e t ih =>
    simp only [List.map_cons, rising_cons, Bool.and_eq_true] at h
    by_cases hp : p e = true
    · simp [hp, rising_cons, h.1, ih _ h.2]
    · simp only [List.filter_cons, hp]
      exact ih _ (rising_weaken h.1 h.2)

theorem rising_tabSet {β : Type} (t : Table β) (k : Nat) (v : β) (lo : Option Nat) (hk : below lo k = true)
    (h : rising lo (t.map (·.1)) = true) : rising lo ((tabSet t k v).map (·.1)) = true := by
  induction t generalizing lo with
  | nil => simp [tabSet, rising, below] at *; exact hk
  | cons e t ih =>
    obtain ⟨a, u⟩ := e
    simp only [List.map_cons, rising_cons, Bool.and_eq_true] at h
    unfold tabSet
    split
    · rename_i hlt
      have hb : below (some k) a = true := by simpa [below] using hlt
      simp [rising_cons, hk, hb, h.2]
    · split
      · rename_i heq
        have : a = k := by simpa using heq
        subst this
        simp [rising_cons, h.1, h.2]
      · rename_i hlt heq
        have hne : a ≠ k := by simpa using heq
        simp only [List.map_cons, rising_cons, h.1, Bool.true_and]
        exact ih _ (by simp [below]; omega) h.2

theorem rising_tabDel {β : Type} (t : Table β) (k : Nat) (lo : Option Nat)
    (h : rising lo (t.map (·.1)) = true) : rising lo ((tabDel t k).map (·.1)) = true := by
  induction t generalizing lo with
  | nil => rfl
  | cons e t ih =>
    obtain ⟨a, u⟩ := e
    simp only [List.map_cons, rising_cons, Bool.and_eq_true] at h
    unfold tabDel
    split
    · exact rising_weaken h.1 h.2
    · split
      · simp [rising_cons, h.1, h.2]
      · simp [rising_cons, h.1, ih _ h.2]

/-! The canonical form. -/

theorem memWf_iff (m : List Host.Cell) :
    memWf m = true ↔ rising none (m.map (·.1)) = true ∧ ∀ c ∈ m, c.2 ≠ 0#8 := by
  simp [memWf]

theorem mem_tabSet {β : Type} (t : Table β) (k : Nat) (v : β) : ∀ c ∈ tabSet t k v, c = (k, v) ∨ c ∈ t := by
  induction t with
  | nil => simp [tabSet]
  | cons e t ih =>
    obtain ⟨a, u⟩ := e
    intro c hc
    unfold tabSet at hc
    split at hc
    · simpa using hc
    · split at hc
      · simp only [List.mem_cons] at *
        rcases hc with hc | hc
        · exact .inl hc
        · exact .inr (.inr hc)
      · simp only [List.mem_cons] at *
        rcases hc with hc | hc
        · exact .inr (.inl hc)
        · rcases ih c hc with h | h
          · exact .inl h
          · exact .inr (.inr h)

theorem mem_tabDel {β : Type} (t : Table β) (k : Nat) : ∀ c ∈ tabDel t k, c ∈ t := by
  induction t with
  | nil => simp [tabDel]
  | cons e t ih =>
    obtain ⟨a, u⟩ := e
    intro c hc
    unfold tabDel at hc
    split at hc
    · exact List.mem_cons_of_mem _ hc
    · split at hc
      · exact hc
      · simp only [List.mem_cons] at *
        rcases hc with hc | hc
        · exact .inl hc
        · exact .inr (ih c hc)

theorem memWf_nil : memWf [] = true := rfl

theorem memWf_memSet {m : List Host.Cell} (h : memWf m = true) (a : Nat) (b : Byte) : memWf (memSet m a b) = true := by
  rw [memWf_iff] at *
  unfold memSet
  split
  · exact ⟨rising_tabDel _ _ _ h.1, fun c hc => h.2 c (mem_tabDel _ _ c hc)⟩
  · rename_i hb
    refine ⟨rising_tabSet _ _ _ _ rfl h.1, fun c hc => ?_⟩
    rcases mem_tabSet _ _ _ c hc with rfl | hc
    · simpa using hb
    · exact h.2 c hc

theorem memWf_memWrite {m : List Host.Cell} (h : memWf m = true) (a : Nat) (d : List Byte) :
    memWf (memWrite m a d) = true := by
  induction d generalizing m a with
  | nil => exact h
  | cons b t ih => exact ih (memWf_memSet h a b) _

theorem memWf_filter {m : List Host.Cell} (h : memWf m = true) (p : Host.Cell → Bool) : memWf (m.filter p) = true := by
  rw [memWf_iff] at *
  exact ⟨rising_filter p _ _ h.1, fun c hc => h.2 c (List.mem_filter.1 hc).1⟩

theorem memWf_memClear {m : List Host.Cell} (h : memWf m = true) (lo hi : Nat) : memWf (memClear m lo hi) = true :=
  memWf_filter h _

theorem memWf_writeMasked {m : List Host.Cell} (h : memWf m = true) (a : Nat) (d : List Byte) (u : List Bool) :
    memWf (writeMasked m a d u) = true := by
  induction d generalizing m a u with
  | nil => cases u <;> exact h
  | cons b t ih =>
    cases u with
    | nil => exact h
    | cons x u =>
      unfold writeMasked
      apply ih
      split
      · exact memWf_memSet h a b
      · exact h

/-- Stores made one after another, each at an address and with a byte that its element gives. -/
theorem memWf_foldl {α : Type} (f : α → Nat) (g : α → Byte) (l : List α) {m : List Host.Cell} (h : memWf m = true) :
    memWf (l.foldl (fun m e => memSet m (f e) (g e)) m) = true := by
  induction l generalizing m with
  | nil => exact h
  | cons e t ih => exact ih (memWf_memSet h _ _)

/-! What a byte reads as after a store. -/

theorem tabGet_below {β : Type} (t : Table β) (k : Nat) (h : rising (some k) (t.map (·.1)) = true) : tabGet t k = none := by
  cases t with
  | nil => rfl
  | cons e t =>
    obtain ⟨a, u⟩ := e
    simp only [List.map_cons, rising_cons, Bool.and_eq_true, below, decide_eq_true_eq] at h
    unfold tabGet
    have h1 : ¬ a = k := by omega
    simp [h1, h.1]

theorem tabGet_tabSet {β : Type} (t : Table β) (k j : Nat) (v : β) :
    tabGet (tabSet t k v) j = if k = j then some v else tabGet t j := by
  induction t with
  | nil => simp only [tabSet, tabGet]; by_cases h : k = j <;> simp [h]
  | cons e t ih =>
    obtain ⟨a, u⟩ := e
    unfold tabSet
    split
    · rename_i hlt
      simp only [tabGet, beq_iff_eq]
      by_cases h : k = j
      · simp [h]
      · by_cases h2 : j < k
        · have : ¬ a = j := by omega
          have : j < a := by omega
          simp [*]
        · simp [h, h2]
    · split
      · rename_i heq
        have : a = k := by simpa using heq
        subst this
        simp only [tabGet, beq_iff_eq]
        by_cases h : a = j <;> simp [h]
      · rename_i hlt heq
        have hne : a ≠ k := by simpa using heq
        simp only [tabGet, beq_iff_eq, ih]
        by_cases h : a = j
        · have : ¬ k = j := by omega
          simp [h, this]
        · by_cases h2 : j < a
          · have : ¬ k = j := by omega
            simp [h, h2, this]
          · simp [h, h2]

theorem tabGet_tabDel {β : Type} (t : Table β) (k j : Nat) (h : rising none (t.map (·.1)) = true) :
    tabGet (tabDel t k) j = if k = j then none else tabGet t j := by
  induction t with
  | nil => simp [tabDel, tabGet]
  | cons e t ih =>
    obtain ⟨a, u⟩ := e
    have ht := h
    simp only [List.map_cons, rising_cons, Bool.and_eq_true] at ht
    unfold tabDel
    split
    · rename_i heq
      have : a = k := by simpa using heq
      subst this
      by_cases hj : a = j
      · subst hj
        simp [tabGet_below t a ht.2]
      · simp only [tabGet, beq_iff_eq, hj, if_false]
        split
        · rename_i hlt
          have : rising (some j) (t.map (·.1)) = true := rising_weaken (by simp [below, hlt]) ht.2
          exact tabGet_below t j this
        · rfl
    · rename_i heq
      have hne : a ≠ k := by simpa using heq
      split
      · rename_i hlt
        by_cases hj : k = j
        · subst hj
          simp [tabGet, hne, hlt]
        · simp [hj]
      · rename_i hlt
        simp only [tabGet, beq_iff_eq, ih (rising_none ht.2)]
        by_cases hj : a = j
        · have : ¬ k = j := by omega
          simp [hj, this]
        · by_cases h2 : j < a
          · have : ¬ k = j := by omega
            simp [hj, h2, this]
          · simp [hj, h2]

theorem memGet_memSet {m : List Host.Cell} (h : memWf m = true) (a x : Nat) (b : Byte) :
    memGet (memSet m a b) x = if a = x then b else memGet m x := by
  rw [memWf_iff] at h
  unfold memGet memSet
  split
  · rename_i hb
    have : b = 0#8 := by simpa using hb
    rw [tabGet_tabDel _ _ _ h.1]
    split <;> simp [this]
  · rw [tabGet_tabSet]
    split <;> simp

/-! The operations of the machine. -/

theorem memWf_writeMem {s : State} (h : memWf s.mem = true) (a : Nat) (d : List Byte) :
    memWf (s.writeMem a d).mem = true := memWf_memWrite h a d

end Sys2Proof.Machine
end

