-- ==== Sys2Proof/Laws/MemOps.lean ====
section
/-! SUPPORT. Each operation of the machine that writes memory keeps its canonical form. -/

namespace Sys2Proof.Machine

open Sys2Proof

/-- Steps folded over a list keep the form when each does. -/
theorem foldl_memWf {α : Type} (f : State → α → State) (hf : ∀ s a, memWf s.mem = true → memWf (f s a).mem = true)
    (l : List α) {s : State} (h : memWf s.mem = true) : memWf (l.foldl f s).mem = true := by
  induction l generalizing s with
  | nil => exact h
  | cons a t ih => exact ih (hf s a h)

theorem memWf_putRow {s : State} (h : memWf s.mem = true) (k : Nat) (b : Byte) : memWf (s.putRow k b).mem = true :=
  memWf_memSet h k b

theorem memWf_putHome {s : State} (h : memWf s.mem = true) (cc : Bool) (k : Nat) (b : Byte) :
    memWf (s.putHome cc k b).mem = true := by
  unfold State.putHome; split
  · exact h
  · exact memWf_putRow h k b

theorem memWf_putAll (ks : List Nat) (d : List Byte) (cc : Bool) {s : State} (h : memWf s.mem = true) :
    memWf (s.putAll cc ks d).mem = true := by
  induction ks generalizing s d with
  | nil => exact h
  | cons k ks ih => cases d with
    | nil => exact h
    | cons b d => exact ih d (memWf_putHome h cc k b)

theorem memWf_putOrdered (ks : List Nat) (d : List Byte) {s : State} (h : memWf s.mem = true) :
    memWf (s.putOrdered ks d).mem = true := by
  induction ks generalizing s d with
  | nil => exact h
  | cons k ks ih => cases d with
    | nil => exact h
    | cons b d => exact ih d (memWf_putHome h _ k b)

theorem memWf_putBit {s : State} (h : memWf s.mem = true) (k i : Nat) (b : Bool) : memWf (s.putBit k i b).mem = true :=
  memWf_putHome h _ _ _

theorem memWf_putView {s : State} (h : memWf s.mem = true) (l : Leaf) (d : Byte) (v : ViewByte) :
    memWf (s.putView l d v).mem = true := by
  cases v with
  | beyond => exact h
  | byte o => exact memWf_putHome h _ _ _
  | bits bs => exact foldl_memWf _ (fun s _ hs => memWf_putBit hs _ _ _) _ h

theorem memWf_putFrame {s : State} (h : memWf s.mem = true) (ia : Nat) (l : List (Nat × Byte)) :
    memWf (s.putFrame ia l).mem = true := foldl_memWf _ (fun _ _ hs => memWf_putRow hs _ _) _ h

theorem memWf_clearFrame {s : State} (h : memWf s.mem = true) (ia : Nat) : memWf (s.clearFrame ia).mem = true :=
  memWf_filter h _

theorem memWf_clearPool {s : State} (h : memWf s.mem = true) (c : CoreId) : memWf (s.clearPool c).mem = true :=
  memWf_memClear h _ _
theorem memWf_clearBank {s : State} (h : memWf s.mem = true) (c : CoreId) : memWf (s.clearBank c).mem = true :=
  memWf_memClear h _ _

theorem memWf_hostWrite {s : State} (h : memWf s.mem = true) (a : Nat) (d : List Byte) :
    memWf (s.hostWrite a d).mem = true := memWf_foldl _ _ _ h

theorem memWf_putWord {s : State} (h : memWf s.mem = true) (k : Nat) (d : List Byte) (bad : Bool) :
    memWf (s.putWord k d bad).mem = true := by
  unfold State.putWord
  exact memWf_putOrdered _ _ h

theorem memWf_commit {s : State} (h : memWf s.mem = true) (p : Nat → Bool) : memWf (s.commit p).mem = true :=
  foldl_memWf _ (fun _ _ hs => memWf_putRow hs _ _) _ (s := { s with wtq := _ }) h

theorem memWf_loadPool {s : State} (h : memWf s.mem = true) (c : CoreId) (ia : Nat) : memWf (s.loadPool c ia).mem = true := by
  unfold State.loadPool
  exact memWf_foldl _ _ _ (memWf_foldl _ _ _ (memWf_foldl _ _ _ (memWf_clearBank (memWf_clearPool h c) c)))

theorem memWf_movePool {s : State} (h : memWf s.mem = true) (a b : CoreId) : memWf (s.movePool a b).mem = true := by
  unfold State.movePool
  exact memWf_clearBank (memWf_clearPool (memWf_foldl _ _ _ (memWf_foldl _ _ _ (memWf_clearBank (memWf_clearPool h b) b))) a) a

theorem memWf_report {s : State} (h : memWf s.mem = true) (r : ErrRec) : memWf (s.report r).mem = true := by
  unfold State.report
  cases codeCounter r.code <;> dsimp only <;> split <;> first | exact h | exact memWf_memWrite h _ _

theorem memWf_placeWord {s : State} (h : memWf s.mem = true) (n w : Nat) : memWf (s.placeWord n w).mem = true := by
  unfold State.placeWord
  split
  · exact h
  · exact memWf_foldl _ _ _ h

end Sys2Proof.Machine
end

