-- ==== Sys2Proof/Laws/State.lean ====
section
/-! SUPPORT. What the updates of State and of Core leave alone, one lemma for each field and update. -/

namespace Sys2Proof.Machine

open Sys2Proof

/-! Updates of the device. -/

@[simp] theorem State.setCore_gtc (s : State) (c : CoreId) (k : Core) : (s.setCore c k).gtc = s.gtc := rfl
@[simp] theorem State.setCore_clusters (s : State) (c : CoreId) (k : Core) : (s.setCore c k).clusters = s.clusters := rfl
@[simp] theorem State.setCore_mem (s : State) (c : CoreId) (k : Core) : (s.setCore c k).mem = s.mem := rfl
@[simp] theorem State.setCore_full (s : State) (c : CoreId) (k : Core) : (s.setCore c k).full = s.full := rfl
@[simp] theorem State.setCore_poison (s : State) (c : CoreId) (k : Core) : (s.setCore c k).poison = s.poison := rfl
@[simp] theorem State.setCore_wtq (s : State) (c : CoreId) (k : Core) : (s.setCore c k).wtq = s.wtq := rfl
@[simp] theorem State.setCore_banks (s : State) (c : CoreId) (k : Core) : (s.setCore c k).banks = s.banks := rfl
@[simp] theorem State.setCore_homeQ (s : State) (c : CoreId) (k : Core) : (s.setCore c k).homeQ = s.homeQ := rfl
@[simp] theorem State.setCore_leases (s : State) (c : CoreId) (k : Core) : (s.setCore c k).leases = s.leases := rfl
@[simp] theorem State.setCore_seals (s : State) (c : CoreId) (k : Core) : (s.setCore c k).seals = s.seals := rfl
@[simp] theorem State.setCore_stgb (s : State) (c : CoreId) (k : Core) : (s.setCore c k).stgb = s.stgb := rfl
@[simp] theorem State.setCore_leaseLen (s : State) (c : CoreId) (k : Core) : (s.setCore c k).leaseLen = s.leaseLen := rfl
@[simp] theorem State.setCore_devnum (s : State) (c : CoreId) (k : Core) : (s.setCore c k).devnum = s.devnum := rfl
@[simp] theorem State.setCore_bridge (s : State) (c : CoreId) (k : Core) : (s.setCore c k).bridge = s.bridge := rfl
@[simp] theorem State.setCore_xlat (s : State) (c : CoreId) (k : Core) : (s.setCore c k).xlat = s.xlat := rfl
@[simp] theorem State.setCore_base (s : State) (c : CoreId) (k : Core) : (s.setCore c k).base = s.base := rfl
@[simp] theorem State.setCore_ctxs (s : State) (c : CoreId) (k : Core) : (s.setCore c k).ctxs = s.ctxs := rfl
@[simp] theorem State.setCore_sched (s : State) (c : CoreId) (k : Core) : (s.setCore c k).sched = s.sched := rfl
@[simp] theorem State.setCore_heap (s : State) (c : CoreId) (k : Core) : (s.setCore c k).heap = s.heap := rfl
@[simp] theorem State.setCore_fleet (s : State) (c : CoreId) (k : Core) : (s.setCore c k).fleet = s.fleet := rfl
@[simp] theorem State.setCore_fetched (s : State) (c : CoreId) (k : Core) : (s.setCore c k).fetched = s.fetched := rfl
@[simp] theorem State.setCore_agenda (s : State) (c : CoreId) (k : Core) : (s.setCore c k).agenda = s.agenda := rfl
@[simp] theorem State.setCore_cur (s : State) (c : CoreId) (k : Core) : (s.setCore c k).cur = s.cur := rfl
@[simp] theorem State.setCore_curUnit (s : State) (c : CoreId) (k : Core) : (s.setCore c k).curUnit = s.curUnit := rfl
@[simp] theorem State.setCore_turn (s : State) (c : CoreId) (k : Core) : (s.setCore c k).turn = s.turn := rfl
@[simp] theorem State.setCore_free (s : State) (c : CoreId) (k : Core) : (s.setCore c k).free = s.free := rfl

@[simp] theorem State.modCore_gtc (s : State) (c : CoreId) (f : Core → Core) : (s.modCore c f).gtc = s.gtc := rfl
@[simp] theorem State.modCore_clusters (s : State) (c : CoreId) (f : Core → Core) : (s.modCore c f).clusters = s.clusters := rfl
@[simp] theorem State.modCore_mem (s : State) (c : CoreId) (f : Core → Core) : (s.modCore c f).mem = s.mem := rfl
@[simp] theorem State.modCore_full (s : State) (c : CoreId) (f : Core → Core) : (s.modCore c f).full = s.full := rfl
@[simp] theorem State.modCore_poison (s : State) (c : CoreId) (f : Core → Core) : (s.modCore c f).poison = s.poison := rfl
@[simp] theorem State.modCore_wtq (s : State) (c : CoreId) (f : Core → Core) : (s.modCore c f).wtq = s.wtq := rfl
@[simp] theorem State.modCore_banks (s : State) (c : CoreId) (f : Core → Core) : (s.modCore c f).banks = s.banks := rfl
@[simp] theorem State.modCore_homeQ (s : State) (c : CoreId) (f : Core → Core) : (s.modCore c f).homeQ = s.homeQ := rfl
@[simp] theorem State.modCore_leases (s : State) (c : CoreId) (f : Core → Core) : (s.modCore c f).leases = s.leases := rfl
@[simp] theorem State.modCore_seals (s : State) (c : CoreId) (f : Core → Core) : (s.modCore c f).seals = s.seals := rfl
@[simp] theorem State.modCore_stgb (s : State) (c : CoreId) (f : Core → Core) : (s.modCore c f).stgb = s.stgb := rfl
@[simp] theorem State.modCore_leaseLen (s : State) (c : CoreId) (f : Core → Core) : (s.modCore c f).leaseLen = s.leaseLen := rfl
@[simp] theorem State.modCore_devnum (s : State) (c : CoreId) (f : Core → Core) : (s.modCore c f).devnum = s.devnum := rfl
@[simp] theorem State.modCore_bridge (s : State) (c : CoreId) (f : Core → Core) : (s.modCore c f).bridge = s.bridge := rfl
@[simp] theorem State.modCore_xlat (s : State) (c : CoreId) (f : Core → Core) : (s.modCore c f).xlat = s.xlat := rfl
@[simp] theorem State.modCore_base (s : State) (c : CoreId) (f : Core → Core) : (s.modCore c f).base = s.base := rfl
@[simp] theorem State.modCore_ctxs (s : State) (c : CoreId) (f : Core → Core) : (s.modCore c f).ctxs = s.ctxs := rfl
@[simp] theorem State.modCore_sched (s : State) (c : CoreId) (f : Core → Core) : (s.modCore c f).sched = s.sched := rfl
@[simp] theorem State.modCore_heap (s : State) (c : CoreId) (f : Core → Core) : (s.modCore c f).heap = s.heap := rfl
@[simp] theorem State.modCore_fleet (s : State) (c : CoreId) (f : Core → Core) : (s.modCore c f).fleet = s.fleet := rfl
@[simp] theorem State.modCore_fetched (s : State) (c : CoreId) (f : Core → Core) : (s.modCore c f).fetched = s.fetched := rfl
@[simp] theorem State.modCore_agenda (s : State) (c : CoreId) (f : Core → Core) : (s.modCore c f).agenda = s.agenda := rfl
@[simp] theorem State.modCore_cur (s : State) (c : CoreId) (f : Core → Core) : (s.modCore c f).cur = s.cur := rfl
@[simp] theorem State.modCore_curUnit (s : State) (c : CoreId) (f : Core → Core) : (s.modCore c f).curUnit = s.curUnit := rfl
@[simp] theorem State.modCore_turn (s : State) (c : CoreId) (f : Core → Core) : (s.modCore c f).turn = s.turn := rfl
@[simp] theorem State.modCore_free (s : State) (c : CoreId) (f : Core → Core) : (s.modCore c f).free = s.free := rfl

@[simp] theorem State.setCluster_gtc (s : State) (n : Nat) (a : Cluster) : (s.setCluster n a).gtc = s.gtc := rfl
@[simp] theorem State.setCluster_cores (s : State) (n : Nat) (a : Cluster) : (s.setCluster n a).cores = s.cores := rfl
@[simp] theorem State.setCluster_mem (s : State) (n : Nat) (a : Cluster) : (s.setCluster n a).mem = s.mem := rfl
@[simp] theorem State.setCluster_full (s : State) (n : Nat) (a : Cluster) : (s.setCluster n a).full = s.full := rfl
@[simp] theorem State.setCluster_poison (s : State) (n : Nat) (a : Cluster) : (s.setCluster n a).poison = s.poison := rfl
@[simp] theorem State.setCluster_wtq (s : State) (n : Nat) (a : Cluster) : (s.setCluster n a).wtq = s.wtq := rfl
@[simp] theorem State.setCluster_banks (s : State) (n : Nat) (a : Cluster) : (s.setCluster n a).banks = s.banks := rfl
@[simp] theorem State.setCluster_homeQ (s : State) (n : Nat) (a : Cluster) : (s.setCluster n a).homeQ = s.homeQ := rfl
@[simp] theorem State.setCluster_leases (s : State) (n : Nat) (a : Cluster) : (s.setCluster n a).leases = s.leases := rfl
@[simp] theorem State.setCluster_seals (s : State) (n : Nat) (a : Cluster) : (s.setCluster n a).seals = s.seals := rfl
@[simp] theorem State.setCluster_stgb (s : State) (n : Nat) (a : Cluster) : (s.setCluster n a).stgb = s.stgb := rfl
@[simp] theorem State.setCluster_leaseLen (s : State) (n : Nat) (a : Cluster) : (s.setCluster n a).leaseLen = s.leaseLen := rfl
@[simp] theorem State.setCluster_devnum (s : State) (n : Nat) (a : Cluster) : (s.setCluster n a).devnum = s.devnum := rfl
@[simp] theorem State.setCluster_bridge (s : State) (n : Nat) (a : Cluster) : (s.setCluster n a).bridge = s.bridge := rfl
@[simp] theorem State.setCluster_xlat (s : State) (n : Nat) (a : Cluster) : (s.setCluster n a).xlat = s.xlat := rfl
@[simp] theorem State.setCluster_base (s : State) (n : Nat) (a : Cluster) : (s.setCluster n a).base = s.base := rfl
@[simp] theorem State.setCluster_ctxs (s : State) (n : Nat) (a : Cluster) : (s.setCluster n a).ctxs = s.ctxs := rfl
@[simp] theorem State.setCluster_sched (s : State) (n : Nat) (a : Cluster) : (s.setCluster n a).sched = s.sched := rfl
@[simp] theorem State.setCluster_heap (s : State) (n : Nat) (a : Cluster) : (s.setCluster n a).heap = s.heap := rfl
@[simp] theorem State.setCluster_fleet (s : State) (n : Nat) (a : Cluster) : (s.setCluster n a).fleet = s.fleet := rfl
@[simp] theorem State.setCluster_fetched (s : State) (n : Nat) (a : Cluster) : (s.setCluster n a).fetched = s.fetched := rfl
@[simp] theorem State.setCluster_agenda (s : State) (n : Nat) (a : Cluster) : (s.setCluster n a).agenda = s.agenda := rfl
@[simp] theorem State.setCluster_cur (s : State) (n : Nat) (a : Cluster) : (s.setCluster n a).cur = s.cur := rfl
@[simp] theorem State.setCluster_curUnit (s : State) (n : Nat) (a : Cluster) : (s.setCluster n a).curUnit = s.curUnit := rfl
@[simp] theorem State.setCluster_turn (s : State) (n : Nat) (a : Cluster) : (s.setCluster n a).turn = s.turn := rfl
@[simp] theorem State.setCluster_free (s : State) (n : Nat) (a : Cluster) : (s.setCluster n a).free = s.free := rfl

@[simp] theorem State.writeMem_gtc (s : State) (key : Nat) (d : List Byte) : (s.writeMem key d).gtc = s.gtc := rfl
@[simp] theorem State.writeMem_cores (s : State) (key : Nat) (d : List Byte) : (s.writeMem key d).cores = s.cores := rfl
@[simp] theorem State.writeMem_clusters (s : State) (key : Nat) (d : List Byte) : (s.writeMem key d).clusters = s.clusters := rfl
@[simp] theorem State.writeMem_full (s : State) (key : Nat) (d : List Byte) : (s.writeMem key d).full = s.full := rfl
@[simp] theorem State.writeMem_poison (s : State) (key : Nat) (d : List Byte) : (s.writeMem key d).poison = s.poison := rfl
@[simp] theorem State.writeMem_wtq (s : State) (key : Nat) (d : List Byte) : (s.writeMem key d).wtq = s.wtq := rfl
@[simp] theorem State.writeMem_banks (s : State) (key : Nat) (d : List Byte) : (s.writeMem key d).banks = s.banks := rfl
@[simp] theorem State.writeMem_homeQ (s : State) (key : Nat) (d : List Byte) : (s.writeMem key d).homeQ = s.homeQ := rfl
@[simp] theorem State.writeMem_leases (s : State) (key : Nat) (d : List Byte) : (s.writeMem key d).leases = s.leases := rfl
@[simp] theorem State.writeMem_seals (s : State) (key : Nat) (d : List Byte) : (s.writeMem key d).seals = s.seals := rfl
@[simp] theorem State.writeMem_stgb (s : State) (key : Nat) (d : List Byte) : (s.writeMem key d).stgb = s.stgb := rfl
@[simp] theorem State.writeMem_leaseLen (s : State) (key : Nat) (d : List Byte) : (s.writeMem key d).leaseLen = s.leaseLen := rfl
@[simp] theorem State.writeMem_devnum (s : State) (key : Nat) (d : List Byte) : (s.writeMem key d).devnum = s.devnum := rfl
@[simp] theorem State.writeMem_bridge (s : State) (key : Nat) (d : List Byte) : (s.writeMem key d).bridge = s.bridge := rfl
@[simp] theorem State.writeMem_xlat (s : State) (key : Nat) (d : List Byte) : (s.writeMem key d).xlat = s.xlat := rfl
@[simp] theorem State.writeMem_base (s : State) (key : Nat) (d : List Byte) : (s.writeMem key d).base = s.base := rfl
@[simp] theorem State.writeMem_ctxs (s : State) (key : Nat) (d : List Byte) : (s.writeMem key d).ctxs = s.ctxs := rfl
@[simp] theorem State.writeMem_sched (s : State) (key : Nat) (d : List Byte) : (s.writeMem key d).sched = s.sched := rfl
@[simp] theorem State.writeMem_heap (s : State) (key : Nat) (d : List Byte) : (s.writeMem key d).heap = s.heap := rfl
@[simp] theorem State.writeMem_fleet (s : State) (key : Nat) (d : List Byte) : (s.writeMem key d).fleet = s.fleet := rfl
@[simp] theorem State.writeMem_fetched (s : State) (key : Nat) (d : List Byte) : (s.writeMem key d).fetched = s.fetched := rfl
@[simp] theorem State.writeMem_agenda (s : State) (key : Nat) (d : List Byte) : (s.writeMem key d).agenda = s.agenda := rfl
@[simp] theorem State.writeMem_cur (s : State) (key : Nat) (d : List Byte) : (s.writeMem key d).cur = s.cur := rfl
@[simp] theorem State.writeMem_curUnit (s : State) (key : Nat) (d : List Byte) : (s.writeMem key d).curUnit = s.curUnit := rfl
@[simp] theorem State.writeMem_turn (s : State) (key : Nat) (d : List Byte) : (s.writeMem key d).turn = s.turn := rfl
@[simp] theorem State.writeMem_free (s : State) (key : Nat) (d : List Byte) : (s.writeMem key d).free = s.free := rfl

@[simp] theorem State.setFull_gtc (s : State) (key : Nat) (b : Bool) : (s.setFull key b).gtc = s.gtc := rfl
@[simp] theorem State.setFull_cores (s : State) (key : Nat) (b : Bool) : (s.setFull key b).cores = s.cores := rfl
@[simp] theorem State.setFull_clusters (s : State) (key : Nat) (b : Bool) : (s.setFull key b).clusters = s.clusters := rfl
@[simp] theorem State.setFull_mem (s : State) (key : Nat) (b : Bool) : (s.setFull key b).mem = s.mem := rfl
@[simp] theorem State.setFull_poison (s : State) (key : Nat) (b : Bool) : (s.setFull key b).poison = s.poison := rfl
@[simp] theorem State.setFull_wtq (s : State) (key : Nat) (b : Bool) : (s.setFull key b).wtq = s.wtq := rfl
@[simp] theorem State.setFull_banks (s : State) (key : Nat) (b : Bool) : (s.setFull key b).banks = s.banks := rfl
@[simp] theorem State.setFull_homeQ (s : State) (key : Nat) (b : Bool) : (s.setFull key b).homeQ = s.homeQ := rfl
@[simp] theorem State.setFull_leases (s : State) (key : Nat) (b : Bool) : (s.setFull key b).leases = s.leases := rfl
@[simp] theorem State.setFull_seals (s : State) (key : Nat) (b : Bool) : (s.setFull key b).seals = s.seals := rfl
@[simp] theorem State.setFull_stgb (s : State) (key : Nat) (b : Bool) : (s.setFull key b).stgb = s.stgb := rfl
@[simp] theorem State.setFull_leaseLen (s : State) (key : Nat) (b : Bool) : (s.setFull key b).leaseLen = s.leaseLen := rfl
@[simp] theorem State.setFull_devnum (s : State) (key : Nat) (b : Bool) : (s.setFull key b).devnum = s.devnum := rfl
@[simp] theorem State.setFull_bridge (s : State) (key : Nat) (b : Bool) : (s.setFull key b).bridge = s.bridge := rfl
@[simp] theorem State.setFull_xlat (s : State) (key : Nat) (b : Bool) : (s.setFull key b).xlat = s.xlat := rfl
@[simp] theorem State.setFull_base (s : State) (key : Nat) (b : Bool) : (s.setFull key b).base = s.base := rfl
@[simp] theorem State.setFull_ctxs (s : State) (key : Nat) (b : Bool) : (s.setFull key b).ctxs = s.ctxs := rfl
@[simp] theorem State.setFull_sched (s : State) (key : Nat) (b : Bool) : (s.setFull key b).sched = s.sched := rfl
@[simp] theorem State.setFull_heap (s : State) (key : Nat) (b : Bool) : (s.setFull key b).heap = s.heap := rfl
@[simp] theorem State.setFull_fleet (s : State) (key : Nat) (b : Bool) : (s.setFull key b).fleet = s.fleet := rfl
@[simp] theorem State.setFull_fetched (s : State) (key : Nat) (b : Bool) : (s.setFull key b).fetched = s.fetched := rfl
@[simp] theorem State.setFull_agenda (s : State) (key : Nat) (b : Bool) : (s.setFull key b).agenda = s.agenda := rfl
@[simp] theorem State.setFull_cur (s : State) (key : Nat) (b : Bool) : (s.setFull key b).cur = s.cur := rfl
@[simp] theorem State.setFull_curUnit (s : State) (key : Nat) (b : Bool) : (s.setFull key b).curUnit = s.curUnit := rfl
@[simp] theorem State.setFull_turn (s : State) (key : Nat) (b : Bool) : (s.setFull key b).turn = s.turn := rfl
@[simp] theorem State.setFull_free (s : State) (key : Nat) (b : Bool) : (s.setFull key b).free = s.free := rfl

@[simp] theorem State.bump_gtc (s : State) (i : Nat) : (s.bump i).gtc = s.gtc := rfl
@[simp] theorem State.bump_cores (s : State) (i : Nat) : (s.bump i).cores = s.cores := rfl
@[simp] theorem State.bump_clusters (s : State) (i : Nat) : (s.bump i).clusters = s.clusters := rfl
@[simp] theorem State.bump_mem (s : State) (i : Nat) : (s.bump i).mem = s.mem := rfl
@[simp] theorem State.bump_full (s : State) (i : Nat) : (s.bump i).full = s.full := rfl
@[simp] theorem State.bump_poison (s : State) (i : Nat) : (s.bump i).poison = s.poison := rfl
@[simp] theorem State.bump_wtq (s : State) (i : Nat) : (s.bump i).wtq = s.wtq := rfl
@[simp] theorem State.bump_banks (s : State) (i : Nat) : (s.bump i).banks = s.banks := rfl
@[simp] theorem State.bump_homeQ (s : State) (i : Nat) : (s.bump i).homeQ = s.homeQ := rfl
@[simp] theorem State.bump_leases (s : State) (i : Nat) : (s.bump i).leases = s.leases := rfl
@[simp] theorem State.bump_seals (s : State) (i : Nat) : (s.bump i).seals = s.seals := rfl
@[simp] theorem State.bump_stgb (s : State) (i : Nat) : (s.bump i).stgb = s.stgb := rfl
@[simp] theorem State.bump_leaseLen (s : State) (i : Nat) : (s.bump i).leaseLen = s.leaseLen := rfl
@[simp] theorem State.bump_devnum (s : State) (i : Nat) : (s.bump i).devnum = s.devnum := rfl
@[simp] theorem State.bump_bridge (s : State) (i : Nat) : (s.bump i).bridge = s.bridge := rfl
@[simp] theorem State.bump_xlat (s : State) (i : Nat) : (s.bump i).xlat = s.xlat := rfl
@[simp] theorem State.bump_base (s : State) (i : Nat) : (s.bump i).base = s.base := rfl
@[simp] theorem State.bump_ctxs (s : State) (i : Nat) : (s.bump i).ctxs = s.ctxs := rfl
@[simp] theorem State.bump_sched (s : State) (i : Nat) : (s.bump i).sched = s.sched := rfl
@[simp] theorem State.bump_heap (s : State) (i : Nat) : (s.bump i).heap = s.heap := rfl
@[simp] theorem State.bump_fetched (s : State) (i : Nat) : (s.bump i).fetched = s.fetched := rfl
@[simp] theorem State.bump_agenda (s : State) (i : Nat) : (s.bump i).agenda = s.agenda := rfl
@[simp] theorem State.bump_cur (s : State) (i : Nat) : (s.bump i).cur = s.cur := rfl
@[simp] theorem State.bump_curUnit (s : State) (i : Nat) : (s.bump i).curUnit = s.curUnit := rfl
@[simp] theorem State.bump_turn (s : State) (i : Nat) : (s.bump i).turn = s.turn := rfl
@[simp] theorem State.bump_free (s : State) (i : Nat) : (s.bump i).free = s.free := rfl

@[simp] theorem State.setNode_gtc (s : State) (n : Nat) (x : Option Node) : (s.setNode n x).gtc = s.gtc := rfl
@[simp] theorem State.setNode_cores (s : State) (n : Nat) (x : Option Node) : (s.setNode n x).cores = s.cores := rfl
@[simp] theorem State.setNode_clusters (s : State) (n : Nat) (x : Option Node) : (s.setNode n x).clusters = s.clusters := rfl
@[simp] theorem State.setNode_mem (s : State) (n : Nat) (x : Option Node) : (s.setNode n x).mem = s.mem := rfl
@[simp] theorem State.setNode_full (s : State) (n : Nat) (x : Option Node) : (s.setNode n x).full = s.full := rfl
@[simp] theorem State.setNode_poison (s : State) (n : Nat) (x : Option Node) : (s.setNode n x).poison = s.poison := rfl
@[simp] theorem State.setNode_wtq (s : State) (n : Nat) (x : Option Node) : (s.setNode n x).wtq = s.wtq := rfl
@[simp] theorem State.setNode_banks (s : State) (n : Nat) (x : Option Node) : (s.setNode n x).banks = s.banks := rfl
@[simp] theorem State.setNode_homeQ (s : State) (n : Nat) (x : Option Node) : (s.setNode n x).homeQ = s.homeQ := rfl
@[simp] theorem State.setNode_leases (s : State) (n : Nat) (x : Option Node) : (s.setNode n x).leases = s.leases := rfl
@[simp] theorem State.setNode_seals (s : State) (n : Nat) (x : Option Node) : (s.setNode n x).seals = s.seals := rfl
@[simp] theorem State.setNode_stgb (s : State) (n : Nat) (x : Option Node) : (s.setNode n x).stgb = s.stgb := rfl
@[simp] theorem State.setNode_leaseLen (s : State) (n : Nat) (x : Option Node) : (s.setNode n x).leaseLen = s.leaseLen := rfl
@[simp] theorem State.setNode_devnum (s : State) (n : Nat) (x : Option Node) : (s.setNode n x).devnum = s.devnum := rfl
@[simp] theorem State.setNode_bridge (s : State) (n : Nat) (x : Option Node) : (s.setNode n x).bridge = s.bridge := rfl
@[simp] theorem State.setNode_xlat (s : State) (n : Nat) (x : Option Node) : (s.setNode n x).xlat = s.xlat := rfl
@[simp] theorem State.setNode_base (s : State) (n : Nat) (x : Option Node) : (s.setNode n x).base = s.base := rfl
@[simp] theorem State.setNode_ctxs (s : State) (n : Nat) (x : Option Node) : (s.setNode n x).ctxs = s.ctxs := rfl
@[simp] theorem State.setNode_heap (s : State) (n : Nat) (x : Option Node) : (s.setNode n x).heap = s.heap := rfl
@[simp] theorem State.setNode_fleet (s : State) (n : Nat) (x : Option Node) : (s.setNode n x).fleet = s.fleet := rfl
@[simp] theorem State.setNode_fetched (s : State) (n : Nat) (x : Option Node) : (s.setNode n x).fetched = s.fetched := rfl
@[simp] theorem State.setNode_agenda (s : State) (n : Nat) (x : Option Node) : (s.setNode n x).agenda = s.agenda := rfl
@[simp] theorem State.setNode_cur (s : State) (n : Nat) (x : Option Node) : (s.setNode n x).cur = s.cur := rfl
@[simp] theorem State.setNode_curUnit (s : State) (n : Nat) (x : Option Node) : (s.setNode n x).curUnit = s.curUnit := rfl
@[simp] theorem State.setNode_turn (s : State) (n : Nat) (x : Option Node) : (s.setNode n x).turn = s.turn := rfl
@[simp] theorem State.setNode_free (s : State) (n : Nat) (x : Option Node) : (s.setNode n x).free = s.free := rfl

@[simp] theorem State.setBallot_gtc (s : State) (g : Nat) (b : Option Ballot) : (s.setBallot g b).gtc = s.gtc := rfl
@[simp] theorem State.setBallot_cores (s : State) (g : Nat) (b : Option Ballot) : (s.setBallot g b).cores = s.cores := rfl
@[simp] theorem State.setBallot_clusters (s : State) (g : Nat) (b : Option Ballot) : (s.setBallot g b).clusters = s.clusters := rfl
@[simp] theorem State.setBallot_mem (s : State) (g : Nat) (b : Option Ballot) : (s.setBallot g b).mem = s.mem := rfl
@[simp] theorem State.setBallot_full (s : State) (g : Nat) (b : Option Ballot) : (s.setBallot g b).full = s.full := rfl
@[simp] theorem State.setBallot_poison (s : State) (g : Nat) (b : Option Ballot) : (s.setBallot g b).poison = s.poison := rfl
@[simp] theorem State.setBallot_wtq (s : State) (g : Nat) (b : Option Ballot) : (s.setBallot g b).wtq = s.wtq := rfl
@[simp] theorem State.setBallot_banks (s : State) (g : Nat) (b : Option Ballot) : (s.setBallot g b).banks = s.banks := rfl
@[simp] theorem State.setBallot_homeQ (s : State) (g : Nat) (b : Option Ballot) : (s.setBallot g b).homeQ = s.homeQ := rfl
@[simp] theorem State.setBallot_leases (s : State) (g : Nat) (b : Option Ballot) : (s.setBallot g b).leases = s.leases := rfl
@[simp] theorem State.setBallot_seals (s : State) (g : Nat) (b : Option Ballot) : (s.setBallot g b).seals = s.seals := rfl
@[simp] theorem State.setBallot_stgb (s : State) (g : Nat) (b : Option Ballot) : (s.setBallot g b).stgb = s.stgb := rfl
@[simp] theorem State.setBallot_leaseLen (s : State) (g : Nat) (b : Option Ballot) : (s.setBallot g b).leaseLen = s.leaseLen := rfl
@[simp] theorem State.setBallot_devnum (s : State) (g : Nat) (b : Option Ballot) : (s.setBallot g b).devnum = s.devnum := rfl
@[simp] theorem State.setBallot_bridge (s : State) (g : Nat) (b : Option Ballot) : (s.setBallot g b).bridge = s.bridge := rfl
@[simp] theorem State.setBallot_xlat (s : State) (g : Nat) (b : Option Ballot) : (s.setBallot g b).xlat = s.xlat := rfl
@[simp] theorem State.setBallot_base (s : State) (g : Nat) (b : Option Ballot) : (s.setBallot g b).base = s.base := rfl
@[simp] theorem State.setBallot_ctxs (s : State) (g : Nat) (b : Option Ballot) : (s.setBallot g b).ctxs = s.ctxs := rfl
@[simp] theorem State.setBallot_heap (s : State) (g : Nat) (b : Option Ballot) : (s.setBallot g b).heap = s.heap := rfl
@[simp] theorem State.setBallot_fleet (s : State) (g : Nat) (b : Option Ballot) : (s.setBallot g b).fleet = s.fleet := rfl
@[simp] theorem State.setBallot_fetched (s : State) (g : Nat) (b : Option Ballot) : (s.setBallot g b).fetched = s.fetched := rfl
@[simp] theorem State.setBallot_agenda (s : State) (g : Nat) (b : Option Ballot) : (s.setBallot g b).agenda = s.agenda := rfl
@[simp] theorem State.setBallot_cur (s : State) (g : Nat) (b : Option Ballot) : (s.setBallot g b).cur = s.cur := rfl
@[simp] theorem State.setBallot_curUnit (s : State) (g : Nat) (b : Option Ballot) : (s.setBallot g b).curUnit = s.curUnit := rfl
@[simp] theorem State.setBallot_turn (s : State) (g : Nat) (b : Option Ballot) : (s.setBallot g b).turn = s.turn := rfl
@[simp] theorem State.setBallot_free (s : State) (g : Nat) (b : Option Ballot) : (s.setBallot g b).free = s.free := rfl

/-! Which core an update reaches. -/

@[simp] theorem State.core_setCore (s : State) (c : CoreId) (k : Core) : (s.setCore c k).core c = k := by
  simp [State.core, State.setCore]
theorem State.core_setCore_ne (s : State) {c d : CoreId} (k : Core) (h : c ≠ d) : (s.setCore c k).core d = s.core d := by
  have : c.toNat ≠ d.toNat := fun e => h (BitVec.eq_of_toNat_eq e)
  simp [State.core, State.setCore, this]
@[simp] theorem State.core_modCore (s : State) (c : CoreId) (f : Core → Core) : (s.modCore c f).core c = f (s.core c) :=
  s.core_setCore c _
theorem State.core_modCore_ne (s : State) {c d : CoreId} (f : Core → Core) (h : c ≠ d) :
    (s.modCore c f).core d = s.core d := s.core_setCore_ne _ h
@[simp] theorem State.setCore_setCore (s : State) (c : CoreId) (k l : Core) :
    (s.setCore c k).setCore c l = s.setCore c l := by
  simp [State.setCore, Vector.set_set]
@[simp] theorem State.core_writeMem (s : State) (n : Nat) (d : List Byte) (c : CoreId) :
    (s.writeMem n d).core c = s.core c := rfl
@[simp] theorem State.core_setFull (s : State) (n : Nat) (b : Bool) (c : CoreId) : (s.setFull n b).core c = s.core c := rfl

/-! Updates of a core. -/

@[simp] theorem Core.wp_lid (k : Core) (r : BitVec 4) (v : Pred) : (k.wp r v).lid = k.lid := rfl
@[simp] theorem Core.wp_s (k : Core) (r : BitVec 4) (v : Pred) : (k.wp r v).s = k.s := rfl
@[simp] theorem Core.wp_h (k : Core) (r : BitVec 4) (v : Pred) : (k.wp r v).h = k.h := rfl
@[simp] theorem Core.wp_pc (k : Core) (r : BitVec 4) (v : Pred) : (k.wp r v).pc = k.pc := rfl
@[simp] theorem Core.wp_handler (k : Core) (r : BitVec 4) (v : Pred) : (k.wp r v).handler = k.handler := rfl
@[simp] theorem Core.wp_iter (k : Core) (r : BitVec 4) (v : Pred) : (k.wp r v).iter = k.iter := rfl
@[simp] theorem Core.wp_taskid (k : Core) (r : BitVec 4) (v : Pred) : (k.wp r v).taskid = k.taskid := rfl
@[simp] theorem Core.wp_pbreg (k : Core) (r : BitVec 4) (v : Pred) : (k.wp r v).pbreg = k.pbreg := rfl
@[simp] theorem Core.wp_pbsp (k : Core) (r : BitVec 4) (v : Pred) : (k.wp r v).pbsp = k.pbsp := rfl
@[simp] theorem Core.wp_pbcache (k : Core) (r : BitVec 4) (v : Pred) : (k.wp r v).pbcache = k.pbcache := rfl
@[simp] theorem Core.wp_vview (k : Core) (r : BitVec 4) (v : Pred) : (k.wp r v).vview = k.vview := rfl
@[simp] theorem Core.wp_tview (k : Core) (r : BitVec 4) (v : Pred) : (k.wp r v).tview = k.tview := rfl
@[simp] theorem Core.wp_aview (k : Core) (r : BitVec 4) (v : Pred) : (k.wp r v).aview = k.aview := rfl
@[simp] theorem Core.wp_tqcfg (k : Core) (r : BitVec 4) (v : Pred) : (k.wp r v).tqcfg = k.tqcfg := rfl
@[simp] theorem Core.wp_ae (k : Core) (r : BitVec 4) (v : Pred) : (k.wp r v).ae = k.ae := rfl
@[simp] theorem Core.wp_fmode (k : Core) (r : BitVec 4) (v : Pred) : (k.wp r v).fmode = k.fmode := rfl
@[simp] theorem Core.wp_win (k : Core) (r : BitVec 4) (v : Pred) : (k.wp r v).win = k.win := rfl
@[simp] theorem Core.wp_tvec (k : Core) (r : BitVec 4) (v : Pred) : (k.wp r v).tvec = k.tvec := rfl
@[simp] theorem Core.wp_tcause (k : Core) (r : BitVec 4) (v : Pred) : (k.wp r v).tcause = k.tcause := rfl
@[simp] theorem Core.wp_tepc (k : Core) (r : BitVec 4) (v : Pred) : (k.wp r v).tepc = k.tepc := rfl
@[simp] theorem Core.wp_tval (k : Core) (r : BitVec 4) (v : Pred) : (k.wp r v).tval = k.tval := rfl
@[simp] theorem Core.wp_status (k : Core) (r : BitVec 4) (v : Pred) : (k.wp r v).status = k.status := rfl
@[simp] theorem Core.wp_lseed (k : Core) (r : BitVec 4) (v : Pred) : (k.wp r v).lseed = k.lseed := rfl
@[simp] theorem Core.wp_lantern (k : Core) (r : BitVec 4) (v : Pred) : (k.wp r v).lantern = k.lantern := rfl
@[simp] theorem Core.wp_phstate (k : Core) (r : BitVec 4) (v : Pred) : (k.wp r v).phstate = k.phstate := rfl
@[simp] theorem Core.wp_phentry (k : Core) (r : BitVec 4) (v : Pred) : (k.wp r v).phentry = k.phentry := rfl
@[simp] theorem Core.wp_phsnap (k : Core) (r : BitVec 4) (v : Pred) : (k.wp r v).phsnap = k.phsnap := rfl
@[simp] theorem Core.wp_range (k : Core) (r : BitVec 4) (v : Pred) : (k.wp r v).range = k.range := rfl
@[simp] theorem Core.wp_kvgen (k : Core) (r : BitVec 4) (v : Pred) : (k.wp r v).kvgen = k.kvgen := rfl
@[simp] theorem Core.wp_tok (k : Core) (r : BitVec 4) (v : Pred) : (k.wp r v).tok = k.tok := rfl
@[simp] theorem Core.wp_rsv (k : Core) (r : BitVec 4) (v : Pred) : (k.wp r v).rsv = k.rsv := rfl
@[simp] theorem Core.wp_hz (k : Core) (r : BitVec 4) (v : Pred) : (k.wp r v).hz = k.hz := rfl
@[simp] theorem Core.wp_obs (k : Core) (r : BitVec 4) (v : Pred) : (k.wp r v).obs = k.obs := rfl
@[simp] theorem Core.wp_pend (k : Core) (r : BitVec 4) (v : Pred) : (k.wp r v).pend = k.pend := rfl
@[simp] theorem Core.wp_groups (k : Core) (r : BitVec 4) (v : Pred) : (k.wp r v).groups = k.groups := rfl
@[simp] theorem Core.wp_stamps (k : Core) (r : BitVec 4) (v : Pred) : (k.wp r v).stamps = k.stamps := rfl
@[simp] theorem Core.wp_sidelog (k : Core) (r : BitVec 4) (v : Pred) : (k.wp r v).sidelog = k.sidelog := rfl
@[simp] theorem Core.wp_wait (k : Core) (r : BitVec 4) (v : Pred) : (k.wp r v).wait = k.wait := rfl
@[simp] theorem Core.wp_busyS (k : Core) (r : BitVec 4) (v : Pred) : (k.wp r v).busyS = k.busyS := rfl
@[simp] theorem Core.wp_seq (k : Core) (r : BitVec 4) (v : Pred) : (k.wp r v).seq = k.seq := rfl
@[simp] theorem Core.wp_soFloor (k : Core) (r : BitVec 4) (v : Pred) : (k.wp r v).soFloor = k.soFloor := rfl
@[simp] theorem Core.wp_scRev (k : Core) (r : BitVec 4) (v : Pred) : (k.wp r v).scRev = k.scRev := rfl
@[simp] theorem Core.wp_copies (k : Core) (r : BitVec 4) (v : Pred) : (k.wp r v).copies = k.copies := rfl
@[simp] theorem Core.wp_landing (k : Core) (r : BitVec 4) (v : Pred) : (k.wp r v).landing = k.landing := rfl
@[simp] theorem Core.wp_wcache (k : Core) (r : BitVec 4) (v : Pred) : (k.wp r v).wcache = k.wcache := rfl
@[simp] theorem Core.wp_icache (k : Core) (r : BitVec 4) (v : Pred) : (k.wp r v).icache = k.icache := rfl
@[simp] theorem Core.wp_vq (k : Core) (r : BitVec 4) (v : Pred) : (k.wp r v).vq = k.vq := rfl
@[simp] theorem Core.wp_mq (k : Core) (r : BitVec 4) (v : Pred) : (k.wp r v).mq = k.mq := rfl
@[simp] theorem Core.wp_cq (k : Core) (r : BitVec 4) (v : Pred) : (k.wp r v).cq = k.cq := rfl
@[simp] theorem Core.wp_gq (k : Core) (r : BitVec 4) (v : Pred) : (k.wp r v).gq = k.gq := rfl
@[simp] theorem Core.wp_xq (k : Core) (r : BitVec 4) (v : Pred) : (k.wp r v).xq = k.xq := rfl
@[simp] theorem Core.wp_gs (k : Core) (r : BitVec 4) (v : Pred) : (k.wp r v).gs = k.gs := rfl
@[simp] theorem Core.wp_tmpl (k : Core) (r : BitVec 4) (v : Pred) : (k.wp r v).tmpl = k.tmpl := rfl
@[simp] theorem Core.wp_slots (k : Core) (r : BitVec 4) (v : Pred) : (k.wp r v).slots = k.slots := rfl
@[simp] theorem Core.wp_mfail (k : Core) (r : BitVec 4) (v : Pred) : (k.wp r v).mfail = k.mfail := rfl
@[simp] theorem Core.wp_lastCopy (k : Core) (r : BitVec 4) (v : Pred) : (k.wp r v).lastCopy = k.lastCopy := rfl
@[simp] theorem Core.wp_xfloor (k : Core) (r : BitVec 4) (v : Pred) : (k.wp r v).xfloor = k.xfloor := rfl
@[simp] theorem Core.wp_deferred (k : Core) (r : BitVec 4) (v : Pred) : (k.wp r v).deferred = k.deferred := rfl
@[simp] theorem Core.wp_lastCtx (k : Core) (r : BitVec 4) (v : Pred) : (k.wp r v).lastCtx = k.lastCtx := rfl
@[simp] theorem Core.wp_fenced (k : Core) (r : BitVec 4) (v : Pred) : (k.wp r v).fenced = k.fenced := rfl
@[simp] theorem Core.wp_preReq (k : Core) (r : BitVec 4) (v : Pred) : (k.wp r v).preReq = k.preReq := rfl
@[simp] theorem Core.wp_migReq (k : Core) (r : BitVec 4) (v : Pred) : (k.wp r v).migReq = k.migReq := rfl

@[simp] theorem Core.wh_lid (k : Core) (r : BitVec 4) (v : Word) : (k.wh r v).lid = k.lid := rfl
@[simp] theorem Core.wh_s (k : Core) (r : BitVec 4) (v : Word) : (k.wh r v).s = k.s := rfl
@[simp] theorem Core.wh_p (k : Core) (r : BitVec 4) (v : Word) : (k.wh r v).p = k.p := rfl
@[simp] theorem Core.wh_pc (k : Core) (r : BitVec 4) (v : Word) : (k.wh r v).pc = k.pc := rfl
@[simp] theorem Core.wh_handler (k : Core) (r : BitVec 4) (v : Word) : (k.wh r v).handler = k.handler := rfl
@[simp] theorem Core.wh_iter (k : Core) (r : BitVec 4) (v : Word) : (k.wh r v).iter = k.iter := rfl
@[simp] theorem Core.wh_taskid (k : Core) (r : BitVec 4) (v : Word) : (k.wh r v).taskid = k.taskid := rfl
@[simp] theorem Core.wh_pbreg (k : Core) (r : BitVec 4) (v : Word) : (k.wh r v).pbreg = k.pbreg := rfl
@[simp] theorem Core.wh_pbsp (k : Core) (r : BitVec 4) (v : Word) : (k.wh r v).pbsp = k.pbsp := rfl
@[simp] theorem Core.wh_pbcache (k : Core) (r : BitVec 4) (v : Word) : (k.wh r v).pbcache = k.pbcache := rfl
@[simp] theorem Core.wh_vview (k : Core) (r : BitVec 4) (v : Word) : (k.wh r v).vview = k.vview := rfl
@[simp] theorem Core.wh_tview (k : Core) (r : BitVec 4) (v : Word) : (k.wh r v).tview = k.tview := rfl
@[simp] theorem Core.wh_aview (k : Core) (r : BitVec 4) (v : Word) : (k.wh r v).aview = k.aview := rfl
@[simp] theorem Core.wh_tqcfg (k : Core) (r : BitVec 4) (v : Word) : (k.wh r v).tqcfg = k.tqcfg := rfl
@[simp] theorem Core.wh_ae (k : Core) (r : BitVec 4) (v : Word) : (k.wh r v).ae = k.ae := rfl
@[simp] theorem Core.wh_fmode (k : Core) (r : BitVec 4) (v : Word) : (k.wh r v).fmode = k.fmode := rfl
@[simp] theorem Core.wh_win (k : Core) (r : BitVec 4) (v : Word) : (k.wh r v).win = k.win := rfl
@[simp] theorem Core.wh_tvec (k : Core) (r : BitVec 4) (v : Word) : (k.wh r v).tvec = k.tvec := rfl
@[simp] theorem Core.wh_tcause (k : Core) (r : BitVec 4) (v : Word) : (k.wh r v).tcause = k.tcause := rfl
@[simp] theorem Core.wh_tepc (k : Core) (r : BitVec 4) (v : Word) : (k.wh r v).tepc = k.tepc := rfl
@[simp] theorem Core.wh_tval (k : Core) (r : BitVec 4) (v : Word) : (k.wh r v).tval = k.tval := rfl
@[simp] theorem Core.wh_status (k : Core) (r : BitVec 4) (v : Word) : (k.wh r v).status = k.status := rfl
@[simp] theorem Core.wh_lseed (k : Core) (r : BitVec 4) (v : Word) : (k.wh r v).lseed = k.lseed := rfl
@[simp] theorem Core.wh_lantern (k : Core) (r : BitVec 4) (v : Word) : (k.wh r v).lantern = k.lantern := rfl
@[simp] theorem Core.wh_phstate (k : Core) (r : BitVec 4) (v : Word) : (k.wh r v).phstate = k.phstate := rfl
@[simp] theorem Core.wh_phentry (k : Core) (r : BitVec 4) (v : Word) : (k.wh r v).phentry = k.phentry := rfl
@[simp] theorem Core.wh_phsnap (k : Core) (r : BitVec 4) (v : Word) : (k.wh r v).phsnap = k.phsnap := rfl
@[simp] theorem Core.wh_range (k : Core) (r : BitVec 4) (v : Word) : (k.wh r v).range = k.range := rfl
@[simp] theorem Core.wh_kvgen (k : Core) (r : BitVec 4) (v : Word) : (k.wh r v).kvgen = k.kvgen := rfl
@[simp] theorem Core.wh_tok (k : Core) (r : BitVec 4) (v : Word) : (k.wh r v).tok = k.tok := rfl
@[simp] theorem Core.wh_rsv (k : Core) (r : BitVec 4) (v : Word) : (k.wh r v).rsv = k.rsv := rfl
@[simp] theorem Core.wh_hz (k : Core) (r : BitVec 4) (v : Word) : (k.wh r v).hz = k.hz := rfl
@[simp] theorem Core.wh_obs (k : Core) (r : BitVec 4) (v : Word) : (k.wh r v).obs = k.obs := rfl
@[simp] theorem Core.wh_pend (k : Core) (r : BitVec 4) (v : Word) : (k.wh r v).pend = k.pend := rfl
@[simp] theorem Core.wh_groups (k : Core) (r : BitVec 4) (v : Word) : (k.wh r v).groups = k.groups := rfl
@[simp] theorem Core.wh_stamps (k : Core) (r : BitVec 4) (v : Word) : (k.wh r v).stamps = k.stamps := rfl
@[simp] theorem Core.wh_sidelog (k : Core) (r : BitVec 4) (v : Word) : (k.wh r v).sidelog = k.sidelog := rfl
@[simp] theorem Core.wh_wait (k : Core) (r : BitVec 4) (v : Word) : (k.wh r v).wait = k.wait := rfl
@[simp] theorem Core.wh_busyS (k : Core) (r : BitVec 4) (v : Word) : (k.wh r v).busyS = k.busyS := rfl
@[simp] theorem Core.wh_seq (k : Core) (r : BitVec 4) (v : Word) : (k.wh r v).seq = k.seq := rfl
@[simp] theorem Core.wh_soFloor (k : Core) (r : BitVec 4) (v : Word) : (k.wh r v).soFloor = k.soFloor := rfl
@[simp] theorem Core.wh_scRev (k : Core) (r : BitVec 4) (v : Word) : (k.wh r v).scRev = k.scRev := rfl
@[simp] theorem Core.wh_copies (k : Core) (r : BitVec 4) (v : Word) : (k.wh r v).copies = k.copies := rfl
@[simp] theorem Core.wh_landing (k : Core) (r : BitVec 4) (v : Word) : (k.wh r v).landing = k.landing := rfl
@[simp] theorem Core.wh_wcache (k : Core) (r : BitVec 4) (v : Word) : (k.wh r v).wcache = k.wcache := rfl
@[simp] theorem Core.wh_icache (k : Core) (r : BitVec 4) (v : Word) : (k.wh r v).icache = k.icache := rfl
@[simp] theorem Core.wh_vq (k : Core) (r : BitVec 4) (v : Word) : (k.wh r v).vq = k.vq := rfl
@[simp] theorem Core.wh_mq (k : Core) (r : BitVec 4) (v : Word) : (k.wh r v).mq = k.mq := rfl
@[simp] theorem Core.wh_cq (k : Core) (r : BitVec 4) (v : Word) : (k.wh r v).cq = k.cq := rfl
@[simp] theorem Core.wh_gq (k : Core) (r : BitVec 4) (v : Word) : (k.wh r v).gq = k.gq := rfl
@[simp] theorem Core.wh_xq (k : Core) (r : BitVec 4) (v : Word) : (k.wh r v).xq = k.xq := rfl
@[simp] theorem Core.wh_gs (k : Core) (r : BitVec 4) (v : Word) : (k.wh r v).gs = k.gs := rfl
@[simp] theorem Core.wh_tmpl (k : Core) (r : BitVec 4) (v : Word) : (k.wh r v).tmpl = k.tmpl := rfl
@[simp] theorem Core.wh_slots (k : Core) (r : BitVec 4) (v : Word) : (k.wh r v).slots = k.slots := rfl
@[simp] theorem Core.wh_mfail (k : Core) (r : BitVec 4) (v : Word) : (k.wh r v).mfail = k.mfail := rfl
@[simp] theorem Core.wh_lastCopy (k : Core) (r : BitVec 4) (v : Word) : (k.wh r v).lastCopy = k.lastCopy := rfl
@[simp] theorem Core.wh_xfloor (k : Core) (r : BitVec 4) (v : Word) : (k.wh r v).xfloor = k.xfloor := rfl
@[simp] theorem Core.wh_deferred (k : Core) (r : BitVec 4) (v : Word) : (k.wh r v).deferred = k.deferred := rfl
@[simp] theorem Core.wh_lastCtx (k : Core) (r : BitVec 4) (v : Word) : (k.wh r v).lastCtx = k.lastCtx := rfl
@[simp] theorem Core.wh_fenced (k : Core) (r : BitVec 4) (v : Word) : (k.wh r v).fenced = k.fenced := rfl
@[simp] theorem Core.wh_preReq (k : Core) (r : BitVec 4) (v : Word) : (k.wh r v).preReq = k.preReq := rfl
@[simp] theorem Core.wh_migReq (k : Core) (r : BitVec 4) (v : Word) : (k.wh r v).migReq = k.migReq := rfl

@[simp] theorem Core.setTokens_lid (k : Core) (q : BitVec 3) (n : Nat) : (k.setTokens q n).lid = k.lid := rfl
@[simp] theorem Core.setTokens_s (k : Core) (q : BitVec 3) (n : Nat) : (k.setTokens q n).s = k.s := rfl
@[simp] theorem Core.setTokens_p (k : Core) (q : BitVec 3) (n : Nat) : (k.setTokens q n).p = k.p := rfl
@[simp] theorem Core.setTokens_h (k : Core) (q : BitVec 3) (n : Nat) : (k.setTokens q n).h = k.h := rfl
@[simp] theorem Core.setTokens_pc (k : Core) (q : BitVec 3) (n : Nat) : (k.setTokens q n).pc = k.pc := rfl
@[simp] theorem Core.setTokens_handler (k : Core) (q : BitVec 3) (n : Nat) : (k.setTokens q n).handler = k.handler := rfl
@[simp] theorem Core.setTokens_iter (k : Core) (q : BitVec 3) (n : Nat) : (k.setTokens q n).iter = k.iter := rfl
@[simp] theorem Core.setTokens_taskid (k : Core) (q : BitVec 3) (n : Nat) : (k.setTokens q n).taskid = k.taskid := rfl
@[simp] theorem Core.setTokens_pbreg (k : Core) (q : BitVec 3) (n : Nat) : (k.setTokens q n).pbreg = k.pbreg := rfl
@[simp] theorem Core.setTokens_pbsp (k : Core) (q : BitVec 3) (n : Nat) : (k.setTokens q n).pbsp = k.pbsp := rfl
@[simp] theorem Core.setTokens_pbcache (k : Core) (q : BitVec 3) (n : Nat) : (k.setTokens q n).pbcache = k.pbcache := rfl
@[simp] theorem Core.setTokens_vview (k : Core) (q : BitVec 3) (n : Nat) : (k.setTokens q n).vview = k.vview := rfl
@[simp] theorem Core.setTokens_tview (k : Core) (q : BitVec 3) (n : Nat) : (k.setTokens q n).tview = k.tview := rfl
@[simp] theorem Core.setTokens_aview (k : Core) (q : BitVec 3) (n : Nat) : (k.setTokens q n).aview = k.aview := rfl
@[simp] theorem Core.setTokens_tqcfg (k : Core) (q : BitVec 3) (n : Nat) : (k.setTokens q n).tqcfg = k.tqcfg := rfl
@[simp] theorem Core.setTokens_ae (k : Core) (q : BitVec 3) (n : Nat) : (k.setTokens q n).ae = k.ae := rfl
@[simp] theorem Core.setTokens_fmode (k : Core) (q : BitVec 3) (n : Nat) : (k.setTokens q n).fmode = k.fmode := rfl
@[simp] theorem Core.setTokens_win (k : Core) (q : BitVec 3) (n : Nat) : (k.setTokens q n).win = k.win := rfl
@[simp] theorem Core.setTokens_tvec (k : Core) (q : BitVec 3) (n : Nat) : (k.setTokens q n).tvec = k.tvec := rfl
@[simp] theorem Core.setTokens_tcause (k : Core) (q : BitVec 3) (n : Nat) : (k.setTokens q n).tcause = k.tcause := rfl
@[simp] theorem Core.setTokens_tepc (k : Core) (q : BitVec 3) (n : Nat) : (k.setTokens q n).tepc = k.tepc := rfl
@[simp] theorem Core.setTokens_tval (k : Core) (q : BitVec 3) (n : Nat) : (k.setTokens q n).tval = k.tval := rfl
@[simp] theorem Core.setTokens_status (k : Core) (q : BitVec 3) (n : Nat) : (k.setTokens q n).status = k.status := rfl
@[simp] theorem Core.setTokens_lseed (k : Core) (q : BitVec 3) (n : Nat) : (k.setTokens q n).lseed = k.lseed := rfl
@[simp] theorem Core.setTokens_lantern (k : Core) (q : BitVec 3) (n : Nat) : (k.setTokens q n).lantern = k.lantern := rfl
@[simp] theorem Core.setTokens_phstate (k : Core) (q : BitVec 3) (n : Nat) : (k.setTokens q n).phstate = k.phstate := rfl
@[simp] theorem Core.setTokens_phentry (k : Core) (q : BitVec 3) (n : Nat) : (k.setTokens q n).phentry = k.phentry := rfl
@[simp] theorem Core.setTokens_phsnap (k : Core) (q : BitVec 3) (n : Nat) : (k.setTokens q n).phsnap = k.phsnap := rfl
@[simp] theorem Core.setTokens_range (k : Core) (q : BitVec 3) (n : Nat) : (k.setTokens q n).range = k.range := rfl
@[simp] theorem Core.setTokens_kvgen (k : Core) (q : BitVec 3) (n : Nat) : (k.setTokens q n).kvgen = k.kvgen := rfl
@[simp] theorem Core.setTokens_rsv (k : Core) (q : BitVec 3) (n : Nat) : (k.setTokens q n).rsv = k.rsv := rfl
@[simp] theorem Core.setTokens_hz (k : Core) (q : BitVec 3) (n : Nat) : (k.setTokens q n).hz = k.hz := rfl
@[simp] theorem Core.setTokens_obs (k : Core) (q : BitVec 3) (n : Nat) : (k.setTokens q n).obs = k.obs := rfl
@[simp] theorem Core.setTokens_pend (k : Core) (q : BitVec 3) (n : Nat) : (k.setTokens q n).pend = k.pend := rfl
@[simp] theorem Core.setTokens_groups (k : Core) (q : BitVec 3) (n : Nat) : (k.setTokens q n).groups = k.groups := rfl
@[simp] theorem Core.setTokens_stamps (k : Core) (q : BitVec 3) (n : Nat) : (k.setTokens q n).stamps = k.stamps := rfl
@[simp] theorem Core.setTokens_sidelog (k : Core) (q : BitVec 3) (n : Nat) : (k.setTokens q n).sidelog = k.sidelog := rfl
@[simp] theorem Core.setTokens_wait (k : Core) (q : BitVec 3) (n : Nat) : (k.setTokens q n).wait = k.wait := rfl
@[simp] theorem Core.setTokens_busyS (k : Core) (q : BitVec 3) (n : Nat) : (k.setTokens q n).busyS = k.busyS := rfl
@[simp] theorem Core.setTokens_seq (k : Core) (q : BitVec 3) (n : Nat) : (k.setTokens q n).seq = k.seq := rfl
@[simp] theorem Core.setTokens_soFloor (k : Core) (q : BitVec 3) (n : Nat) : (k.setTokens q n).soFloor = k.soFloor := rfl
@[simp] theorem Core.setTokens_scRev (k : Core) (q : BitVec 3) (n : Nat) : (k.setTokens q n).scRev = k.scRev := rfl
@[simp] theorem Core.setTokens_copies (k : Core) (q : BitVec 3) (n : Nat) : (k.setTokens q n).copies = k.copies := rfl
@[simp] theorem Core.setTokens_landing (k : Core) (q : BitVec 3) (n : Nat) : (k.setTokens q n).landing = k.landing := rfl
@[simp] theorem Core.setTokens_wcache (k : Core) (q : BitVec 3) (n : Nat) : (k.setTokens q n).wcache = k.wcache := rfl
@[simp] theorem Core.setTokens_icache (k : Core) (q : BitVec 3) (n : Nat) : (k.setTokens q n).icache = k.icache := rfl
@[simp] theorem Core.setTokens_vq (k : Core) (q : BitVec 3) (n : Nat) : (k.setTokens q n).vq = k.vq := rfl
@[simp] theorem Core.setTokens_mq (k : Core) (q : BitVec 3) (n : Nat) : (k.setTokens q n).mq = k.mq := rfl
@[simp] theorem Core.setTokens_cq (k : Core) (q : BitVec 3) (n : Nat) : (k.setTokens q n).cq = k.cq := rfl
@[simp] theorem Core.setTokens_gq (k : Core) (q : BitVec 3) (n : Nat) : (k.setTokens q n).gq = k.gq := rfl
@[simp] theorem Core.setTokens_xq (k : Core) (q : BitVec 3) (n : Nat) : (k.setTokens q n).xq = k.xq := rfl
@[simp] theorem Core.setTokens_gs (k : Core) (q : BitVec 3) (n : Nat) : (k.setTokens q n).gs = k.gs := rfl
@[simp] theorem Core.setTokens_tmpl (k : Core) (q : BitVec 3) (n : Nat) : (k.setTokens q n).tmpl = k.tmpl := rfl
@[simp] theorem Core.setTokens_slots (k : Core) (q : BitVec 3) (n : Nat) : (k.setTokens q n).slots = k.slots := rfl
@[simp] theorem Core.setTokens_mfail (k : Core) (q : BitVec 3) (n : Nat) : (k.setTokens q n).mfail = k.mfail := rfl
@[simp] theorem Core.setTokens_lastCopy (k : Core) (q : BitVec 3) (n : Nat) : (k.setTokens q n).lastCopy = k.lastCopy := rfl
@[simp] theorem Core.setTokens_xfloor (k : Core) (q : BitVec 3) (n : Nat) : (k.setTokens q n).xfloor = k.xfloor := rfl
@[simp] theorem Core.setTokens_deferred (k : Core) (q : BitVec 3) (n : Nat) : (k.setTokens q n).deferred = k.deferred := rfl
@[simp] theorem Core.setTokens_lastCtx (k : Core) (q : BitVec 3) (n : Nat) : (k.setTokens q n).lastCtx = k.lastCtx := rfl
@[simp] theorem Core.setTokens_fenced (k : Core) (q : BitVec 3) (n : Nat) : (k.setTokens q n).fenced = k.fenced := rfl
@[simp] theorem Core.setTokens_preReq (k : Core) (q : BitVec 3) (n : Nat) : (k.setTokens q n).preReq = k.preReq := rfl
@[simp] theorem Core.setTokens_migReq (k : Core) (q : BitVec 3) (n : Nat) : (k.setTokens q n).migReq = k.migReq := rfl

@[simp] theorem Core.setReserved_lid (k : Core) (q : BitVec 3) (n : Nat) : (k.setReserved q n).lid = k.lid := rfl
@[simp] theorem Core.setReserved_s (k : Core) (q : BitVec 3) (n : Nat) : (k.setReserved q n).s = k.s := rfl
@[simp] theorem Core.setReserved_p (k : Core) (q : BitVec 3) (n : Nat) : (k.setReserved q n).p = k.p := rfl
@[simp] theorem Core.setReserved_h (k : Core) (q : BitVec 3) (n : Nat) : (k.setReserved q n).h = k.h := rfl
@[simp] theorem Core.setReserved_pc (k : Core) (q : BitVec 3) (n : Nat) : (k.setReserved q n).pc = k.pc := rfl
@[simp] theorem Core.setReserved_handler (k : Core) (q : BitVec 3) (n : Nat) : (k.setReserved q n).handler = k.handler := rfl
@[simp] theorem Core.setReserved_iter (k : Core) (q : BitVec 3) (n : Nat) : (k.setReserved q n).iter = k.iter := rfl
@[simp] theorem Core.setReserved_taskid (k : Core) (q : BitVec 3) (n : Nat) : (k.setReserved q n).taskid = k.taskid := rfl
@[simp] theorem Core.setReserved_pbreg (k : Core) (q : BitVec 3) (n : Nat) : (k.setReserved q n).pbreg = k.pbreg := rfl
@[simp] theorem Core.setReserved_pbsp (k : Core) (q : BitVec 3) (n : Nat) : (k.setReserved q n).pbsp = k.pbsp := rfl
@[simp] theorem Core.setReserved_pbcache (k : Core) (q : BitVec 3) (n : Nat) : (k.setReserved q n).pbcache = k.pbcache := rfl
@[simp] theorem Core.setReserved_vview (k : Core) (q : BitVec 3) (n : Nat) : (k.setReserved q n).vview = k.vview := rfl
@[simp] theorem Core.setReserved_tview (k : Core) (q : BitVec 3) (n : Nat) : (k.setReserved q n).tview = k.tview := rfl
@[simp] theorem Core.setReserved_aview (k : Core) (q : BitVec 3) (n : Nat) : (k.setReserved q n).aview = k.aview := rfl
@[simp] theorem Core.setReserved_tqcfg (k : Core) (q : BitVec 3) (n : Nat) : (k.setReserved q n).tqcfg = k.tqcfg := rfl
@[simp] theorem Core.setReserved_ae (k : Core) (q : BitVec 3) (n : Nat) : (k.setReserved q n).ae = k.ae := rfl
@[simp] theorem Core.setReserved_fmode (k : Core) (q : BitVec 3) (n : Nat) : (k.setReserved q n).fmode = k.fmode := rfl
@[simp] theorem Core.setReserved_win (k : Core) (q : BitVec 3) (n : Nat) : (k.setReserved q n).win = k.win := rfl
@[simp] theorem Core.setReserved_tvec (k : Core) (q : BitVec 3) (n : Nat) : (k.setReserved q n).tvec = k.tvec := rfl
@[simp] theorem Core.setReserved_tcause (k : Core) (q : BitVec 3) (n : Nat) : (k.setReserved q n).tcause = k.tcause := rfl
@[simp] theorem Core.setReserved_tepc (k : Core) (q : BitVec 3) (n : Nat) : (k.setReserved q n).tepc = k.tepc := rfl
@[simp] theorem Core.setReserved_tval (k : Core) (q : BitVec 3) (n : Nat) : (k.setReserved q n).tval = k.tval := rfl
@[simp] theorem Core.setReserved_status (k : Core) (q : BitVec 3) (n : Nat) : (k.setReserved q n).status = k.status := rfl
@[simp] theorem Core.setReserved_lseed (k : Core) (q : BitVec 3) (n : Nat) : (k.setReserved q n).lseed = k.lseed := rfl
@[simp] theorem Core.setReserved_lantern (k : Core) (q : BitVec 3) (n : Nat) : (k.setReserved q n).lantern = k.lantern := rfl
@[simp] theorem Core.setReserved_phstate (k : Core) (q : BitVec 3) (n : Nat) : (k.setReserved q n).phstate = k.phstate := rfl
@[simp] theorem Core.setReserved_phentry (k : Core) (q : BitVec 3) (n : Nat) : (k.setReserved q n).phentry = k.phentry := rfl
@[simp] theorem Core.setReserved_phsnap (k : Core) (q : BitVec 3) (n : Nat) : (k.setReserved q n).phsnap = k.phsnap := rfl
@[simp] theorem Core.setReserved_range (k : Core) (q : BitVec 3) (n : Nat) : (k.setReserved q n).range = k.range := rfl
@[simp] theorem Core.setReserved_kvgen (k : Core) (q : BitVec 3) (n : Nat) : (k.setReserved q n).kvgen = k.kvgen := rfl
@[simp] theorem Core.setReserved_tok (k : Core) (q : BitVec 3) (n : Nat) : (k.setReserved q n).tok = k.tok := rfl
@[simp] theorem Core.setReserved_hz (k : Core) (q : BitVec 3) (n : Nat) : (k.setReserved q n).hz = k.hz := rfl
@[simp] theorem Core.setReserved_obs (k : Core) (q : BitVec 3) (n : Nat) : (k.setReserved q n).obs = k.obs := rfl
@[simp] theorem Core.setReserved_pend (k : Core) (q : BitVec 3) (n : Nat) : (k.setReserved q n).pend = k.pend := rfl
@[simp] theorem Core.setReserved_groups (k : Core) (q : BitVec 3) (n : Nat) : (k.setReserved q n).groups = k.groups := rfl
@[simp] theorem Core.setReserved_stamps (k : Core) (q : BitVec 3) (n : Nat) : (k.setReserved q n).stamps = k.stamps := rfl
@[simp] theorem Core.setReserved_sidelog (k : Core) (q : BitVec 3) (n : Nat) : (k.setReserved q n).sidelog = k.sidelog := rfl
@[simp] theorem Core.setReserved_wait (k : Core) (q : BitVec 3) (n : Nat) : (k.setReserved q n).wait = k.wait := rfl
@[simp] theorem Core.setReserved_busyS (k : Core) (q : BitVec 3) (n : Nat) : (k.setReserved q n).busyS = k.busyS := rfl
@[simp] theorem Core.setReserved_seq (k : Core) (q : BitVec 3) (n : Nat) : (k.setReserved q n).seq = k.seq := rfl
@[simp] theorem Core.setReserved_soFloor (k : Core) (q : BitVec 3) (n : Nat) : (k.setReserved q n).soFloor = k.soFloor := rfl
@[simp] theorem Core.setReserved_scRev (k : Core) (q : BitVec 3) (n : Nat) : (k.setReserved q n).scRev = k.scRev := rfl
@[simp] theorem Core.setReserved_copies (k : Core) (q : BitVec 3) (n : Nat) : (k.setReserved q n).copies = k.copies := rfl
@[simp] theorem Core.setReserved_landing (k : Core) (q : BitVec 3) (n : Nat) : (k.setReserved q n).landing = k.landing := rfl
@[simp] theorem Core.setReserved_wcache (k : Core) (q : BitVec 3) (n : Nat) : (k.setReserved q n).wcache = k.wcache := rfl
@[simp] theorem Core.setReserved_icache (k : Core) (q : BitVec 3) (n : Nat) : (k.setReserved q n).icache = k.icache := rfl
@[simp] theorem Core.setReserved_vq (k : Core) (q : BitVec 3) (n : Nat) : (k.setReserved q n).vq = k.vq := rfl
@[simp] theorem Core.setReserved_mq (k : Core) (q : BitVec 3) (n : Nat) : (k.setReserved q n).mq = k.mq := rfl
@[simp] theorem Core.setReserved_cq (k : Core) (q : BitVec 3) (n : Nat) : (k.setReserved q n).cq = k.cq := rfl
@[simp] theorem Core.setReserved_gq (k : Core) (q : BitVec 3) (n : Nat) : (k.setReserved q n).gq = k.gq := rfl
@[simp] theorem Core.setReserved_xq (k : Core) (q : BitVec 3) (n : Nat) : (k.setReserved q n).xq = k.xq := rfl
@[simp] theorem Core.setReserved_gs (k : Core) (q : BitVec 3) (n : Nat) : (k.setReserved q n).gs = k.gs := rfl
@[simp] theorem Core.setReserved_tmpl (k : Core) (q : BitVec 3) (n : Nat) : (k.setReserved q n).tmpl = k.tmpl := rfl
@[simp] theorem Core.setReserved_slots (k : Core) (q : BitVec 3) (n : Nat) : (k.setReserved q n).slots = k.slots := rfl
@[simp] theorem Core.setReserved_mfail (k : Core) (q : BitVec 3) (n : Nat) : (k.setReserved q n).mfail = k.mfail := rfl
@[simp] theorem Core.setReserved_lastCopy (k : Core) (q : BitVec 3) (n : Nat) : (k.setReserved q n).lastCopy = k.lastCopy := rfl
@[simp] theorem Core.setReserved_xfloor (k : Core) (q : BitVec 3) (n : Nat) : (k.setReserved q n).xfloor = k.xfloor := rfl
@[simp] theorem Core.setReserved_deferred (k : Core) (q : BitVec 3) (n : Nat) : (k.setReserved q n).deferred = k.deferred := rfl
@[simp] theorem Core.setReserved_lastCtx (k : Core) (q : BitVec 3) (n : Nat) : (k.setReserved q n).lastCtx = k.lastCtx := rfl
@[simp] theorem Core.setReserved_fenced (k : Core) (q : BitVec 3) (n : Nat) : (k.setReserved q n).fenced = k.fenced := rfl
@[simp] theorem Core.setReserved_preReq (k : Core) (q : BitVec 3) (n : Nat) : (k.setReserved q n).preReq = k.preReq := rfl
@[simp] theorem Core.setReserved_migReq (k : Core) (q : BitVec 3) (n : Nat) : (k.setReserved q n).migReq = k.migReq := rfl

@[simp] theorem Core.ws_lid (k : Core) (r : BitVec 6) (v : Word) : (k.ws r v).lid = k.lid := by unfold Core.ws; split <;> rfl
@[simp] theorem Core.ws_p (k : Core) (r : BitVec 6) (v : Word) : (k.ws r v).p = k.p := by unfold Core.ws; split <;> rfl
@[simp] theorem Core.ws_h (k : Core) (r : BitVec 6) (v : Word) : (k.ws r v).h = k.h := by unfold Core.ws; split <;> rfl
@[simp] theorem Core.ws_pc (k : Core) (r : BitVec 6) (v : Word) : (k.ws r v).pc = k.pc := by unfold Core.ws; split <;> rfl
@[simp] theorem Core.ws_handler (k : Core) (r : BitVec 6) (v : Word) : (k.ws r v).handler = k.handler := by unfold Core.ws; split <;> rfl
@[simp] theorem Core.ws_iter (k : Core) (r : BitVec 6) (v : Word) : (k.ws r v).iter = k.iter := by unfold Core.ws; split <;> rfl
@[simp] theorem Core.ws_taskid (k : Core) (r : BitVec 6) (v : Word) : (k.ws r v).taskid = k.taskid := by unfold Core.ws; split <;> rfl
@[simp] theorem Core.ws_pbreg (k : Core) (r : BitVec 6) (v : Word) : (k.ws r v).pbreg = k.pbreg := by unfold Core.ws; split <;> rfl
@[simp] theorem Core.ws_pbsp (k : Core) (r : BitVec 6) (v : Word) : (k.ws r v).pbsp = k.pbsp := by unfold Core.ws; split <;> rfl
@[simp] theorem Core.ws_pbcache (k : Core) (r : BitVec 6) (v : Word) : (k.ws r v).pbcache = k.pbcache := by unfold Core.ws; split <;> rfl
@[simp] theorem Core.ws_vview (k : Core) (r : BitVec 6) (v : Word) : (k.ws r v).vview = k.vview := by unfold Core.ws; split <;> rfl
@[simp] theorem Core.ws_tview (k : Core) (r : BitVec 6) (v : Word) : (k.ws r v).tview = k.tview := by unfold Core.ws; split <;> rfl
@[simp] theorem Core.ws_aview (k : Core) (r : BitVec 6) (v : Word) : (k.ws r v).aview = k.aview := by unfold Core.ws; split <;> rfl
@[simp] theorem Core.ws_tqcfg (k : Core) (r : BitVec 6) (v : Word) : (k.ws r v).tqcfg = k.tqcfg := by unfold Core.ws; split <;> rfl
@[simp] theorem Core.ws_ae (k : Core) (r : BitVec 6) (v : Word) : (k.ws r v).ae = k.ae := by unfold Core.ws; split <;> rfl
@[simp] theorem Core.ws_fmode (k : Core) (r : BitVec 6) (v : Word) : (k.ws r v).fmode = k.fmode := by unfold Core.ws; split <;> rfl
@[simp] theorem Core.ws_win (k : Core) (r : BitVec 6) (v : Word) : (k.ws r v).win = k.win := by unfold Core.ws; split <;> rfl
@[simp] theorem Core.ws_tvec (k : Core) (r : BitVec 6) (v : Word) : (k.ws r v).tvec = k.tvec := by unfold Core.ws; split <;> rfl
@[simp] theorem Core.ws_tcause (k : Core) (r : BitVec 6) (v : Word) : (k.ws r v).tcause = k.tcause := by unfold Core.ws; split <;> rfl
@[simp] theorem Core.ws_tepc (k : Core) (r : BitVec 6) (v : Word) : (k.ws r v).tepc = k.tepc := by unfold Core.ws; split <;> rfl
@[simp] theorem Core.ws_tval (k : Core) (r : BitVec 6) (v : Word) : (k.ws r v).tval = k.tval := by unfold Core.ws; split <;> rfl
@[simp] theorem Core.ws_status (k : Core) (r : BitVec 6) (v : Word) : (k.ws r v).status = k.status := by unfold Core.ws; split <;> rfl
@[simp] theorem Core.ws_lseed (k : Core) (r : BitVec 6) (v : Word) : (k.ws r v).lseed = k.lseed := by unfold Core.ws; split <;> rfl
@[simp] theorem Core.ws_lantern (k : Core) (r : BitVec 6) (v : Word) : (k.ws r v).lantern = k.lantern := by unfold Core.ws; split <;> rfl
@[simp] theorem Core.ws_phstate (k : Core) (r : BitVec 6) (v : Word) : (k.ws r v).phstate = k.phstate := by unfold Core.ws; split <;> rfl
@[simp] theorem Core.ws_phentry (k : Core) (r : BitVec 6) (v : Word) : (k.ws r v).phentry = k.phentry := by unfold Core.ws; split <;> rfl
@[simp] theorem Core.ws_phsnap (k : Core) (r : BitVec 6) (v : Word) : (k.ws r v).phsnap = k.phsnap := by unfold Core.ws; split <;> rfl
@[simp] theorem Core.ws_range (k : Core) (r : BitVec 6) (v : Word) : (k.ws r v).range = k.range := by unfold Core.ws; split <;> rfl
@[simp] theorem Core.ws_kvgen (k : Core) (r : BitVec 6) (v : Word) : (k.ws r v).kvgen = k.kvgen := by unfold Core.ws; split <;> rfl
@[simp] theorem Core.ws_tok (k : Core) (r : BitVec 6) (v : Word) : (k.ws r v).tok = k.tok := by unfold Core.ws; split <;> rfl
@[simp] theorem Core.ws_rsv (k : Core) (r : BitVec 6) (v : Word) : (k.ws r v).rsv = k.rsv := by unfold Core.ws; split <;> rfl
@[simp] theorem Core.ws_hz (k : Core) (r : BitVec 6) (v : Word) : (k.ws r v).hz = k.hz := by unfold Core.ws; split <;> rfl
@[simp] theorem Core.ws_obs (k : Core) (r : BitVec 6) (v : Word) : (k.ws r v).obs = k.obs := by unfold Core.ws; split <;> rfl
@[simp] theorem Core.ws_pend (k : Core) (r : BitVec 6) (v : Word) : (k.ws r v).pend = k.pend := by unfold Core.ws; split <;> rfl
@[simp] theorem Core.ws_groups (k : Core) (r : BitVec 6) (v : Word) : (k.ws r v).groups = k.groups := by unfold Core.ws; split <;> rfl
@[simp] theorem Core.ws_stamps (k : Core) (r : BitVec 6) (v : Word) : (k.ws r v).stamps = k.stamps := by unfold Core.ws; split <;> rfl
@[simp] theorem Core.ws_sidelog (k : Core) (r : BitVec 6) (v : Word) : (k.ws r v).sidelog = k.sidelog := by unfold Core.ws; split <;> rfl
@[simp] theorem Core.ws_wait (k : Core) (r : BitVec 6) (v : Word) : (k.ws r v).wait = k.wait := by unfold Core.ws; split <;> rfl
@[simp] theorem Core.ws_busyS (k : Core) (r : BitVec 6) (v : Word) : (k.ws r v).busyS = k.busyS := by unfold Core.ws; split <;> rfl
@[simp] theorem Core.ws_seq (k : Core) (r : BitVec 6) (v : Word) : (k.ws r v).seq = k.seq := by unfold Core.ws; split <;> rfl
@[simp] theorem Core.ws_soFloor (k : Core) (r : BitVec 6) (v : Word) : (k.ws r v).soFloor = k.soFloor := by unfold Core.ws; split <;> rfl
@[simp] theorem Core.ws_scRev (k : Core) (r : BitVec 6) (v : Word) : (k.ws r v).scRev = k.scRev := by unfold Core.ws; split <;> rfl
@[simp] theorem Core.ws_copies (k : Core) (r : BitVec 6) (v : Word) : (k.ws r v).copies = k.copies := by unfold Core.ws; split <;> rfl
@[simp] theorem Core.ws_landing (k : Core) (r : BitVec 6) (v : Word) : (k.ws r v).landing = k.landing := by unfold Core.ws; split <;> rfl
@[simp] theorem Core.ws_wcache (k : Core) (r : BitVec 6) (v : Word) : (k.ws r v).wcache = k.wcache := by unfold Core.ws; split <;> rfl
@[simp] theorem Core.ws_icache (k : Core) (r : BitVec 6) (v : Word) : (k.ws r v).icache = k.icache := by unfold Core.ws; split <;> rfl
@[simp] theorem Core.ws_vq (k : Core) (r : BitVec 6) (v : Word) : (k.ws r v).vq = k.vq := by unfold Core.ws; split <;> rfl
@[simp] theorem Core.ws_mq (k : Core) (r : BitVec 6) (v : Word) : (k.ws r v).mq = k.mq := by unfold Core.ws; split <;> rfl
@[simp] theorem Core.ws_cq (k : Core) (r : BitVec 6) (v : Word) : (k.ws r v).cq = k.cq := by unfold Core.ws; split <;> rfl
@[simp] theorem Core.ws_gq (k : Core) (r : BitVec 6) (v : Word) : (k.ws r v).gq = k.gq := by unfold Core.ws; split <;> rfl
@[simp] theorem Core.ws_xq (k : Core) (r : BitVec 6) (v : Word) : (k.ws r v).xq = k.xq := by unfold Core.ws; split <;> rfl
@[simp] theorem Core.ws_gs (k : Core) (r : BitVec 6) (v : Word) : (k.ws r v).gs = k.gs := by unfold Core.ws; split <;> rfl
@[simp] theorem Core.ws_tmpl (k : Core) (r : BitVec 6) (v : Word) : (k.ws r v).tmpl = k.tmpl := by unfold Core.ws; split <;> rfl
@[simp] theorem Core.ws_slots (k : Core) (r : BitVec 6) (v : Word) : (k.ws r v).slots = k.slots := by unfold Core.ws; split <;> rfl
@[simp] theorem Core.ws_mfail (k : Core) (r : BitVec 6) (v : Word) : (k.ws r v).mfail = k.mfail := by unfold Core.ws; split <;> rfl
@[simp] theorem Core.ws_lastCopy (k : Core) (r : BitVec 6) (v : Word) : (k.ws r v).lastCopy = k.lastCopy := by unfold Core.ws; split <;> rfl
@[simp] theorem Core.ws_xfloor (k : Core) (r : BitVec 6) (v : Word) : (k.ws r v).xfloor = k.xfloor := by unfold Core.ws; split <;> rfl
@[simp] theorem Core.ws_deferred (k : Core) (r : BitVec 6) (v : Word) : (k.ws r v).deferred = k.deferred := by unfold Core.ws; split <;> rfl
@[simp] theorem Core.ws_lastCtx (k : Core) (r : BitVec 6) (v : Word) : (k.ws r v).lastCtx = k.lastCtx := by unfold Core.ws; split <;> rfl
@[simp] theorem Core.ws_fenced (k : Core) (r : BitVec 6) (v : Word) : (k.ws r v).fenced = k.fenced := by unfold Core.ws; split <;> rfl
@[simp] theorem Core.ws_preReq (k : Core) (r : BitVec 6) (v : Word) : (k.ws r v).preReq = k.preReq := by unfold Core.ws; split <;> rfl
@[simp] theorem Core.ws_migReq (k : Core) (r : BitVec 6) (v : Word) : (k.ws r v).migReq = k.migReq := by unfold Core.ws; split <;> rfl

@[simp] theorem Core.pop_lid (k : Core) (q : BitVec 3) : (k.pop q).lid = k.lid := by unfold Core.pop; split <;> rfl
@[simp] theorem Core.pop_s (k : Core) (q : BitVec 3) : (k.pop q).s = k.s := by unfold Core.pop; split <;> rfl
@[simp] theorem Core.pop_p (k : Core) (q : BitVec 3) : (k.pop q).p = k.p := by unfold Core.pop; split <;> rfl
@[simp] theorem Core.pop_h (k : Core) (q : BitVec 3) : (k.pop q).h = k.h := by unfold Core.pop; split <;> rfl
@[simp] theorem Core.pop_pc (k : Core) (q : BitVec 3) : (k.pop q).pc = k.pc := by unfold Core.pop; split <;> rfl
@[simp] theorem Core.pop_handler (k : Core) (q : BitVec 3) : (k.pop q).handler = k.handler := by unfold Core.pop; split <;> rfl
@[simp] theorem Core.pop_iter (k : Core) (q : BitVec 3) : (k.pop q).iter = k.iter := by unfold Core.pop; split <;> rfl
@[simp] theorem Core.pop_taskid (k : Core) (q : BitVec 3) : (k.pop q).taskid = k.taskid := by unfold Core.pop; split <;> rfl
@[simp] theorem Core.pop_pbreg (k : Core) (q : BitVec 3) : (k.pop q).pbreg = k.pbreg := by unfold Core.pop; split <;> rfl
@[simp] theorem Core.pop_pbsp (k : Core) (q : BitVec 3) : (k.pop q).pbsp = k.pbsp := by unfold Core.pop; split <;> rfl
@[simp] theorem Core.pop_pbcache (k : Core) (q : BitVec 3) : (k.pop q).pbcache = k.pbcache := by unfold Core.pop; split <;> rfl
@[simp] theorem Core.pop_vview (k : Core) (q : BitVec 3) : (k.pop q).vview = k.vview := by unfold Core.pop; split <;> rfl
@[simp] theorem Core.pop_tview (k : Core) (q : BitVec 3) : (k.pop q).tview = k.tview := by unfold Core.pop; split <;> rfl
@[simp] theorem Core.pop_aview (k : Core) (q : BitVec 3) : (k.pop q).aview = k.aview := by unfold Core.pop; split <;> rfl
@[simp] theorem Core.pop_tqcfg (k : Core) (q : BitVec 3) : (k.pop q).tqcfg = k.tqcfg := by unfold Core.pop; split <;> rfl
@[simp] theorem Core.pop_ae (k : Core) (q : BitVec 3) : (k.pop q).ae = k.ae := by unfold Core.pop; split <;> rfl
@[simp] theorem Core.pop_fmode (k : Core) (q : BitVec 3) : (k.pop q).fmode = k.fmode := by unfold Core.pop; split <;> rfl
@[simp] theorem Core.pop_win (k : Core) (q : BitVec 3) : (k.pop q).win = k.win := by unfold Core.pop; split <;> rfl
@[simp] theorem Core.pop_tvec (k : Core) (q : BitVec 3) : (k.pop q).tvec = k.tvec := by unfold Core.pop; split <;> rfl
@[simp] theorem Core.pop_tcause (k : Core) (q : BitVec 3) : (k.pop q).tcause = k.tcause := by unfold Core.pop; split <;> rfl
@[simp] theorem Core.pop_tepc (k : Core) (q : BitVec 3) : (k.pop q).tepc = k.tepc := by unfold Core.pop; split <;> rfl
@[simp] theorem Core.pop_tval (k : Core) (q : BitVec 3) : (k.pop q).tval = k.tval := by unfold Core.pop; split <;> rfl
@[simp] theorem Core.pop_status (k : Core) (q : BitVec 3) : (k.pop q).status = k.status := by unfold Core.pop; split <;> rfl
@[simp] theorem Core.pop_lseed (k : Core) (q : BitVec 3) : (k.pop q).lseed = k.lseed := by unfold Core.pop; split <;> rfl
@[simp] theorem Core.pop_lantern (k : Core) (q : BitVec 3) : (k.pop q).lantern = k.lantern := by unfold Core.pop; split <;> rfl
@[simp] theorem Core.pop_phstate (k : Core) (q : BitVec 3) : (k.pop q).phstate = k.phstate := by unfold Core.pop; split <;> rfl
@[simp] theorem Core.pop_phentry (k : Core) (q : BitVec 3) : (k.pop q).phentry = k.phentry := by unfold Core.pop; split <;> rfl
@[simp] theorem Core.pop_phsnap (k : Core) (q : BitVec 3) : (k.pop q).phsnap = k.phsnap := by unfold Core.pop; split <;> rfl
@[simp] theorem Core.pop_range (k : Core) (q : BitVec 3) : (k.pop q).range = k.range := by unfold Core.pop; split <;> rfl
@[simp] theorem Core.pop_kvgen (k : Core) (q : BitVec 3) : (k.pop q).kvgen = k.kvgen := by unfold Core.pop; split <;> rfl
@[simp] theorem Core.pop_rsv (k : Core) (q : BitVec 3) : (k.pop q).rsv = k.rsv := by unfold Core.pop; split <;> rfl
@[simp] theorem Core.pop_hz (k : Core) (q : BitVec 3) : (k.pop q).hz = k.hz := by unfold Core.pop; split <;> rfl
@[simp] theorem Core.pop_obs (k : Core) (q : BitVec 3) : (k.pop q).obs = k.obs := by unfold Core.pop; split <;> rfl
@[simp] theorem Core.pop_pend (k : Core) (q : BitVec 3) : (k.pop q).pend = k.pend := by unfold Core.pop; split <;> rfl
@[simp] theorem Core.pop_groups (k : Core) (q : BitVec 3) : (k.pop q).groups = k.groups := by unfold Core.pop; split <;> rfl
@[simp] theorem Core.pop_stamps (k : Core) (q : BitVec 3) : (k.pop q).stamps = k.stamps := by unfold Core.pop; split <;> rfl
@[simp] theorem Core.pop_sidelog (k : Core) (q : BitVec 3) : (k.pop q).sidelog = k.sidelog := by unfold Core.pop; split <;> rfl
@[simp] theorem Core.pop_wait (k : Core) (q : BitVec 3) : (k.pop q).wait = k.wait := by unfold Core.pop; split <;> rfl
@[simp] theorem Core.pop_busyS (k : Core) (q : BitVec 3) : (k.pop q).busyS = k.busyS := by unfold Core.pop; split <;> rfl
@[simp] theorem Core.pop_seq (k : Core) (q : BitVec 3) : (k.pop q).seq = k.seq := by unfold Core.pop; split <;> rfl
@[simp] theorem Core.pop_soFloor (k : Core) (q : BitVec 3) : (k.pop q).soFloor = k.soFloor := by unfold Core.pop; split <;> rfl
@[simp] theorem Core.pop_scRev (k : Core) (q : BitVec 3) : (k.pop q).scRev = k.scRev := by unfold Core.pop; split <;> rfl
@[simp] theorem Core.pop_copies (k : Core) (q : BitVec 3) : (k.pop q).copies = k.copies := by unfold Core.pop; split <;> rfl
@[simp] theorem Core.pop_landing (k : Core) (q : BitVec 3) : (k.pop q).landing = k.landing := by unfold Core.pop; split <;> rfl
@[simp] theorem Core.pop_wcache (k : Core) (q : BitVec 3) : (k.pop q).wcache = k.wcache := by unfold Core.pop; split <;> rfl
@[simp] theorem Core.pop_icache (k : Core) (q : BitVec 3) : (k.pop q).icache = k.icache := by unfold Core.pop; split <;> rfl
@[simp] theorem Core.pop_vq (k : Core) (q : BitVec 3) : (k.pop q).vq = k.vq := by unfold Core.pop; split <;> rfl
@[simp] theorem Core.pop_mq (k : Core) (q : BitVec 3) : (k.pop q).mq = k.mq := by unfold Core.pop; split <;> rfl
@[simp] theorem Core.pop_cq (k : Core) (q : BitVec 3) : (k.pop q).cq = k.cq := by unfold Core.pop; split <;> rfl
@[simp] theorem Core.pop_gq (k : Core) (q : BitVec 3) : (k.pop q).gq = k.gq := by unfold Core.pop; split <;> rfl
@[simp] theorem Core.pop_xq (k : Core) (q : BitVec 3) : (k.pop q).xq = k.xq := by unfold Core.pop; split <;> rfl
@[simp] theorem Core.pop_gs (k : Core) (q : BitVec 3) : (k.pop q).gs = k.gs := by unfold Core.pop; split <;> rfl
@[simp] theorem Core.pop_tmpl (k : Core) (q : BitVec 3) : (k.pop q).tmpl = k.tmpl := by unfold Core.pop; split <;> rfl
@[simp] theorem Core.pop_slots (k : Core) (q : BitVec 3) : (k.pop q).slots = k.slots := by unfold Core.pop; split <;> rfl
@[simp] theorem Core.pop_mfail (k : Core) (q : BitVec 3) : (k.pop q).mfail = k.mfail := by unfold Core.pop; split <;> rfl
@[simp] theorem Core.pop_lastCopy (k : Core) (q : BitVec 3) : (k.pop q).lastCopy = k.lastCopy := by unfold Core.pop; split <;> rfl
@[simp] theorem Core.pop_xfloor (k : Core) (q : BitVec 3) : (k.pop q).xfloor = k.xfloor := by unfold Core.pop; split <;> rfl
@[simp] theorem Core.pop_deferred (k : Core) (q : BitVec 3) : (k.pop q).deferred = k.deferred := by unfold Core.pop; split <;> rfl
@[simp] theorem Core.pop_lastCtx (k : Core) (q : BitVec 3) : (k.pop q).lastCtx = k.lastCtx := by unfold Core.pop; split <;> rfl
@[simp] theorem Core.pop_fenced (k : Core) (q : BitVec 3) : (k.pop q).fenced = k.fenced := by unfold Core.pop; split <;> rfl
@[simp] theorem Core.pop_preReq (k : Core) (q : BitVec 3) : (k.pop q).preReq = k.preReq := by unfold Core.pop; split <;> rfl
@[simp] theorem Core.pop_migReq (k : Core) (q : BitVec 3) : (k.pop q).migReq = k.migReq := by unfold Core.pop; split <;> rfl

@[simp] theorem Core.push_lid (k : Core) (q : BitVec 3) : (k.push q).lid = k.lid := by unfold Core.push; split <;> rfl
@[simp] theorem Core.push_s (k : Core) (q : BitVec 3) : (k.push q).s = k.s := by unfold Core.push; split <;> rfl
@[simp] theorem Core.push_p (k : Core) (q : BitVec 3) : (k.push q).p = k.p := by unfold Core.push; split <;> rfl
@[simp] theorem Core.push_h (k : Core) (q : BitVec 3) : (k.push q).h = k.h := by unfold Core.push; split <;> rfl
@[simp] theorem Core.push_pc (k : Core) (q : BitVec 3) : (k.push q).pc = k.pc := by unfold Core.push; split <;> rfl
@[simp] theorem Core.push_handler (k : Core) (q : BitVec 3) : (k.push q).handler = k.handler := by unfold Core.push; split <;> rfl
@[simp] theorem Core.push_iter (k : Core) (q : BitVec 3) : (k.push q).iter = k.iter := by unfold Core.push; split <;> rfl
@[simp] theorem Core.push_taskid (k : Core) (q : BitVec 3) : (k.push q).taskid = k.taskid := by unfold Core.push; split <;> rfl
@[simp] theorem Core.push_pbreg (k : Core) (q : BitVec 3) : (k.push q).pbreg = k.pbreg := by unfold Core.push; split <;> rfl
@[simp] theorem Core.push_pbsp (k : Core) (q : BitVec 3) : (k.push q).pbsp = k.pbsp := by unfold Core.push; split <;> rfl
@[simp] theorem Core.push_pbcache (k : Core) (q : BitVec 3) : (k.push q).pbcache = k.pbcache := by unfold Core.push; split <;> rfl
@[simp] theorem Core.push_vview (k : Core) (q : BitVec 3) : (k.push q).vview = k.vview := by unfold Core.push; split <;> rfl
@[simp] theorem Core.push_tview (k : Core) (q : BitVec 3) : (k.push q).tview = k.tview := by unfold Core.push; split <;> rfl
@[simp] theorem Core.push_aview (k : Core) (q : BitVec 3) : (k.push q).aview = k.aview := by unfold Core.push; split <;> rfl
@[simp] theorem Core.push_tqcfg (k : Core) (q : BitVec 3) : (k.push q).tqcfg = k.tqcfg := by unfold Core.push; split <;> rfl
@[simp] theorem Core.push_ae (k : Core) (q : BitVec 3) : (k.push q).ae = k.ae := by unfold Core.push; split <;> rfl
@[simp] theorem Core.push_fmode (k : Core) (q : BitVec 3) : (k.push q).fmode = k.fmode := by unfold Core.push; split <;> rfl
@[simp] theorem Core.push_win (k : Core) (q : BitVec 3) : (k.push q).win = k.win := by unfold Core.push; split <;> rfl
@[simp] theorem Core.push_tvec (k : Core) (q : BitVec 3) : (k.push q).tvec = k.tvec := by unfold Core.push; split <;> rfl
@[simp] theorem Core.push_tcause (k : Core) (q : BitVec 3) : (k.push q).tcause = k.tcause := by unfold Core.push; split <;> rfl
@[simp] theorem Core.push_tepc (k : Core) (q : BitVec 3) : (k.push q).tepc = k.tepc := by unfold Core.push; split <;> rfl
@[simp] theorem Core.push_tval (k : Core) (q : BitVec 3) : (k.push q).tval = k.tval := by unfold Core.push; split <;> rfl
@[simp] theorem Core.push_status (k : Core) (q : BitVec 3) : (k.push q).status = k.status := by unfold Core.push; split <;> rfl
@[simp] theorem Core.push_lseed (k : Core) (q : BitVec 3) : (k.push q).lseed = k.lseed := by unfold Core.push; split <;> rfl
@[simp] theorem Core.push_lantern (k : Core) (q : BitVec 3) : (k.push q).lantern = k.lantern := by unfold Core.push; split <;> rfl
@[simp] theorem Core.push_phstate (k : Core) (q : BitVec 3) : (k.push q).phstate = k.phstate := by unfold Core.push; split <;> rfl
@[simp] theorem Core.push_phentry (k : Core) (q : BitVec 3) : (k.push q).phentry = k.phentry := by unfold Core.push; split <;> rfl
@[simp] theorem Core.push_phsnap (k : Core) (q : BitVec 3) : (k.push q).phsnap = k.phsnap := by unfold Core.push; split <;> rfl
@[simp] theorem Core.push_range (k : Core) (q : BitVec 3) : (k.push q).range = k.range := by unfold Core.push; split <;> rfl
@[simp] theorem Core.push_kvgen (k : Core) (q : BitVec 3) : (k.push q).kvgen = k.kvgen := by unfold Core.push; split <;> rfl
@[simp] theorem Core.push_rsv (k : Core) (q : BitVec 3) : (k.push q).rsv = k.rsv := by unfold Core.push; split <;> rfl
@[simp] theorem Core.push_hz (k : Core) (q : BitVec 3) : (k.push q).hz = k.hz := by unfold Core.push; split <;> rfl
@[simp] theorem Core.push_obs (k : Core) (q : BitVec 3) : (k.push q).obs = k.obs := by unfold Core.push; split <;> rfl
@[simp] theorem Core.push_pend (k : Core) (q : BitVec 3) : (k.push q).pend = k.pend := by unfold Core.push; split <;> rfl
@[simp] theorem Core.push_groups (k : Core) (q : BitVec 3) : (k.push q).groups = k.groups := by unfold Core.push; split <;> rfl
@[simp] theorem Core.push_stamps (k : Core) (q : BitVec 3) : (k.push q).stamps = k.stamps := by unfold Core.push; split <;> rfl
@[simp] theorem Core.push_sidelog (k : Core) (q : BitVec 3) : (k.push q).sidelog = k.sidelog := by unfold Core.push; split <;> rfl
@[simp] theorem Core.push_wait (k : Core) (q : BitVec 3) : (k.push q).wait = k.wait := by unfold Core.push; split <;> rfl
@[simp] theorem Core.push_busyS (k : Core) (q : BitVec 3) : (k.push q).busyS = k.busyS := by unfold Core.push; split <;> rfl
@[simp] theorem Core.push_seq (k : Core) (q : BitVec 3) : (k.push q).seq = k.seq := by unfold Core.push; split <;> rfl
@[simp] theorem Core.push_soFloor (k : Core) (q : BitVec 3) : (k.push q).soFloor = k.soFloor := by unfold Core.push; split <;> rfl
@[simp] theorem Core.push_scRev (k : Core) (q : BitVec 3) : (k.push q).scRev = k.scRev := by unfold Core.push; split <;> rfl
@[simp] theorem Core.push_copies (k : Core) (q : BitVec 3) : (k.push q).copies = k.copies := by unfold Core.push; split <;> rfl
@[simp] theorem Core.push_landing (k : Core) (q : BitVec 3) : (k.push q).landing = k.landing := by unfold Core.push; split <;> rfl
@[simp] theorem Core.push_wcache (k : Core) (q : BitVec 3) : (k.push q).wcache = k.wcache := by unfold Core.push; split <;> rfl
@[simp] theorem Core.push_icache (k : Core) (q : BitVec 3) : (k.push q).icache = k.icache := by unfold Core.push; split <;> rfl
@[simp] theorem Core.push_vq (k : Core) (q : BitVec 3) : (k.push q).vq = k.vq := by unfold Core.push; split <;> rfl
@[simp] theorem Core.push_mq (k : Core) (q : BitVec 3) : (k.push q).mq = k.mq := by unfold Core.push; split <;> rfl
@[simp] theorem Core.push_cq (k : Core) (q : BitVec 3) : (k.push q).cq = k.cq := by unfold Core.push; split <;> rfl
@[simp] theorem Core.push_gq (k : Core) (q : BitVec 3) : (k.push q).gq = k.gq := by unfold Core.push; split <;> rfl
@[simp] theorem Core.push_xq (k : Core) (q : BitVec 3) : (k.push q).xq = k.xq := by unfold Core.push; split <;> rfl
@[simp] theorem Core.push_gs (k : Core) (q : BitVec 3) : (k.push q).gs = k.gs := by unfold Core.push; split <;> rfl
@[simp] theorem Core.push_tmpl (k : Core) (q : BitVec 3) : (k.push q).tmpl = k.tmpl := by unfold Core.push; split <;> rfl
@[simp] theorem Core.push_slots (k : Core) (q : BitVec 3) : (k.push q).slots = k.slots := by unfold Core.push; split <;> rfl
@[simp] theorem Core.push_mfail (k : Core) (q : BitVec 3) : (k.push q).mfail = k.mfail := by unfold Core.push; split <;> rfl
@[simp] theorem Core.push_lastCopy (k : Core) (q : BitVec 3) : (k.push q).lastCopy = k.lastCopy := by unfold Core.push; split <;> rfl
@[simp] theorem Core.push_xfloor (k : Core) (q : BitVec 3) : (k.push q).xfloor = k.xfloor := by unfold Core.push; split <;> rfl
@[simp] theorem Core.push_deferred (k : Core) (q : BitVec 3) : (k.push q).deferred = k.deferred := by unfold Core.push; split <;> rfl
@[simp] theorem Core.push_lastCtx (k : Core) (q : BitVec 3) : (k.push q).lastCtx = k.lastCtx := by unfold Core.push; split <;> rfl
@[simp] theorem Core.push_fenced (k : Core) (q : BitVec 3) : (k.push q).fenced = k.fenced := by unfold Core.push; split <;> rfl
@[simp] theorem Core.push_preReq (k : Core) (q : BitVec 3) : (k.push q).preReq = k.preReq := by unfold Core.push; split <;> rfl
@[simp] theorem Core.push_migReq (k : Core) (q : BitVec 3) : (k.push q).migReq = k.migReq := by unfold Core.push; split <;> rfl

@[simp] theorem Core.finish_lid (k : Core) (w : Fields) (t : Word) (b : Bool) : (k.finish w t b).lid = k.lid := by
  unfold Core.finish; simp only []; split <;> split <;> simp
@[simp] theorem Core.finish_s (k : Core) (w : Fields) (t : Word) (b : Bool) : (k.finish w t b).s = k.s := by
  unfold Core.finish; simp only []; split <;> split <;> simp
@[simp] theorem Core.finish_h (k : Core) (w : Fields) (t : Word) (b : Bool) : (k.finish w t b).h = k.h := by
  unfold Core.finish; simp only []; split <;> split <;> simp
@[simp] theorem Core.finish_handler (k : Core) (w : Fields) (t : Word) (b : Bool) : (k.finish w t b).handler = k.handler := by
  unfold Core.finish; simp only []; split <;> split <;> simp
@[simp] theorem Core.finish_iter (k : Core) (w : Fields) (t : Word) (b : Bool) : (k.finish w t b).iter = k.iter := by
  unfold Core.finish; simp only []; split <;> split <;> simp
@[simp] theorem Core.finish_taskid (k : Core) (w : Fields) (t : Word) (b : Bool) : (k.finish w t b).taskid = k.taskid := by
  unfold Core.finish; simp only []; split <;> split <;> simp
@[simp] theorem Core.finish_pbreg (k : Core) (w : Fields) (t : Word) (b : Bool) : (k.finish w t b).pbreg = k.pbreg := by
  unfold Core.finish; simp only []; split <;> split <;> simp
@[simp] theorem Core.finish_pbsp (k : Core) (w : Fields) (t : Word) (b : Bool) : (k.finish w t b).pbsp = k.pbsp := by
  unfold Core.finish; simp only []; split <;> split <;> simp
@[simp] theorem Core.finish_pbcache (k : Core) (w : Fields) (t : Word) (b : Bool) : (k.finish w t b).pbcache = k.pbcache := by
  unfold Core.finish; simp only []; split <;> split <;> simp
@[simp] theorem Core.finish_vview (k : Core) (w : Fields) (t : Word) (b : Bool) : (k.finish w t b).vview = k.vview := by
  unfold Core.finish; simp only []; split <;> split <;> simp
@[simp] theorem Core.finish_tview (k : Core) (w : Fields) (t : Word) (b : Bool) : (k.finish w t b).tview = k.tview := by
  unfold Core.finish; simp only []; split <;> split <;> simp
@[simp] theorem Core.finish_aview (k : Core) (w : Fields) (t : Word) (b : Bool) : (k.finish w t b).aview = k.aview := by
  unfold Core.finish; simp only []; split <;> split <;> simp
@[simp] theorem Core.finish_tqcfg (k : Core) (w : Fields) (t : Word) (b : Bool) : (k.finish w t b).tqcfg = k.tqcfg := by
  unfold Core.finish; simp only []; split <;> split <;> simp
@[simp] theorem Core.finish_ae (k : Core) (w : Fields) (t : Word) (b : Bool) : (k.finish w t b).ae = k.ae := by
  unfold Core.finish; simp only []; split <;> split <;> simp
@[simp] theorem Core.finish_fmode (k : Core) (w : Fields) (t : Word) (b : Bool) : (k.finish w t b).fmode = k.fmode := by
  unfold Core.finish; simp only []; split <;> split <;> simp
@[simp] theorem Core.finish_win (k : Core) (w : Fields) (t : Word) (b : Bool) : (k.finish w t b).win = k.win := by
  unfold Core.finish; simp only []; split <;> split <;> simp
@[simp] theorem Core.finish_tvec (k : Core) (w : Fields) (t : Word) (b : Bool) : (k.finish w t b).tvec = k.tvec := by
  unfold Core.finish; simp only []; split <;> split <;> simp
@[simp] theorem Core.finish_tcause (k : Core) (w : Fields) (t : Word) (b : Bool) : (k.finish w t b).tcause = k.tcause := by
  unfold Core.finish; simp only []; split <;> split <;> simp
@[simp] theorem Core.finish_tepc (k : Core) (w : Fields) (t : Word) (b : Bool) : (k.finish w t b).tepc = k.tepc := by
  unfold Core.finish; simp only []; split <;> split <;> simp
@[simp] theorem Core.finish_tval (k : Core) (w : Fields) (t : Word) (b : Bool) : (k.finish w t b).tval = k.tval := by
  unfold Core.finish; simp only []; split <;> split <;> simp
@[simp] theorem Core.finish_status (k : Core) (w : Fields) (t : Word) (b : Bool) : (k.finish w t b).status = k.status := by
  unfold Core.finish; simp only []; split <;> split <;> simp
@[simp] theorem Core.finish_lseed (k : Core) (w : Fields) (t : Word) (b : Bool) : (k.finish w t b).lseed = k.lseed := by
  unfold Core.finish; simp only []; split <;> split <;> simp
@[simp] theorem Core.finish_lantern (k : Core) (w : Fields) (t : Word) (b : Bool) : (k.finish w t b).lantern = k.lantern := by
  unfold Core.finish; simp only []; split <;> split <;> simp
@[simp] theorem Core.finish_phstate (k : Core) (w : Fields) (t : Word) (b : Bool) : (k.finish w t b).phstate = k.phstate := by
  unfold Core.finish; simp only []; split <;> split <;> simp
@[simp] theorem Core.finish_phentry (k : Core) (w : Fields) (t : Word) (b : Bool) : (k.finish w t b).phentry = k.phentry := by
  unfold Core.finish; simp only []; split <;> split <;> simp
@[simp] theorem Core.finish_phsnap (k : Core) (w : Fields) (t : Word) (b : Bool) : (k.finish w t b).phsnap = k.phsnap := by
  unfold Core.finish; simp only []; split <;> split <;> simp
@[simp] theorem Core.finish_range (k : Core) (w : Fields) (t : Word) (b : Bool) : (k.finish w t b).range = k.range := by
  unfold Core.finish; simp only []; split <;> split <;> simp
@[simp] theorem Core.finish_kvgen (k : Core) (w : Fields) (t : Word) (b : Bool) : (k.finish w t b).kvgen = k.kvgen := by
  unfold Core.finish; simp only []; split <;> split <;> simp
@[simp] theorem Core.finish_rsv (k : Core) (w : Fields) (t : Word) (b : Bool) : (k.finish w t b).rsv = k.rsv := by
  unfold Core.finish; simp only []; split <;> split <;> simp
@[simp] theorem Core.finish_hz (k : Core) (w : Fields) (t : Word) (b : Bool) : (k.finish w t b).hz = k.hz := by
  unfold Core.finish; simp only []; split <;> split <;> simp
@[simp] theorem Core.finish_obs (k : Core) (w : Fields) (t : Word) (b : Bool) : (k.finish w t b).obs = k.obs := by
  unfold Core.finish; simp only []; split <;> split <;> simp
@[simp] theorem Core.finish_pend (k : Core) (w : Fields) (t : Word) (b : Bool) : (k.finish w t b).pend = k.pend := by
  unfold Core.finish; simp only []; split <;> split <;> simp
@[simp] theorem Core.finish_groups (k : Core) (w : Fields) (t : Word) (b : Bool) : (k.finish w t b).groups = k.groups := by
  unfold Core.finish; simp only []; split <;> split <;> simp
@[simp] theorem Core.finish_stamps (k : Core) (w : Fields) (t : Word) (b : Bool) : (k.finish w t b).stamps = k.stamps := by
  unfold Core.finish; simp only []; split <;> split <;> simp
@[simp] theorem Core.finish_sidelog (k : Core) (w : Fields) (t : Word) (b : Bool) : (k.finish w t b).sidelog = k.sidelog := by
  unfold Core.finish; simp only []; split <;> split <;> simp
@[simp] theorem Core.finish_busyS (k : Core) (w : Fields) (t : Word) (b : Bool) : (k.finish w t b).busyS = k.busyS := by
  unfold Core.finish; simp only []; split <;> split <;> simp
@[simp] theorem Core.finish_seq (k : Core) (w : Fields) (t : Word) (b : Bool) : (k.finish w t b).seq = k.seq := by
  unfold Core.finish; simp only []; split <;> split <;> simp
@[simp] theorem Core.finish_soFloor (k : Core) (w : Fields) (t : Word) (b : Bool) : (k.finish w t b).soFloor = k.soFloor := by
  unfold Core.finish; simp only []; split <;> split <;> simp
@[simp] theorem Core.finish_scRev (k : Core) (w : Fields) (t : Word) (b : Bool) : (k.finish w t b).scRev = k.scRev := by
  unfold Core.finish; simp only []; split <;> split <;> simp
@[simp] theorem Core.finish_copies (k : Core) (w : Fields) (t : Word) (b : Bool) : (k.finish w t b).copies = k.copies := by
  unfold Core.finish; simp only []; split <;> split <;> simp
@[simp] theorem Core.finish_landing (k : Core) (w : Fields) (t : Word) (b : Bool) : (k.finish w t b).landing = k.landing := by
  unfold Core.finish; simp only []; split <;> split <;> simp
@[simp] theorem Core.finish_wcache (k : Core) (w : Fields) (t : Word) (b : Bool) : (k.finish w t b).wcache = k.wcache := by
  unfold Core.finish; simp only []; split <;> split <;> simp
@[simp] theorem Core.finish_icache (k : Core) (w : Fields) (t : Word) (b : Bool) : (k.finish w t b).icache = k.icache := by
  unfold Core.finish; simp only []; split <;> split <;> simp
@[simp] theorem Core.finish_vq (k : Core) (w : Fields) (t : Word) (b : Bool) : (k.finish w t b).vq = k.vq := by
  unfold Core.finish; simp only []; split <;> split <;> simp
@[simp] theorem Core.finish_mq (k : Core) (w : Fields) (t : Word) (b : Bool) : (k.finish w t b).mq = k.mq := by
  unfold Core.finish; simp only []; split <;> split <;> simp
@[simp] theorem Core.finish_cq (k : Core) (w : Fields) (t : Word) (b : Bool) : (k.finish w t b).cq = k.cq := by
  unfold Core.finish; simp only []; split <;> split <;> simp
@[simp] theorem Core.finish_gq (k : Core) (w : Fields) (t : Word) (b : Bool) : (k.finish w t b).gq = k.gq := by
  unfold Core.finish; simp only []; split <;> split <;> simp
@[simp] theorem Core.finish_xq (k : Core) (w : Fields) (t : Word) (b : Bool) : (k.finish w t b).xq = k.xq := by
  unfold Core.finish; simp only []; split <;> split <;> simp
@[simp] theorem Core.finish_gs (k : Core) (w : Fields) (t : Word) (b : Bool) : (k.finish w t b).gs = k.gs := by
  unfold Core.finish; simp only []; split <;> split <;> simp
@[simp] theorem Core.finish_tmpl (k : Core) (w : Fields) (t : Word) (b : Bool) : (k.finish w t b).tmpl = k.tmpl := by
  unfold Core.finish; simp only []; split <;> split <;> simp
@[simp] theorem Core.finish_slots (k : Core) (w : Fields) (t : Word) (b : Bool) : (k.finish w t b).slots = k.slots := by
  unfold Core.finish; simp only []; split <;> split <;> simp
@[simp] theorem Core.finish_mfail (k : Core) (w : Fields) (t : Word) (b : Bool) : (k.finish w t b).mfail = k.mfail := by
  unfold Core.finish; simp only []; split <;> split <;> simp
@[simp] theorem Core.finish_lastCopy (k : Core) (w : Fields) (t : Word) (b : Bool) : (k.finish w t b).lastCopy = k.lastCopy := by
  unfold Core.finish; simp only []; split <;> split <;> simp
@[simp] theorem Core.finish_xfloor (k : Core) (w : Fields) (t : Word) (b : Bool) : (k.finish w t b).xfloor = k.xfloor := by
  unfold Core.finish; simp only []; split <;> split <;> simp
@[simp] theorem Core.finish_deferred (k : Core) (w : Fields) (t : Word) (b : Bool) : (k.finish w t b).deferred = k.deferred := by
  unfold Core.finish; simp only []; split <;> split <;> simp
@[simp] theorem Core.finish_lastCtx (k : Core) (w : Fields) (t : Word) (b : Bool) : (k.finish w t b).lastCtx = k.lastCtx := by
  unfold Core.finish; simp only []; split <;> split <;> simp
@[simp] theorem Core.finish_fenced (k : Core) (w : Fields) (t : Word) (b : Bool) : (k.finish w t b).fenced = k.fenced := by
  unfold Core.finish; simp only []; split <;> split <;> simp
@[simp] theorem Core.finish_preReq (k : Core) (w : Fields) (t : Word) (b : Bool) : (k.finish w t b).preReq = k.preReq := by
  unfold Core.finish; simp only []; split <;> split <;> simp
@[simp] theorem Core.finish_migReq (k : Core) (w : Fields) (t : Word) (b : Bool) : (k.finish w t b).migReq = k.migReq := by
  unfold Core.finish; simp only []; split <;> split <;> simp
@[simp] theorem Core.finish_pc (k : Core) (w : Fields) (t : Word) (b : Bool) : (k.finish w t b).pc = t := rfl
@[simp] theorem Core.finish_wait (k : Core) (w : Fields) (t : Word) (b : Bool) : (k.finish w t b).wait = none := rfl

/-! Registers. -/

@[simp] theorem Core.rs_zero (k : Core) : k.rs 0 = 0 := rfl
@[simp] theorem Core.ws_zero (k : Core) (v : Word) : k.ws 0 v = k := rfl
theorem Core.rs_ws (k : Core) (r : BitVec 6) (v : Word) : (k.ws r v).rs r = if r = 0 then 0 else v := by
  unfold Core.rs Core.ws; split <;> simp
theorem Core.rs_ws_ne (k : Core) {r q : BitVec 6} (v : Word) (h : r ≠ q) : (k.ws r v).rs q = k.rs q := by
  have : r.toNat ≠ q.toNat := fun e => h (BitVec.eq_of_toNat_eq e)
  by_cases z : r = 0
  · simp [Core.ws, z]
  · unfold Core.rs Core.ws
    rw [if_neg z]
    split
    · rfl
    · simp [this]
@[simp] theorem Core.rp_wp (k : Core) (r : BitVec 4) (v : Pred) : (k.wp r v).rp r = v := by simp [Core.rp, Core.wp]
theorem Core.rp_wp_ne (k : Core) {r q : BitVec 4} (v : Pred) (h : r ≠ q) : (k.wp r v).rp q = k.rp q := by
  have : r.toNat ≠ q.toNat := fun e => h (BitVec.eq_of_toNat_eq e)
  simp [Core.rp, Core.wp, this]
@[simp] theorem Core.rh_wh (k : Core) (r : BitVec 4) (v : Word) : (k.wh r v).rh r = v := by simp [Core.rh, Core.wh]
theorem Core.rh_wh_ne (k : Core) {r q : BitVec 4} (v : Word) (h : r ≠ q) : (k.wh r v).rh q = k.rh q := by
  have : r.toNat ≠ q.toNat := fun e => h (BitVec.eq_of_toNat_eq e)
  simp [Core.rh, Core.wh, this]

end Sys2Proof.Machine
end

