-- ==== Sys2Proof/Laws/Ops.lean ====
section
/-! SUPPORT. What the shared operations can do, once each. -/

namespace Sys2Proof.Machine

open Sys2Proof

/-- S stands before an instruction that uses the scalar registers of a list, and it executes: no vector instruction has
yet to start, its queues are there and its tokens ready, its guard admits it, and no result is on its way. -/
def Ready (s : State) (w : Fields) (regs : List (BitVec 6)) : Prop :=
  isInside (s.core s.cur).wait = false ∧ (s.core s.cur).vq = [] ∧ (s.core s.cur).queuesOk .s w.pop w.push = true ∧
  (s.core s.cur).popReady w.pop = true ∧ (s.core s.cur).pushReady w.push = true ∧ guardOk (s.core s.cur) w = true ∧
  isBusy (s.core s.cur) regs = false

/-- What S does with an instruction that executes: its body decides. -/
theorem sRun_ex {s : State} {w : Fields} {u : Use} (h : Ready s w u.s) (body : State → CoreId → SRes) :
    sRun s w body u = (body s s.cur).out s s.cur w := by
  obtain ⟨h0, h1, h2, h3, h4, h5, h6⟩ := h
  simp [sRun, h0, h1, h2, h3, h4, h5, h6]

/-- An instruction that computes a scalar register writes it, and its tokens move. -/
theorem alu_ex {s : State} {w : Fields} {u : Use} (h : Ready s w u.s) (f : Core → Word) :
    aluRun s w f u =
    .next (s.setCore s.cur (((s.core s.cur).ws w.d (f (s.core s.cur))).finish w (s.core s.cur).npc true)) := by
  unfold aluRun
  rw [sRun_ex h]
  simp [SRes.out, State.modCore]

/-- An instruction that only changes its core does so, and its tokens move. -/
theorem core_ex {s : State} {w : Fields} {u : Use} (h : Ready s w u.s) (f : Core → Core) :
    coreRun s w f u =
    .next (s.setCore s.cur ((f (s.core s.cur)).finish w (s.core s.cur).npc true)) := by
  unfold coreRun
  rw [sRun_ex h]
  simp [SRes.out, State.modCore]

/-- Bytes that all resolve to one place, one class and one grain. -/
theorem okBytes_map (f : Nat → ByteAt) (l : Loc) (cls gr : Nat) (ns : List Nat) (h : ∀ i ∈ ns, f i = .ok (l.plus i) cls gr) :
    okBytes (ns.map (fun i => (i, f i))) = ns.map (fun i => ⟨i, l.plus i, cls, gr⟩) ∧ worst ((ns.map (fun i => (i, f i))).map (·.2)) = none
    ∧ (ns.map (fun i => (i, f i))).any (fun b => b.2 == ByteAt.beyond) = false
    ∧ ((ns.map (fun i => (i, f i))).map (·.2)).filterMap ByteAt.kind? = List.replicate ns.length (cls, gr) := by
  induction ns with
  | nil => simp [okBytes, worst]
  | cons a t ih =>
    obtain ⟨h1, h2, h3, h4⟩ := ih (fun i hi => h i (by simp [hi]))
    have ha := h a (by simp)
    refine ⟨?_, ?_, ?_, ?_⟩
    · simp only [List.map_cons, ha, okBytes, h1]
    · simp only [List.map_cons, ha, worst, ByteAt.fault, h2, firstCause]
    · simp only [List.map_cons, ha, List.any_cons, h3]; rfl
    · simp only [List.map_cons, ha, List.filterMap_cons, ByteAt.kind?, h4, List.length_cons, List.replicate_succ]

/-- They are of one class. -/
theorem oneClass_replicate {l : List ByteAt} {n : Nat} {x : Nat × Nat} (h : l.filterMap ByteAt.kind? = List.replicate n x) :
    oneClass l = true := by
  unfold oneClass; rw [h]
  cases n <;> simp [List.replicate_succ]

/-- An access whose bytes all resolve, and are not sealed where it writes, passes its checks. -/
theorem reaches_check {s : State} {sp : Nat} {ea : Word} {n : Nat} {pm : Perm} {l : Loc} {cls gr : Nat} (h : ∀ i < n, byteAt s (s.core s.cur) sp ea i pm false = .ok (l.plus i) cls gr)
    (hs : pm = .r ∨ pm = .x ∨ ∀ i < n, sealedByte s (l.plus i) = false) :
    checkAccess s s.cur sp ea (List.range n) pm = .ok ((List.range n).map (fun i => ⟨i, l.plus i, cls, gr⟩)) false := by
  have := okBytes_map (fun i => byteAt s (s.core s.cur) sp ea i pm false) l cls gr (List.range n) (fun i hi => h i (by simpa using hi))
  obtain ⟨h1, h2, h3, h4⟩ := this
  unfold checkAccess checkBytes
  simp only [h1, h2, h3, oneClass_replicate h4, if_true]
  have : (((pm == Perm.w || pm == Perm.rw) && ((List.range n).map (fun i => (⟨i, l.plus i, cls, gr⟩ : AtByte))).any (fun b => sealedByte s b.loc)) = false) := by
    rcases hs with h | h | h
    · subst h; rfl
    · subst h; rfl
    · simp only [Bool.and_eq_false_iff]; right; simp; intro x hx; exact h x hx
  rw [this]; rfl

/-- The sizes of an access. -/
theorem size_cases (c : Nat) : sizeBytes c = 1 ∨ sizeBytes c = 2 ∨ sizeBytes c = 4 ∨ sizeBytes c = 8 := by
  unfold sizeBytes; split <;> simp

/-- Offsets add up. -/
theorem plus_plus (l : Loc) (a b : Nat) : (l.plus a).plus b = l.plus (a + b) := by cases l <;> simp [Loc.plus, Nat.add_assoc]

/-- An aligned access is one part; any other is single bytes. -/
theorem scalarParts_map (ea : Word) (n : Nat) (l : Loc) (cls gr : Nat) (h : n = 1 ∨ n = 2 ∨ n = 4 ∨ n = 8) :
    scalarParts ea n ((List.range n).map (fun i => ⟨i, l.plus i, cls, gr⟩)) =
     if ea.toNat % n = 0 then [⟨0, l.plus 0, n, cls, gr⟩] else (List.range n).map (fun i => ⟨i, l.plus i, 1, cls, gr⟩) := by
  unfold scalarParts
  by_cases e : ea.toNat % n = 0
  · rcases h with h | h | h | h <;> subst h <;> simp [e, List.range, List.range.loop, partsOf, plus_plus]
  · rcases h with h | h | h | h <;> subst h <;> simp [e, List.range, List.range.loop, partsOf, plus_plus]

/-- No offset. -/
theorem plus_zero (l : Loc) : l.plus 0 = l := by cases l <;> rfl

/-- The one part of a strong access. -/
theorem onePart_map (n : Nat) (l : Loc) (cls b : Nat) (hn : n ≠ 0) : onePart n ((List.range n).map (fun i => (⟨i, l.plus i, cls, b⟩ : AtByte))) = ⟨0, l.plus 0, n, cls, b⟩ := by
  obtain ⟨m, rfl⟩ := Nat.exists_eq_succ_of_ne_zero hn
  simp [List.range_succ_eq_map, onePart]

/-- Taking a trap outside handler mode with a handler: the instruction S waited in is let go, the three registers, handler
mode and the pc change, nothing else. -/
theorem takeTrap_handler {s : State} {c : CoreId} (x : Cause) (d : Bool) (epc v : Word) (hx : x ≠ .phaseExhausted)
    (hh : (s.core c).handler = false) (ht : (s.core c).tvec ≠ 0) :
    s.takeTrap c x d epc v = s.setCore c { (s.core c).letGo with
      tcause := w64 (causeCode x + (if d then 256 else 0)), tepc := epc, tval := v, handler := true,
      pc := (s.core c).tvec, wait := none } := by
  have hc : ((s.core c).handler || (s.core c).tvec == 0) = false := by rw [hh]; simpa using ht
  simp only [State.takeTrap, if_neg hx, hc]
  rfl

/-- Outside an instruction that holds a token or a place, letting go changes nothing. -/
theorem letGo_free {k : Core} (h : k.held = 0) (t : k.took = 0) : k.letGo = k := by simp [Core.letGo, Core.freeHeld, h, t]

/-- A trap in handler mode, or without a handler, ends the iteration. -/
theorem takeTrap_faults {s : State} {c : CoreId} (x : Cause) (d : Bool) (epc v : Word) (hx : x ≠ .phaseExhausted)
    (h : (s.core c).handler = true ∨ (s.core c).tvec = 0) : s.takeTrap c x d epc v = s.faultIter c x v := by
  rcases h with h | h <;> simp [State.takeTrap, hx, h]

/-- Writing one core leaves every other. -/
theorem core_modCore_ne (s : State) {c d : CoreId} (f : Core → Core) (h : c ≠ d) : (s.modCore c f).core d = s.core d :=
  State.core_setCore_ne s _ h

/-- Writing a core writes no memory. -/
@[simp] theorem mem_modCore (s : State) (c : CoreId) (f : Core → Core) : (s.modCore c f).mem = s.mem := rfl

/-- What a scalar register reads after a write of one. -/
theorem rs_ws (k : Core) (a b : BitVec 6) (v : Word) : (k.ws a v).rs b = if a = b ∧ a ≠ 0 then v else k.rs b := by
  have hb := b.isLt
  by_cases h0 : a = 0
  · simp [Core.ws, h0]
  · by_cases e : a = b
    · subst e; unfold Core.ws Core.rs; rw [if_neg h0, if_neg h0, if_pos ⟨rfl, h0⟩]; simp
    · have hn : a.toNat ≠ b.toNat := fun q => e (BitVec.eq_of_toNat_eq q)
      unfold Core.ws Core.rs; rw [if_neg h0]; simp [hn, e]

end Sys2Proof.Machine
end

