-- ==== Sys2Proof/Laws/PerInstr.lean ====
section
/-! SUPPORT. Every instruction with an encoding is read back from it, one lemma per constructor. -/

namespace Sys2Proof.Laws.Encoding

open Sys2Proof

/-- The instruction is read back from its words, where it has any. -/
def Statement (i : Instr) : Prop :=
  i.wellFormed = true → hasEncoding i = true → decodeEncoded (encode i) = some i

/-- The bits of a packed 64-bit instruction, field by field. -/
theorem getLsbD_pack64 (op : BitVec 7) (w : Fields) (i : Nat) :
    (pack64 op w).getLsbD i =
      if i < 6 then w.a.getLsbD i else let i := i - 6
      if i < 6 then w.d.getLsbD i else let i := i - 6
      if i < 3 then w.push.getLsbD i else let i := i - 3
      if i < 3 then w.pop.getLsbD i else let i := i - 3
      if i < 1 then (BitVec.ofBool w.gs).getLsbD i else let i := i - 1
      if i < 4 then w.gp.getLsbD i else let i := i - 4
      if i < 1 then (BitVec.ofBool w.en).getLsbD i else let i := i - 1
      if i < 7 then op.getLsbD i else let i := i - 7
      if i < 1 then (0#1).getLsbD i else let i := i - 1
      if i < 20 then w.imm.getLsbD i else let i := i - 20
      if i < 6 then w.f.getLsbD i else let i := i - 6
      w.b.getLsbD i :=
  show (w.b ++ w.f ++ w.imm ++ 0#1 ++ op ++ BitVec.ofBool w.en ++ w.gp ++ BitVec.ofBool w.gs ++ w.pop ++ w.push ++
    w.d ++ w.a).getLsbD i = _ by simp only [BitVec.getLsbD_append]

/-- The opcode of a packed instruction. -/
theorem pack64_op (op : BitVec 7) (w : Fields) : (pack64 op w).extractLsb' 24 7 = op := by
  ext i hi
  rw [BitVec.getElem_extractLsb', getLsbD_pack64]
  interval_cases i <;> rfl

/-- The fields of a packed instruction. -/
theorem fieldsOf_pack64 (op : BitVec 7) (w : Fields) : fieldsOf (pack64 op w) = w := by
  obtain ⟨en, gp, gs, pop, push, d, a, b, f, imm⟩ := w
  simp only [fieldsOf, Fields.mk.injEq]
  refine ⟨?_, ?_, ?_, ?_, ?_, ?_, ?_, ?_, ?_, ?_⟩
  all_goals first
    | (rw [getLsbD_pack64]; simp)
    | (ext i hi; rw [BitVec.getElem_extractLsb', getLsbD_pack64]; interval_cases i <;> rfl)

/-- The bits of a packed patch word, field by field. -/
theorem getLsbD_packPatch (p : PatchWord) (i : Nat) :
    (packPatch p).getLsbD i =
      if i < 16 then p.val.getLsbD i else let i := i - 16
      if i < 1 then (BitVec.ofBool p.go).getLsbD i else let i := i - 1
      if i < 5 then p.fsel.getLsbD i else let i := i - 5
      if i < 6 then p.tix.getLsbD i else let i := i - 6
      if i < 3 then p.eng.getLsbD i else let i := i - 3
      (1#1).getLsbD i :=
  show (1#1 ++ p.eng ++ p.tix ++ p.fsel ++ BitVec.ofBool p.go ++ p.val).getLsbD i = _ by
    simp only [BitVec.getLsbD_append]

/-- The fields of a packed patch word. -/
theorem patchOf_packPatch (p : PatchWord) : patchOf (packPatch p) = p := by
  obtain ⟨eng, tix, fsel, go, val⟩ := p
  simp only [patchOf, PatchWord.mk.injEq]
  refine ⟨?_, ?_, ?_, ?_, ?_⟩
  all_goals first
    | (rw [getLsbD_packPatch]; simp)
    | (ext i hi; rw [BitVec.getElem_extractLsb', getLsbD_packPatch]; interval_cases i <;> rfl)

/-- The bits of a packed Lanem-B word, field by field. -/
theorem getLsbD_packBank (op : BitVec 5) (w : BankWord) (i : Nat) :
    (packBank op w).getLsbD i =
      if i < 12 then w.imm.getLsbD i else let i := i - 12
      if i < 5 then w.b.getLsbD i else let i := i - 5
      if i < 5 then w.a.getLsbD i else let i := i - 5
      if i < 5 then w.d.getLsbD i else let i := i - 5
      op.getLsbD i :=
  show (op ++ w.d ++ w.a ++ w.b ++ w.imm).getLsbD i = _ by simp only [BitVec.getLsbD_append]

/-- The opcode of a packed Lanem-B word. -/
theorem packBank_op (op : BitVec 5) (w : BankWord) : (packBank op w).extractLsb' 27 5 = op := by
  ext i hi
  rw [BitVec.getElem_extractLsb', getLsbD_packBank]
  interval_cases i <;> rfl

/-- The fields of a packed Lanem-B word. -/
theorem bankOf_packBank (op : BitVec 5) (w : BankWord) : bankOf (packBank op w) = w := by
  obtain ⟨d, a, b, imm⟩ := w
  simp only [bankOf, BankWord.mk.injEq]
  refine ⟨?_, ?_, ?_, ?_⟩
  all_goals (ext i hi; rw [BitVec.getElem_extractLsb', getLsbD_packBank]; interval_cases i <;> rfl)

/-- A 64-bit instruction is read back where its opcode names it. -/
theorem word64_back (i : Instr) (op : BitVec 7) (w : Fields) (he : encode i = .word64 (pack64 op w))
    (ho : instrOf op.toNat w = some i) : Statement i := by
  intro hw _
  simp [he, decodeEncoded, decode64, pack64_op, fieldsOf_pack64, ho, hw]

/-- A CFGW is read back as the row its register belongs to. -/
theorem cfgw_back (i : Instr) (w : Fields) (he : encode i = .word64 (pack64 0x49 w))
    (hc : i.wellFormed = true → cfgwInstr w = i) : Statement i := by
  intro hw _
  exact word64_back i 0x49 w he (congrArg some (hc hw)) hw ‹_›

/-- A Lanem-B word is read back where its opcode names it. -/
theorem bank_back (i : Instr) (op : BitVec 5) (w : BankWord) (he : encode i = .bank (packBank op w))
    (ho : bankInstr op.toNat w = some i) : Statement i := by
  intro hw _
  simp [he, decodeEncoded, decodeBank, packBank_op, bankOf_packBank, ho, hw]

/-- A step of the device has no encoding. -/
theorem none_back (i : Instr) (he : encode i = .none) : Statement i := by
  intro _ hn
  simp [hasEncoding, he] at hn

end Sys2Proof.Laws.Encoding

namespace Sys2Proof.Laws

open Sys2Proof Encoding

theorem Encoding.issue (c : CoreId) : Statement (.issue c) := none_back _ rfl
theorem Encoding.performALoad (c : CoreId) (i : Nat) (copy : Bool) : Statement (.performALoad c i copy) := none_back _ rfl
theorem Encoding.sendAStore (c : CoreId) (i : Nat) : Statement (.sendAStore c i) := none_back _ rfl
theorem Encoding.serveAtAHome (i : Nat) : Statement (.serveAtAHome i) := none_back _ rfl
theorem Encoding.returnAStamp (c : CoreId) (i : Nat) : Statement (.returnAStamp c i) := none_back _ rfl
theorem Encoding.expireALease (c : CoreId) (i : Nat) : Statement (.expireALease c i) := none_back _ rfl
theorem Encoding.leaseTableClear (g : Nat) : Statement (.leaseTableClear g) := none_back _ rfl
theorem Encoding.retireAFence (c : CoreId) : Statement (.retireAFence c) := none_back _ rfl
theorem Encoding.tick : Statement .tick := none_back _ rfl
theorem Encoding.engineOperationStart (c : CoreId) (e : Eng) : Statement (.engineOperationStart c e) := none_back _ rfl
theorem Encoding.engineOperationComplete (c : CoreId) (e : Eng) : Statement (.engineOperationComplete c e) := none_back _ rfl
theorem Encoding.deferredTrap (c : CoreId) : Statement (.deferredTrap c) := none_back _ rfl
theorem Encoding.tokenTimeout (c : CoreId) (e : Eng) : Statement (.tokenTimeout c e) := none_back _ rfl
theorem Encoding.tokenWaitEnd (c : CoreId) (e : Eng) : Statement (.tokenWaitEnd c e) := none_back _ rfl
theorem Encoding.feTimeout (c : CoreId) : Statement (.feTimeout c) := none_back _ rfl
theorem Encoding.feWaitEnd (i : Nat) : Statement (.feWaitEnd i) := none_back _ rfl
theorem Encoding.landing (c : CoreId) (i : Nat) : Statement (.landing c i) := none_back _ rfl
theorem Encoding.sideLogReplay (c : CoreId) : Statement (.sideLogReplay c) := none_back _ rfl
theorem Encoding.scSlot (c : CoreId) : Statement (.scSlot c) := none_back _ rfl
theorem Encoding.matrixLeaseGrant (cl : BitVec 4) : Statement (.matrixLeaseGrant cl) := none_back _ rfl
theorem Encoding.matrixLeaseExpiry (cl : BitVec 4) : Statement (.matrixLeaseExpiry cl) := none_back _ rfl
theorem Encoding.patchWord (p : PatchWord) : Statement (.patchWord p) := by
  intro hw _
  have h : (p.eng.toNat < 5 && Machine.patchOk p) = true := hw
  have hp : ¬ 5 ≤ p.eng.toNat := by simp at h; omega
  simp [encode, decodeEncoded, decodePatch, patchOf_packPatch, hp, hw]
theorem Encoding.add (w : Fields) : Statement (.add w) := word64_back _ 0x00 w rfl rfl
theorem Encoding.sub (w : Fields) : Statement (.sub w) := word64_back _ 0x01 w rfl rfl
theorem Encoding.mul (w : Fields) : Statement (.mul w) := word64_back _ 0x02 w rfl rfl
theorem Encoding.mulh (w : Fields) : Statement (.mulh w) := word64_back _ 0x03 w rfl rfl
theorem Encoding.div (w : Fields) : Statement (.div w) := word64_back _ 0x04 w rfl rfl
theorem Encoding.rem (w : Fields) : Statement (.rem w) := word64_back _ 0x05 w rfl rfl
theorem Encoding.and (w : Fields) : Statement (.and w) := word64_back _ 0x06 w rfl rfl
theorem Encoding.or (w : Fields) : Statement (.or w) := word64_back _ 0x07 w rfl rfl
theorem Encoding.xor (w : Fields) : Statement (.xor w) := word64_back _ 0x08 w rfl rfl
theorem Encoding.andn (w : Fields) : Statement (.andn w) := word64_back _ 0x09 w rfl rfl
theorem Encoding.shl (w : Fields) : Statement (.shl w) := word64_back _ 0x0A w rfl rfl
theorem Encoding.shr (w : Fields) : Statement (.shr w) := word64_back _ 0x0B w rfl rfl
theorem Encoding.sra (w : Fields) : Statement (.sra w) := word64_back _ 0x0C w rfl rfl
theorem Encoding.min (w : Fields) : Statement (.min w) := word64_back _ 0x0D w rfl rfl
theorem Encoding.max (w : Fields) : Statement (.max w) := word64_back _ 0x0E w rfl rfl
theorem Encoding.clz (w : Fields) : Statement (.clz w) := word64_back _ 0x0F w rfl rfl
theorem Encoding.popc (w : Fields) : Statement (.popc w) := word64_back _ 0x10 w rfl rfl
theorem Encoding.bfx (w : Fields) : Statement (.bfx w) := word64_back _ 0x11 w rfl rfl
theorem Encoding.bfi (w : Fields) : Statement (.bfi w) := word64_back _ 0x12 w rfl rfl
theorem Encoding.sel (w : Fields) : Statement (.sel w) := word64_back _ 0x13 w rfl rfl
theorem Encoding.addi (w : Fields) : Statement (.addi w) := word64_back _ 0x14 w rfl rfl
theorem Encoding.andi (w : Fields) : Statement (.andi w) := word64_back _ 0x15 w rfl rfl
theorem Encoding.ori (w : Fields) : Statement (.ori w) := word64_back _ 0x16 w rfl rfl
theorem Encoding.xori (w : Fields) : Statement (.xori w) := word64_back _ 0x17 w rfl rfl
theorem Encoding.shli (w : Fields) : Statement (.shli w) := word64_back _ 0x18 w rfl rfl
theorem Encoding.shri (w : Fields) : Statement (.shri w) := word64_back _ 0x19 w rfl rfl
theorem Encoding.srai (w : Fields) : Statement (.srai w) := word64_back _ 0x1A w rfl rfl
theorem Encoding.movi (w : Fields) : Statement (.movi w) := word64_back _ 0x1B w rfl rfl
theorem Encoding.lui (w : Fields) : Statement (.lui w) := word64_back _ 0x1C w rfl rfl
theorem Encoding.cmp (w : Fields) : Statement (.cmp w) := word64_back _ 0x1D w rfl rfl
theorem Encoding.cmpi (w : Fields) : Statement (.cmpi w) := word64_back _ 0x1E w rfl rfl
theorem Encoding.pmov (w : Fields) : Statement (.pmov w) := word64_back _ 0x1F w rfl rfl
theorem Encoding.lea (w : Fields) : Statement (.lea w) := word64_back _ 0x20 w rfl rfl
theorem Encoding.lea2 (w : Fields) : Statement (.lea2 w) := word64_back _ 0x21 w rfl rfl
theorem Encoding.b (w : Fields) : Statement (.b w) := word64_back _ 0x22 w rfl rfl
theorem Encoding.bi (w : Fields) : Statement (.bi w) := word64_back _ 0x23 w rfl rfl
theorem Encoding.call (w : Fields) : Statement (.call w) := word64_back _ 0x24 w rfl rfl
theorem Encoding.ret (w : Fields) : Statement (.ret w) := word64_back _ 0x25 w rfl rfl
theorem Encoding.loopn (w : Fields) : Statement (.loopn w) := word64_back _ 0x26 w rfl rfl
theorem Encoding.ld (w : Fields) : Statement (.ld w) := word64_back _ 0x28 w rfl rfl
theorem Encoding.st (w : Fields) : Statement (.st w) := word64_back _ 0x29 w rfl rfl
theorem Encoding.lds (w : Fields) : Statement (.lds w) := word64_back _ 0x2A w rfl rfl
theorem Encoding.sts (w : Fields) : Statement (.sts w) := word64_back _ 0x2B w rfl rfl
theorem Encoding.ldf (w : Fields) : Statement (.ldf w) := word64_back _ 0x2C w rfl rfl
theorem Encoding.ste (w : Fields) : Statement (.ste w) := word64_back _ 0x2D w rfl rfl
theorem Encoding.stf (w : Fields) : Statement (.stf w) := word64_back _ 0x2E w rfl rfl
theorem Encoding.feclr (w : Fields) : Statement (.feclr w) := word64_back _ 0x2F w rfl rfl
theorem Encoding.feq (w : Fields) : Statement (.feq w) := word64_back _ 0x30 w rfl rfl
theorem Encoding.pref (w : Fields) : Statement (.pref w) := word64_back _ 0x31 w rfl rfl
theorem Encoding.ldp (w : Fields) : Statement (.ldp w) := word64_back _ 0x32 w rfl rfl
theorem Encoding.amo (w : Fields) : Statement (.amo w) := word64_back _ 0x34 w rfl rfl
theorem Encoding.amosc (w : Fields) : Statement (.amosc w) := word64_back _ 0x35 w rfl rfl
theorem Encoding.red (w : Fields) : Statement (.red w) := word64_back _ 0x36 w rfl rfl
theorem Encoding.fence (w : Fields) : Statement (.fence w) := word64_back _ 0x37 w rfl rfl
theorem Encoding.flagadd (w : Fields) : Statement (.flagadd w) := word64_back _ 0x38 w rfl rfl
theorem Encoding.flagset (w : Fields) : Statement (.flagset w) := word64_back _ 0x39 w rfl rfl
theorem Encoding.seal (w : Fields) : Statement (.seal w) := word64_back _ 0x3A w rfl rfl
theorem Encoding.unseal (w : Fields) : Statement (.unseal w) := word64_back _ 0x3B w rfl rfl
theorem Encoding.ballot (w : Fields) : Statement (.ballot w) := word64_back _ 0x3C w rfl rfl
theorem Encoding.canchk (w : Fields) : Statement (.canchk w) := word64_back _ 0x3D w rfl rfl
theorem Encoding.phbegin (w : Fields) : Statement (.phbegin w) := word64_back _ 0x3E w rfl rfl
theorem Encoding.phcommit (w : Fields) : Statement (.phcommit w) := word64_back _ 0x3F w rfl rfl
theorem Encoding.tkpop (w : Fields) : Statement (.tkpop w) := word64_back _ 0x40 w rfl rfl
theorem Encoding.tkpush (w : Fields) : Statement (.tkpush w) := word64_back _ 0x41 w rfl rfl
theorem Encoding.tkq (w : Fields) : Statement (.tkq w) := word64_back _ 0x42 w rfl rfl
theorem Encoding.rdtime (w : Fields) : Statement (.rdtime w) := word64_back _ 0x43 w rfl rfl
theorem Encoding.sleept (w : Fields) : Statement (.sleept w) := word64_back _ 0x44 w rfl rfl
theorem Encoding.sleeptWake (c : CoreId) : Statement (.sleeptWake c) := none_back _ rfl
theorem Encoding.hzn (w : Fields) : Statement (.hzn w) := word64_back _ 0x45 w rfl rfl
theorem Encoding.rte (w : Fields) : Statement (.rte w) := word64_back _ 0x46 w rfl rfl
theorem Encoding.kill (w : Fields) : Statement (.kill w) := word64_back _ 0x47 w rfl rfl
theorem Encoding.cfgr (w : Fields) : Statement (.cfgr w) := word64_back _ 0x48 w rfl rfl
theorem Encoding.cfgw (w : Fields) : Statement (.cfgw w) := by
  refine cfgw_back _ w rfl fun h => ?_
  simp only [Instr.wellFormed, Machine.legal, Bool.and_eq_true, beq_iff_eq] at h
  simp [cfgwInstr, h.2]
theorem Encoding.cfgwTqcfg (w : Fields) : Statement (.cfgwTqcfg w) := by
  refine cfgw_back _ w rfl fun h => ?_
  simp only [Instr.wellFormed, Machine.legal, Bool.and_eq_true, beq_iff_eq] at h
  simp [cfgwInstr, h.2]
theorem Encoding.cfgwPoolBoundary (w : Fields) : Statement (.cfgwPoolBoundary w) := by
  refine cfgw_back _ w rfl fun h => ?_
  simp only [Instr.wellFormed, Machine.legal, Bool.and_eq_true, beq_iff_eq] at h
  simp [cfgwInstr, h.2]
theorem Encoding.cfgwLseed (w : Fields) : Statement (.cfgwLseed w) := by
  refine cfgw_back _ w rfl fun h => ?_
  simp only [Instr.wellFormed, Machine.legal, Bool.and_eq_true, beq_iff_eq] at h
  simp [cfgwInstr, h.2]
theorem Encoding.cfgwStatus (w : Fields) : Statement (.cfgwStatus w) := by
  refine cfgw_back _ w rfl fun h => ?_
  simp only [Instr.wellFormed, Machine.legal, Bool.and_eq_true, beq_iff_eq] at h
  simp [cfgwInstr, h.2]
theorem Encoding.cfgwView (w : Fields) : Statement (.cfgwView w) := by
  refine cfgw_back _ w rfl fun h => ?_
  simp only [Instr.wellFormed, Machine.legal, Bool.and_eq_true, beq_iff_eq] at h
  simp [cfgwInstr, h.2]
theorem Encoding.view (w : Fields) : Statement (.view w) := word64_back _ 0x4A w rfl rfl
theorem Encoding.tset (w : Fields) : Statement (.tset w) := word64_back _ 0x4B w rfl rfl
theorem Encoding.tload (w : Fields) : Statement (.tload w) := word64_back _ 0x4C w rfl rfl
theorem Encoding.tsave (w : Fields) : Statement (.tsave w) := word64_back _ 0x4D w rfl rfl
theorem Encoding.mlease (w : Fields) : Statement (.mlease w) := word64_back _ 0x4E w rfl rfl
theorem Encoding.mrel (w : Fields) : Statement (.mrel w) := word64_back _ 0x4F w rfl rfl
theorem Encoding.aswap (w : Fields) : Statement (.aswap w) := word64_back _ 0x50 w rfl rfl
theorem Encoding.mstat (w : Fields) : Statement (.mstat w) := word64_back _ 0x51 w rfl rfl
theorem Encoding.refld (w : Fields) : Statement (.refld w) := word64_back _ 0x54 w rfl rfl
theorem Encoding.refst (w : Fields) : Statement (.refst w) := word64_back _ 0x55 w rfl rfl
theorem Encoding.hld (w : Fields) : Statement (.hld w) := word64_back _ 0x56 w rfl rfl
theorem Encoding.hst (w : Fields) : Statement (.hst w) := word64_back _ 0x57 w rfl rfl
theorem Encoding.refpin (w : Fields) : Statement (.refpin w) := word64_back _ 0x58 w rfl rfl
theorem Encoding.refunpin (w : Fields) : Statement (.refunpin w) := word64_back _ 0x59 w rfl rfl
theorem Encoding.kvag (w : Fields) : Statement (.kvag w) := word64_back _ 0x5A w rfl rfl
theorem Encoding.kvaddr (w : Fields) : Statement (.kvaddr w) := word64_back _ 0x5B w rfl rfl
theorem Encoding.endIter (w : Fields) : Statement (.endIter w) := word64_back _ 0x5C w rfl rfl
theorem Encoding.yield (w : Fields) : Statement (.yield w) := word64_back _ 0x5D w rfl rfl
theorem Encoding.spawn (w : Fields) : Statement (.spawn w) := word64_back _ 0x5E w rfl rfl
theorem Encoding.trap (w : Fields) : Statement (.trap w) := word64_back _ 0x5F w rfl rfl
theorem Encoding.vadd (w : Fields) : Statement (.vadd w) := word64_back _ 0x60 w rfl rfl
theorem Encoding.vsub (w : Fields) : Statement (.vsub w) := word64_back _ 0x61 w rfl rfl
theorem Encoding.vmul (w : Fields) : Statement (.vmul w) := word64_back _ 0x62 w rfl rfl
theorem Encoding.vfma (w : Fields) : Statement (.vfma w) := word64_back _ 0x63 w rfl rfl
theorem Encoding.vmin (w : Fields) : Statement (.vmin w) := word64_back _ 0x64 w rfl rfl
theorem Encoding.vmax (w : Fields) : Statement (.vmax w) := word64_back _ 0x65 w rfl rfl
theorem Encoding.vun (w : Fields) : Statement (.vun w) := word64_back _ 0x66 w rfl rfl
theorem Encoding.vcmp (w : Fields) : Statement (.vcmp w) := word64_back _ 0x67 w rfl rfl
theorem Encoding.vsel (w : Fields) : Statement (.vsel w) := word64_back _ 0x68 w rfl rfl
theorem Encoding.vlog (w : Fields) : Statement (.vlog w) := word64_back _ 0x69 w rfl rfl
theorem Encoding.vsh (w : Fields) : Statement (.vsh w) := word64_back _ 0x6A w rfl rfl
theorem Encoding.vcvt (w : Fields) : Statement (.vcvt w) := word64_back _ 0x6B w rfl rfl
theorem Encoding.vred (w : Fields) : Statement (.vred w) := word64_back _ 0x6C w rfl rfl
theorem Encoding.vscan (w : Fields) : Statement (.vscan w) := word64_back _ 0x6D w rfl rfl
theorem Encoding.vperm (w : Fields) : Statement (.vperm w) := word64_back _ 0x6E w rfl rfl
theorem Encoding.vbcast (w : Fields) : Statement (.vbcast w) := word64_back _ 0x6F w rfl rfl
theorem Encoding.vext (w : Fields) : Statement (.vext w) := word64_back _ 0x70 w rfl rfl
theorem Encoding.vins (w : Fields) : Statement (.vins w) := word64_back _ 0x71 w rfl rfl
theorem Encoding.vld (w : Fields) : Statement (.vld w) := word64_back _ 0x72 w rfl rfl
theorem Encoding.vst (w : Fields) : Statement (.vst w) := word64_back _ 0x73 w rfl rfl
theorem Encoding.vldg (w : Fields) : Statement (.vldg w) := word64_back _ 0x74 w rfl rfl
theorem Encoding.vsts (w : Fields) : Statement (.vsts w) := word64_back _ 0x75 w rfl rfl
theorem Encoding.vldf (w : Fields) : Statement (.vldf w) := word64_back _ 0x76 w rfl rfl
theorem Encoding.vste (w : Fields) : Statement (.vste w) := word64_back _ 0x77 w rfl rfl
theorem Encoding.vqnt (w : Fields) : Statement (.vqnt w) := word64_back _ 0x78 w rfl rfl
theorem Encoding.vdqnt (w : Fields) : Statement (.vdqnt w) := word64_back _ 0x79 w rfl rfl
theorem Encoding.vlogc (w : Fields) : Statement (.vlogc w) := word64_back _ 0x7A w rfl rfl
theorem Encoding.vdot (w : Fields) : Statement (.vdot w) := word64_back _ 0x7B w rfl rfl
theorem Encoding.vpm (w : Fields) : Statement (.vpm w) := word64_back _ 0x7C w rfl rfl
theorem Encoding.viota (w : Fields) : Statement (.viota w) := word64_back _ 0x7D w rfl rfl
theorem Encoding.vtopk (w : Fields) : Statement (.vtopk w) := word64_back _ 0x7E w rfl rfl
theorem Encoding.vrand (w : Fields) : Statement (.vrand w) := word64_back _ 0x7F w rfl rfl
theorem Encoding.mmac (c : CoreId) (n : Nat) : Statement (.mmac c n) := none_back _ rfl
theorem Encoding.mzero (c : CoreId) (n : Nat) : Statement (.mzero c n) := none_back _ rfl
theorem Encoding.mkat (c : CoreId) (n : Nat) : Statement (.mkat c n) := none_back _ rfl
theorem Encoding.mhash (c : CoreId) (n : Nat) : Statement (.mhash c n) := none_back _ rfl
theorem Encoding.cpy (c : CoreId) (n : Nat) : Statement (.cpy c n) := none_back _ rfl
theorem Encoding.cpynd (c : CoreId) (n : Nat) : Statement (.cpynd c n) := none_back _ rfl
theorem Encoding.gather (c : CoreId) (n : Nat) : Statement (.gather c n) := none_back _ rfl
theorem Encoding.scatter (c : CoreId) (n : Nat) : Statement (.scatter c n) := none_back _ rfl
theorem Encoding.fill (c : CoreId) (n : Nat) : Statement (.fill c n) := none_back _ rfl
theorem Encoding.relayout (c : CoreId) (n : Nat) : Statement (.relayout c n) := none_back _ rfl
theorem Encoding.mcast (c : CoreId) (n : Nat) : Statement (.mcast c n) := none_back _ rfl
theorem Encoding.phfetch (c : CoreId) (n : Nat) : Statement (.phfetch c n) := none_back _ rfl
theorem Encoding.stage (c : CoreId) (n : Nat) : Statement (.stage c n) := none_back _ rfl
theorem Encoding.desc (c : CoreId) (n : Nat) : Statement (.desc c n) := none_back _ rfl
theorem Encoding.bload (c : CoreId) : Statement (.bload c) := none_back _ rfl
theorem Encoding.bact (c : CoreId) : Statement (.bact c) := none_back _ rfl
theorem Encoding.bexec (c : CoreId) : Statement (.bexec c) := none_back _ rfl
theorem Encoding.writeThroughDrain (c : CoreId) : Statement (.writeThroughDrain c) := none_back _ rfl
theorem Encoding.bexecComplete (c : CoreId) : Statement (.bexecComplete c) := none_back _ rfl
theorem Encoding.bread (c : CoreId) : Statement (.bread c) := none_back _ rfl
theorem Encoding.bsafe (c : CoreId) : Statement (.bsafe c) := none_back _ rfl
theorem Encoding.bstat (c : CoreId) : Statement (.bstat c) := none_back _ rfl
theorem Encoding.kvappend (c : CoreId) (n : Nat) : Statement (.kvappend c n) := none_back _ rfl
theorem Encoding.kvhand (c : CoreId) : Statement (.kvhand c) := none_back _ rfl
theorem Encoding.kvhandGen (slot : BitVec 10) : Statement (.kvhandGen slot) := none_back _ rfl
theorem Encoding.xcpy (c : CoreId) (n : Nat) : Statement (.xcpy c n) := none_back _ rfl
theorem Encoding.xred (c : CoreId) (n : Nat) : Statement (.xred c n) := none_back _ rfl
theorem Encoding.xgath (c : CoreId) (n : Nat) : Statement (.xgath c n) := none_back _ rfl
theorem Encoding.xsig (c : CoreId) (n : Nat) : Statement (.xsig c n) := none_back _ rfl
theorem Encoding.bankNop (w : BankWord) : Statement (.bankNop w) := bank_back _ 0x00 w rfl rfl
theorem Encoding.bankLdr (w : BankWord) : Statement (.bankLdr w) := bank_back _ 0x01 w rfl rfl
theorem Encoding.bankStr (w : BankWord) : Statement (.bankStr w) := bank_back _ 0x02 w rfl rfl
theorem Encoding.bankLdi (w : BankWord) : Statement (.bankLdi w) := bank_back _ 0x03 w rfl rfl
theorem Encoding.bankMov (w : BankWord) : Statement (.bankMov w) := bank_back _ 0x04 w rfl rfl
theorem Encoding.bankAdd (w : BankWord) : Statement (.bankAdd w) := bank_back _ 0x05 w rfl rfl
theorem Encoding.bankSub (w : BankWord) : Statement (.bankSub w) := bank_back _ 0x06 w rfl rfl
theorem Encoding.bankMul (w : BankWord) : Statement (.bankMul w) := bank_back _ 0x07 w rfl rfl
theorem Encoding.bankMin (w : BankWord) : Statement (.bankMin w) := bank_back _ 0x08 w rfl rfl
theorem Encoding.bankMax (w : BankWord) : Statement (.bankMax w) := bank_back _ 0x09 w rfl rfl
theorem Encoding.bankCmp (w : BankWord) : Statement (.bankCmp w) := bank_back _ 0x0A w rfl rfl
theorem Encoding.bankSel (w : BankWord) : Statement (.bankSel w) := bank_back _ 0x0B w rfl rfl
theorem Encoding.bankShl (w : BankWord) : Statement (.bankShl w) := bank_back _ 0x0C w rfl rfl
theorem Encoding.bankShr (w : BankWord) : Statement (.bankShr w) := bank_back _ 0x0D w rfl rfl
theorem Encoding.bankLogb (w : BankWord) : Statement (.bankLogb w) := bank_back _ 0x0E w rfl rfl
theorem Encoding.bankQmac (w : BankWord) : Statement (.bankQmac w) := bank_back _ 0x0F w rfl rfl
theorem Encoding.bankLmac (w : BankWord) : Statement (.bankLmac w) := bank_back _ 0x10 w rfl rfl
theorem Encoding.bankKclr (w : BankWord) : Statement (.bankKclr w) := bank_back _ 0x11 w rfl rfl
theorem Encoding.bankKmov (w : BankWord) : Statement (.bankKmov w) := bank_back _ 0x12 w rfl rfl
theorem Encoding.bankRidge (w : BankWord) : Statement (.bankRidge w) := bank_back _ 0x13 w rfl rfl
theorem Encoding.ridgeReceive (u : UnitId) : Statement (.ridgeReceive u) := none_back _ rfl
theorem Encoding.bankLoop (w : BankWord) : Statement (.bankLoop w) := bank_back _ 0x14 w rfl rfl
theorem Encoding.bankSafe (w : BankWord) : Statement (.bankSafe w) := bank_back _ 0x15 w rfl rfl
theorem Encoding.bankExit (w : BankWord) : Statement (.bankExit w) := bank_back _ 0x16 w rfl rfl
theorem Encoding.unitWordIssue (u : UnitId) : Statement (.unitWordIssue u) := none_back _ rfl
theorem Encoding.rowOpen (u : UnitId) : Statement (.rowOpen u) := none_back _ rfl
theorem Encoding.mcsServe (ch : BitVec 7) (i : Nat) : Statement (.mcsServe ch i) := none_back _ rfl
theorem Encoding.bankStop (c : CoreId) : Statement (.bankStop c) := none_back _ rfl
theorem Encoding.bankWatchdog (c : CoreId) : Statement (.bankWatchdog c) := none_back _ rfl
theorem Encoding.viewRead (i : Nat) : Statement (.viewRead i) := none_back _ rfl
theorem Encoding.dispatch : Statement .dispatch := none_back _ rfl
theorem Encoding.agingStep (node : BitVec 12) : Statement (.agingStep node) := none_back _ rfl
theorem Encoding.preemption (c : CoreId) : Statement (.preemption c) := none_back _ rfl
theorem Encoding.resume (c : CoreId) : Statement (.resume c) := none_back _ rfl
theorem Encoding.migrationRelease (c : CoreId) : Statement (.migrationRelease c) := none_back _ rfl
theorem Encoding.siblingRelease (grp : BitVec 6) (idx : BitVec 4) : Statement (.siblingRelease grp idx) := none_back _ rfl
theorem Encoding.relocChunk : Statement .relocChunk := none_back _ rfl
theorem Encoding.relocEnd : Statement .relocEnd := none_back _ rfl
theorem Encoding.pageFaultLoad (i : Nat) : Statement (.pageFaultLoad i) := none_back _ rfl
theorem Encoding.migrationEpoch : Statement .migrationEpoch := none_back _ rfl
theorem Encoding.migrateCommit (page : Nat) : Statement (.migrateCommit page) := none_back _ rfl
theorem Encoding.reqs (f : Flit) : Statement (.reqs f) := none_back _ rfl
theorem Encoding.reqx (f : Flit) : Statement (.reqx f) := none_back _ rfl
theorem Encoding.requ (f : Flit) : Statement (.requ f) := none_back _ rfl
theorem Encoding.reqwt (f : Flit) : Statement (.reqwt f) := none_back _ rfl
theorem Encoding.reqstrong (f : Flit) : Statement (.reqstrong f) := none_back _ rfl
theorem Encoding.wb (f : Flit) : Statement (.wb f) := none_back _ rfl
theorem Encoding.datas (f : Flit) : Statement (.datas f) := none_back _ rfl
theorem Encoding.datae (f : Flit) : Statement (.datae f) := none_back _ rfl
theorem Encoding.datam (f : Flit) : Statement (.datam f) := none_back _ rfl
theorem Encoding.gntu (f : Flit) : Statement (.gntu f) := none_back _ rfl
theorem Encoding.cmpwt (f : Flit) : Statement (.cmpwt f) := none_back _ rfl
theorem Encoding.cmpstrong (f : Flit) : Statement (.cmpstrong f) := none_back _ rfl
theorem Encoding.refuse (f : Flit) : Statement (.refuse f) := none_back _ rfl
theorem Encoding.refuseRetry (i : Nat) : Statement (.refuseRetry i) := none_back _ rfl
theorem Encoding.reservationEnd (g : Nat) : Statement (.reservationEnd g) := none_back _ rfl
theorem Encoding.wback (f : Flit) : Statement (.wback f) := none_back _ rfl
theorem Encoding.fwds (f : Flit) : Statement (.fwds f) := none_back _ rfl
theorem Encoding.fwdx (f : Flit) : Statement (.fwdx f) := none_back _ rfl
theorem Encoding.inv (f : Flit) : Statement (.inv f) := none_back _ rfl
theorem Encoding.snprspdata (f : Flit) : Statement (.snprspdata f) := none_back _ rfl
theorem Encoding.snprsps (f : Flit) : Statement (.snprsps f) := none_back _ rfl
theorem Encoding.snprspi (f : Flit) : Statement (.snprspi f) := none_back _ rfl
theorem Encoding.invack (f : Flit) : Statement (.invack f) := none_back _ rfl
theorem Encoding.akRecallAck (c : CoreId) (i : Nat) : Statement (.akRecallAck c i) := none_back _ rfl
theorem Encoding.hostSnoop (h : HostMsg) : Statement (.hostSnoop h) := none_back _ rfl
theorem Encoding.memrd (h : HostMsg) : Statement (.memrd h) := none_back _ rfl
theorem Encoding.memrddata (h : HostMsg) : Statement (.memrddata h) := none_back _ rfl
theorem Encoding.meminv (h : HostMsg) : Statement (.meminv h) := none_back _ rfl
theorem Encoding.memwr (h : HostMsg) : Statement (.memwr h) := none_back _ rfl
theorem Encoding.birspi (h : HostMsg) : Statement (.birspi h) := none_back _ rfl
theorem Encoding.birsps (h : HostMsg) : Statement (.birsps h) := none_back _ rfl
theorem Encoding.birspe (h : HostMsg) : Statement (.birspe h) := none_back _ rfl
theorem Encoding.biconflict (h : HostMsg) : Statement (.biconflict h) := none_back _ rfl
theorem Encoding.linkFlit (port : Bool) (raw : List Byte) : Statement (.linkFlit port raw) := none_back _ rfl
theorem Encoding.bridgeUp (peer : Bool) (peerGtc : Word) : Statement (.bridgeUp peer peerGtc) := none_back _ rfl
theorem Encoding.wheelResize : Statement .wheelResize := none_back _ rfl
theorem Encoding.portDown (port : Bool) : Statement (.portDown port) := none_back _ rfl
theorem Encoding.tailReread : Statement .tailReread := none_back _ rfl
theorem Encoding.hello (q : Cmd) : Statement (.hello q) := none_back _ rfl
theorem Encoding.ctxopen (q : Cmd) : Statement (.ctxopen q) := none_back _ rfl
theorem Encoding.ctxclose (q : Cmd) : Statement (.ctxclose q) := none_back _ rfl
theorem Encoding.tpool (q : Cmd) : Statement (.tpool q) := none_back _ rfl
theorem Encoding.migpool (q : Cmd) : Statement (.migpool q) := none_back _ rfl
theorem Encoding.map (q : Cmd) : Statement (.map q) := none_back _ rfl
theorem Encoding.unmap (q : Cmd) : Statement (.unmap q) := none_back _ rfl
theorem Encoding.pin (q : Cmd) : Statement (.pin q) := none_back _ rfl
theorem Encoding.unpin (q : Cmd) : Statement (.unpin q) := none_back _ rfl
theorem Encoding.ptread (q : Cmd) : Statement (.ptread q) := none_back _ rfl
theorem Encoding.faultabort (q : Cmd) : Statement (.faultabort q) := none_back _ rfl
theorem Encoding.heapcfg (q : Cmd) : Statement (.heapcfg q) := none_back _ rfl
theorem Encoding.heappool (q : Cmd) : Statement (.heappool q) := none_back _ rfl
theorem Encoding.objset (q : Cmd) : Statement (.objset q) := none_back _ rfl
theorem Encoding.reloc (q : Cmd) : Statement (.reloc q) := none_back _ rfl
theorem Encoding.share (q : Cmd) : Statement (.share q) := none_back _ rfl
theorem Encoding.slotopen (q : Cmd) : Statement (.slotopen q) := none_back _ rfl
theorem Encoding.slotclose (q : Cmd) : Statement (.slotclose q) := none_back _ rfl
theorem Encoding.grpreg (q : Cmd) : Statement (.grpreg q) := none_back _ rfl
theorem Encoding.grpfree (q : Cmd) : Statement (.grpfree q) := none_back _ rfl
theorem Encoding.ttcfg (q : Cmd) : Statement (.ttcfg q) := none_back _ rfl
theorem Encoding.tcreate (q : Cmd) : Statement (.tcreate q) := none_back _ rfl
theorem Encoding.tdestroy (q : Cmd) : Statement (.tdestroy q) := none_back _ rfl
theorem Encoding.fwstage (q : Cmd) : Statement (.fwstage q) := none_back _ rfl
theorem Encoding.fwcommit (q : Cmd) : Statement (.fwcommit q) := none_back _ rfl
theorem Encoding.svnlock (q : Cmd) : Statement (.svnlock q) := none_back _ rfl
theorem Encoding.telem (q : Cmd) : Statement (.telem q) := none_back _ rfl
theorem Encoding.thermcfg (q : Cmd) : Statement (.thermcfg q) := none_back _ rfl
theorem Encoding.fencepol (q : Cmd) : Statement (.fencepol q) := none_back _ rfl
theorem Encoding.readmit (q : Cmd) : Statement (.readmit q) := none_back _ rfl
theorem Encoding.powercfg (q : Cmd) : Statement (.powercfg q) := none_back _ rfl
theorem Encoding.grpread (q : Cmd) : Statement (.grpread q) := none_back _ rfl
theorem Encoding.launch (ctx : BitVec 4) (val : Word) : Statement (.launch ctx val) := none_back _ rfl
theorem Encoding.stgb (slice : BitVec 5) (val : Word) : Statement (.stgb slice val) := none_back _ rfl
theorem Encoding.bwdog (val : Word) : Statement (.bwdog val) := none_back _ rfl
theorem Encoding.migcfg (val : Word) : Statement (.migcfg val) := none_back _ rfl
theorem Encoding.mmioWrite (off : Nat) (val : Word) : Statement (.mmioWrite off val) := none_back _ rfl
theorem Encoding.getVersion (req : List Byte) : Statement (.getVersion req) := none_back _ rfl
theorem Encoding.getCapabilities (req : List Byte) : Statement (.getCapabilities req) := none_back _ rfl
theorem Encoding.negotiateAlgorithms (req : List Byte) : Statement (.negotiateAlgorithms req) := none_back _ rfl
theorem Encoding.getDigests (req : List Byte) : Statement (.getDigests req) := none_back _ rfl
theorem Encoding.getCertificate (req : List Byte) : Statement (.getCertificate req) := none_back _ rfl
theorem Encoding.challenge (req : List Byte) : Statement (.challenge req) := none_back _ rfl
theorem Encoding.getMeasurements (req : List Byte) : Statement (.getMeasurements req) := none_back _ rfl
theorem Encoding.resetRelease (strap : Bool) : Statement (.resetRelease strap) := none_back _ rfl
theorem Encoding.startStage (chanok0 chanok1 : Word) : Statement (.startStage chanok0 chanok1) := none_back _ rfl
theorem Encoding.heartbeat (c n : CoreId) (b : Beat) : Statement (.heartbeat c n b) := none_back _ rfl
theorem Encoding.vote (voter suspect : CoreId) (readmit : Bool) : Statement (.vote voter suspect readmit) := none_back _ rfl
theorem Encoding.voteLapse : Statement .voteLapse := none_back _ rfl
theorem Encoding.coreFenced (c : CoreId) : Statement (.coreFenced c) := none_back _ rfl
theorem Encoding.fenced (i : Nat) : Statement (.fenced i) := none_back _ rfl
theorem Encoding.selfTestEnd (c : CoreId) (pass : Bool) : Statement (.selfTestEnd c pass) := none_back _ rfl
theorem Encoding.coreReadmitted (c : CoreId) : Statement (.coreReadmitted c) := none_back _ rfl
theorem Encoding.thermalMigrate (c : CoreId) (hi lo : Nat) : Statement (.thermalMigrate c hi lo) := none_back _ rfl
theorem Encoding.throttle (c : CoreId) (hi lo : Nat) : Statement (.throttle c hi lo) := none_back _ rfl
theorem Encoding.throttleEnd (c : CoreId) (hi lo : Nat) : Statement (.throttleEnd c hi lo) := none_back _ rfl
theorem Encoding.thermalShutdown (c : CoreId) (hi lo : Nat) : Statement (.thermalShutdown c hi lo) := none_back _ rfl
theorem Encoding.powerWindow (mw : Nat) : Statement (.powerWindow mw) := none_back _ rfl
theorem Encoding.scrub (word : Nat) (r : ScrubResult) : Statement (.scrub word r) := none_back _ rfl
theorem Encoding.tamperTrip (t : Sensor) : Statement (.tamperTrip t) := none_back _ rfl
theorem Encoding.readingBelowMig (c : CoreId) (hi lo : Nat) : Statement (.readingBelowMig c hi lo) := none_back _ rfl
theorem Encoding.cxlCacheCompletion (h : HostMsg) : Statement (.cxlCacheCompletion h) := none_back _ rfl
theorem Encoding.portUp (port : Bool) : Statement (.portUp port) := none_back _ rfl

end Sys2Proof.Laws
end

