-- ==== Sys2Proof/Safety.lean ====
section
/-! DEFINITION. What a safe run is. -/

namespace Sys2Proof.Machine

open Sys2Proof

/-- A step goes on: it neither faults nor is refused. -/
def goesOn (s : State) : Bool := match step s with | .next _ => true | _ => false

/-- A run of n steps from a state goes on throughout. -/
def safeFor : Nat → State → Bool
  | 0, _ => true
  | n + 1, s => match step s with | .next t => safeFor n t | _ => false

end Sys2Proof.Machine
end

