-- ==== Sys2Proof/Tests/Slice0.lean ====
section
/-! SUPPORT. Tests: words written out from the spec's encodings, ill-formed terms, one step each with the result the spec
gives, and concrete states and operands that meet the hypotheses of every statement. -/

namespace Sys2Proof.Tests

set_option Elab.async false

open Sys2Proof Sys2Proof.Machine

/-- An engine operation with nothing set. -/
def blankOp : EOp :=
  { id := 0, tix := 0, bits := 0, pc := 0, live := true, regs := [], views := [], ae := 0, fmode := 0, lseed := 0, lantern := 0,
    phstate := 0, promise := 0, stop := false, started := false, tokStart := none, prog := 0, aux := 0, popped := false, status := 0,
    gstatus := 0, stamps := ⟨0, 0, 0, 0⟩, uoOnly := false, owed := 0, buf := [], cap := [], clamp := false, sealAt := [],
    sent := false, fin := false, noTok := false, so := false, held := none, last := [], cells := [],
    uoAll := false, cut := false, shut := false, chain := none,
    no := none, vview := 0, kvgen := 0 }

/-- The all-zero fields of an instruction. -/
def z : Fields := { en := false, gp := 0, gs := false, pop := 0, push := 0, d := 0, a := 0, b := 0, f := 0, imm := 0 }

/-- The reset device with one core changed. -/
def at0 (f : Core → Core) : State := State.reset.modCore 0 f

/-- A range of 16 MiB at a VA, over the same IA, readable, writable and executable, of a class (R33). -/
def rng (n cls : Nat) : Range :=
  { w0 := BitVec.ofNat 64 (n * 2 ^ 24), w1 := BitVec.ofNat 64 ((n + 1) * 2 ^ 24), w2 := BitVec.ofNat 64 (n * 2 ^ 24),
    w3 := BitVec.ofNat 64 (15 + cls * 128) }

/-- Core 0 with ranges 0 to 4 of classes 0 to 4 (strongly ordered, RC, UO, AK, MH). -/
def ranged (f : Core → Core) : State :=
  at0 (fun k => f { k with range := #v[rng 0 0, rng 1 1, rng 2 2, rng 3 3, rng 4 4, rng 5 0, rng 6 0, rng 7 0] })

/-- An iteration of node 2 of context 0; sib names its sibling. -/
def iter0 (sib : Option (Nat × Nat)) : Iter :=
  { ctx := 0, node := 2, ord := 0, idx := [], cancelled := false, phase := true, persist := false, preemptible := true,
    sib := sib, since := 0, disp := 0, begun := true }

/-- A node of context 0 with one iteration and no successor. -/
def node0 : Node :=
  { ctx := 0, entry := 0, pbreg := 12, pbsp := 24, pbcache := 40, wins := [], n := [1], ord := 0, sib := none, slot := 0,
    cmask := 0xFFFF, last := false, join := false, phase := true, preempt := true, persist := false, prio := 0, succs := [],
    ranges := [], tqcfg := 0x2E0D804A402, tvec := 0, tmpl := [], counter := 0, status := 0, ready := none, nextOrd := 0,
    served := 0, ep := 0, clock := 0, running := 0, outcome := 0, stopped := false }

/-- An open ballot of two siblings with quorum 2; posted holds its posts, each of hash 7. -/
def ballot0 (posted quorum : Nat) : Ballot :=
  { closed := false, result := 0, ctx := 0, size := 2, quorum := quorum, widx := 0, posted := posted, fin := posted, cancelled := 0,
    released := 0, whash := 0, closeGtc := 0, slots := [], hash := [7, 7], pgtc := [0, 0], dispAfter := 0, coreCyc := [0, 0],
    unitCyc := [0, 0], bytes := [0, 0], late := 0 }

/-- A core in handler mode with a value in s1. -/
def handling (v : Word) : State := at0 (fun k => { k.ws 1 v with handler := true })

/-- Core 0 with an iteration and a trap handler. -/
def tasking (f : Core → Core) : State := at0 (fun k => f { k with iter := some (iter0 none), tvec := 0x4000 })

/-- A started operation of an engine, of a kind, with template fields and register values. -/
def opOf (e kind : Nat) (fs : List (Nat × Nat)) (rs : List (Nat × Word)) : EOp :=
  { blankOp with bits := fs.foldl (fun b x => amend b e x.1 x.2) (amend 0 e 1 kind), regs := rs, started := true }

/-- Core 0 with one operation in its C, X, M or G queue. -/
def withC (o : EOp) (f : Core → Core) : State := ranged (fun k => f { k with cq := [o] })
def withX (o : EOp) (f : Core → Core) : State := ranged (fun k => f { k with xq := [o] })
def withM (o : EOp) (f : Core → Core) : State := ranged (fun k => f { k with mq := [o] })
def withG (o : EOp) (f : Core → Core) : State := tasking (fun k => f { k with gq := [o] })

/-- An access of core 0 to n bytes of a place, of class 1. -/
def acc0 (loc : Loc) (n : Nat) (op : AccOp) : Acc :=
  { core := 0, seq := 5, loc := loc, len := n, op := op, strong := false, acq := false, sc := false, eng := .s, cls := 1, gr := 0,
    grp := 5, pos := 0, arr := 0, cyc := 0, mods := 0, waiting := none, asked := false, plane := [], planeW := 0, planeP := false, fwd := [] }

/-- A program run on a unit whose frame is at PA 0. -/
def run0 : BRun :=
  { job := 0, ia := 0, frame := 0, desc := 0, group := 3, start := [0, 0, 0, 0], reach := [none, none, none, none], ae := 0,
    isHead := true, next := none, safes := 0, exited := false, stopped := false, rowWait := none, ridge := none, incoming := [],
    scaleSeen := false, bytes := 0 }

/-- Unit 3, the current one, runs r. -/
def unitOn (r : BRun) : State := { State.reset.setUnit 3 { BUnit.reset with run := some r } with curUnit := 3 }

/-- A job of core 0, operation 0, on unit 3. -/
def job0 : BJob :=
  { job := 0, core := 0, op := 0, units := [3], started := true, first := 0, dels := [], stop := none, keep := false, cycles := 0,
    bytes := 0, sib := none }

/-- A started BEXEC of core 0, its job, and a unit of it that runs r. -/
def bexecOn (o : EOp) (r : BRun) (j : BJob) : State :=
  let s := withG o (fun k => { k with gs := { k.gs with prog := some ⟨[], 0, 0, [], 0⟩ } })
  let s := s.setUnit 3 { BUnit.reset with run := some r }
  { s with banks := { s.banks with jobs := [j] } }

/-- The pages of the spec's walk (R351): a compute-capable page at IA 0x8000_0000 and a view of it above. -/
def paged : Xlat :=
  { State.reset.xlat with pages := [(32768, ⟨0xF001001700A00000, 0x0800020010000001⟩), (32800, ⟨0xC401000000000000, 0x80000000⟩)] }

/-- A directory entry of a 128-byte grain. -/
def dir0 (st : DirSt) (p h needP needH : Bool) (req : Option Who) : Dir :=
  { gr := 1, st := st, p := p, h := h, needP := needP, needH := needH, req := req, next := none }

/-- The reset device with the bridge up. -/
def linked (f : Bridge → Bridge) : State :=
  { State.reset with bridge := f { State.reset.bridge with up := true, port0 := true, port1 := true } }

/-- A 64 KiB page of this device at IA 0. -/
def page0 : Xlat := { State.reset.xlat with pages := [(0, ⟨0xC000000000000000, 0⟩)] }

/-- A command of context 0 with two arguments. -/
def cmd0 (a0 a1 : Word) : Cmd :=
  { ctx := 0, fence := false, reserved := false, tag := 7, a0 := a0, a1 := a1, a2 := 0, a3 := 0, a4 := 0, a5 := 0, a6 := 0 }

/-- A ready device with context 0 open, room in its completion ring, and one queued command. -/
def cmding (opc : Nat) (q : Cmd) (f : State → State) : State :=
  f { State.reset with
    base := { State.reset.base with stg := 3, ready := true, cq := ⟨0, 2, 0, 0⟩, cr := ⟨4096, 2, 0, 0⟩, cmds := [(opc, q)] }
    ctxs := State.reset.ctxs.set 0 { Ctx.reset with isOpen := true, otlimit := 64 } }

/-- Words of memory at an address, in memory order. -/
def wordsOf (l : List Word) : List Byte := wordBytes l

/-- A descriptor of one float32 element at IA 0 in bounds of 64 bytes (R304). -/
def tensor0 : List Word :=
  [0, BitVec.ofNat 64 (1 + 2 ^ 32), BitVec.ofNat 64 (1 + 2 ^ 32), 0, 0, 0, 0, 0, 64, 0, 0, 0, 0, 0, 0, 0]

/-- Bytes of mapped pages, each stored at its place in device memory (R351). -/
def placed (s : State) (ia : Nat) (d : List Byte) : State :=
  ((List.range d.length).zip d).foldl (fun s e =>
    match pageKeys s (ia + e.1) 1 true with
    | .keys [k] _ => { s with mem := memSet s.mem k e.2 }
    | _ => s) s

/-- Page 0 mapped, the image of a tensor in host memory, an entry table at IA 0x2000 with entry 1 as given. -/
def imaged (img old : List Word) (s : State) : State :=
  let t := { s with xlat := page0 }
  (t.setCtx 0 { t.ctx 0 with ttbase := some 0x2000, tens := if old.isEmpty then [] else [(1, old)] }).hostWrite 0x100000 (wordsOf img)

/-- A node record with its entry at 0x1000 and its header at 0x800 (R281). -/
def record0 (entry aux : Nat) : List Word :=
  [BitVec.ofNat 64 (entry + 8 * 2 ^ 57), BitVec.ofNat 64 (0x800 + 2 ^ 57), BitVec.ofNat 64 aux, 0, 0, 0, 0, 0, 0, 0, 0, 0,
   BitVec.ofNat 64 (1 + 2 ^ 32), BitVec.ofNat 64 (1 + 2 ^ 32), 0x2000, 0]

/-- Context 0 ready to launch node 1, whose record lies at IA 0x80 with its auxiliary block at 0x400. -/
def launchable (rec : List Word) (f : State → State) : State :=
  let c : Ctx := { Ctx.reset with isOpen := true, first := 1, count := 1 }
  let s := { State.reset with base := { State.reset.base with stg := 3, ready := true }, xlat := page0, ctxs := State.reset.ctxs.set 0 c }
  f (placed (placed s 0x80 (wordsOf rec)) 0x400 (wordsOf [0, 0x1000000, 0, 15]))

/-- A vector instruction that waits in V. -/
def ventry0 (i : Instr) (fe : Option Nat) : VEntry :=
  { ins := i, pc := 8, a := 0, b := 0, seq := 0, snap := ⟨Vector.replicate 64 0, Vector.replicate 16 0, Vector.replicate 10 Slot.reset, 0⟩,
    after := 0, dst := none, pr := [], pw := [], holds := true, tokStart := none, fe := fe, popped := true }

/-- Core 0 with vector instructions that have not started. -/
def behind (l : List VEntry) (f : Core → Core) : State := ranged (fun k => f { k with vq := l })

/-- R93, R94: one word of every instruction with an OP from 0x00 to 0x1F, written out by the table. -/
def wordsScalar : List (Nat × Nat × Instr) :=
    [(0x00000042, 0x0C000000, .add { z with d := 1, a := 2, b := 3 }), (0x01000042, 0x0C000000, .sub { z with d := 1, a := 2, b := 3 }),
     (0x02000042, 0x0C000000, .mul { z with d := 1, a := 2, b := 3 }), (0x03000042, 0x0C000000, .mulh { z with d := 1, a := 2, b := 3 }),
     (0x04000042, 0x0C000000, .div { z with d := 1, a := 2, b := 3 }), (0x05000042, 0x0C000000, .rem { z with d := 1, a := 2, b := 3 }),
     (0x06000042, 0x0C000000, .and { z with d := 1, a := 2, b := 3 }), (0x07000042, 0x0C000000, .or { z with d := 1, a := 2, b := 3 }),
     (0x08000042, 0x0C000000, .xor { z with d := 1, a := 2, b := 3 }), (0x09000042, 0x0C000000, .andn { z with d := 1, a := 2, b := 3 }),
     (0x0A000042, 0x0C000000, .shl { z with d := 1, a := 2, b := 3 }), (0x0B000042, 0x0C000000, .shr { z with d := 1, a := 2, b := 3 }),
     (0x0C000042, 0x0C000000, .sra { z with d := 1, a := 2, b := 3 }), (0x0D000042, 0x0C000000, .min { z with d := 1, a := 2, b := 3 }),
     (0x0E000042, 0x0C000000, .max { z with d := 1, a := 2, b := 3 }), (0x0F000042, 0x00000000, .clz { z with d := 1, a := 2 }),
     (0x10000042, 0x00000000, .popc { z with d := 1, a := 2 }), (0x11000042, 0x0C000000, .bfx { z with d := 1, a := 2, b := 3 }),
     (0x12000042, 0x0C000000, .bfi { z with d := 1, a := 2, b := 3 }), (0x13000042, 0x0C000000, .sel { z with d := 1, a := 2, b := 3 }),
     (0x14000042, 0x00000000, .addi { z with d := 1, a := 2 }), (0x15000042, 0x00000000, .andi { z with d := 1, a := 2 }),
     (0x16000042, 0x00000000, .ori { z with d := 1, a := 2 }), (0x17000042, 0x00000000, .xori { z with d := 1, a := 2 }),
     (0x18000042, 0x00000000, .shli { z with d := 1, a := 2 }), (0x19000042, 0x00000000, .shri { z with d := 1, a := 2 }),
     (0x1A000042, 0x00000000, .srai { z with d := 1, a := 2 }), (0x1B000040, 0x00000000, .movi { z with d := 1 }),
     (0x1C000042, 0x00100000, .lui { z with d := 1, a := 2, f := 1 }), (0x1D000042, 0x0C000000, .cmp { z with d := 1, a := 2, b := 3 }),
     (0x1E000042, 0x00000000, .cmpi { z with d := 1, a := 2 }),
     (0x1F000042, 0x0C300000, .pmov { z with d := 1, a := 2, b := 3, f := 3 })]

theorem test_decode_wordsScalar :
    ∀ e ∈ wordsScalar, decodeParcels (BitVec.ofNat 32 e.1) (BitVec.ofNat 32 e.2.1) = .ok e.2.2 := by decide +kernel

/-- R93, R94: one word of every instruction with an OP from 0x20 to 0x3F, written out by the table. -/
def wordsMemory : List (Nat × Nat × Instr) :=
    [(0x20000042, 0x0C000000, .lea { z with d := 1, a := 2, b := 3 }), (0x21000042, 0x0C000000, .lea2 { z with d := 1, a := 2, b := 3 }),
     (0x22000000, 0x00000000, .b z), (0x23000002, 0x00000000, .bi { z with a := 2 }), (0x24000000, 0x00000000, .call z),
     (0x25000002, 0x00000000, .ret { z with a := 2 }), (0x26000040, 0x00000000, .loopn { z with d := 1 }),
     (0x28000042, 0x0C000000, .ld { z with d := 1, a := 2, b := 3 }), (0x29000042, 0x0C000000, .st { z with d := 1, a := 2, b := 3 }),
     (0x2A000042, 0x00000000, .lds { z with d := 1, a := 2 }), (0x2B000042, 0x00000000, .sts { z with d := 1, a := 2 }),
     (0x2C000042, 0x00300000, .ldf { z with d := 1, a := 2, f := 3 }), (0x2D000042, 0x00300000, .ste { z with d := 1, a := 2, f := 3 }),
     (0x2E000042, 0x00300000, .stf { z with d := 1, a := 2, f := 3 }),
     (0x2F000002, 0x0C300000, .feclr { z with a := 2, b := 3, f := 3 }),
     (0x30000042, 0x00300000, .feq { z with d := 1, a := 2, f := 3 }), (0x31000002, 0x0C000000, .pref { z with a := 2, b := 3 }),
     (0x32000042, 0x0E000000, .ldp { z with d := 1, a := 2, b := 3, f := 32 }),
     (0x34000042, 0x0C300000, .amo { z with d := 1, a := 2, b := 3, f := 3 }),
     (0x35000042, 0x0C300000, .amosc { z with d := 1, a := 2, b := 3, f := 3 }),
     (0x36000042, 0x0C300000, .red { z with d := 1, a := 2, b := 3, f := 3 }), (0x37000000, 0x00000000, .fence z),
     (0x38000042, 0x0C000000, .flagadd { z with d := 1, a := 2, b := 3 }),
     (0x39000042, 0x0C000000, .flagset { z with d := 1, a := 2, b := 3 }), (0x3A000002, 0x0C000000, .seal { z with a := 2, b := 3 }),
     (0x3B000002, 0x00000000, .unseal { z with a := 2 }), (0x3C000042, 0x00000000, .ballot { z with d := 1, a := 2 }),
     (0x3D000040, 0x00100000, .canchk { z with d := 1, f := 1 }), (0x3E000002, 0x0C000000, .phbegin { z with a := 2, b := 3 }),
     (0x3F000000, 0x00000000, .phcommit z)]

theorem test_decode_wordsMemory :
    ∀ e ∈ wordsMemory, decodeParcels (BitVec.ofNat 32 e.1) (BitVec.ofNat 32 e.2.1) = .ok e.2.2 := by decide +kernel

/-- R93, R94: one word of every instruction with an OP from 0x40 to 0x5F, written out by the table. -/
def wordsSystem : List (Nat × Nat × Instr) :=
    [(0x40008000, 0x00000000, .tkpop { z with pop := 1 }), (0x41001000, 0x00000000, .tkpush { z with push := 1 }),
     (0x42000040, 0x00000001, .tkq { z with d := 1, imm := 1 }), (0x43000040, 0x00000000, .rdtime { z with d := 1 }),
     (0x44000002, 0x00000000, .sleept { z with a := 2 }), (0x45000040, 0x00000000, .hzn { z with d := 1 }),
     (0x46000000, 0x00000000, .rte z), (0x47000042, 0x00000000, .kill { z with d := 1, a := 2 }),
     (0x48000040, 0x00000000, .cfgr { z with d := 1 }), (0x49000002, 0x00000000, .cfgw { z with a := 2 }),
     (0x49000002, 0x00000050, .cfgwTqcfg { z with a := 2, imm := 0x50 }),
     (0x49000002, 0x00000010, .cfgwPoolBoundary { z with a := 2, imm := 16 }),
     (0x49000002, 0x000000B0, .cfgwLseed { z with a := 2, imm := 0xB0 }),
     (0x49000002, 0x000000A0, .cfgwStatus { z with a := 2, imm := 0xA0 }),
     (0x49000002, 0x00000020, .cfgwView { z with a := 2, imm := 32 }), (0x4A000042, 0x00000000, .view { z with d := 1, a := 2 }),
     (0x4B000002, 0x00000A00, .tset { z with a := 2, imm := 0xA00 }), (0x4C000002, 0x00000000, .tload { z with a := 2 }),
     (0x4D000002, 0x00000000, .tsave { z with a := 2 }), (0x4E000000, 0x00000000, .mlease z), (0x4F000000, 0x00000000, .mrel z),
     (0x50000040, 0x00000000, .aswap { z with d := 1 }), (0x51000040, 0x00000000, .mstat { z with d := 1 }),
     (0x54000042, 0x0C000000, .refld { z with d := 1, a := 2, b := 3 }),
     (0x55000042, 0x0C000000, .refst { z with d := 1, a := 2, b := 3 }),
     (0x56000042, 0x0C000000, .hld { z with d := 1, a := 2, b := 3 }), (0x57000042, 0x0C000000, .hst { z with d := 1, a := 2, b := 3 }),
     (0x58000042, 0x00000000, .refpin { z with d := 1, a := 2 }), (0x59000002, 0x00000000, .refunpin { z with a := 2 }),
     (0x5A000042, 0x0C000000, .kvag { z with d := 1, a := 2, b := 3 }),
     (0x5B000042, 0x0C000000, .kvaddr { z with d := 1, a := 2, b := 3 }), (0x5C000000, 0x00000000, .endIter z),
     (0x5D000000, 0x00000000, .yield z), (0x5E000042, 0x00000000, .spawn { z with d := 1, a := 2 }), (0x5F000000, 0x00000000, .trap z)]

theorem test_decode_wordsSystem :
    ∀ e ∈ wordsSystem, decodeParcels (BitVec.ofNat 32 e.1) (BitVec.ofNat 32 e.2.1) = .ok e.2.2 := by decide +kernel

/-- R93, R94: one word of every instruction with an OP from 0x60 to 0x6F, written out by the table. -/
def wordsVectorA : List (Nat × Nat × Instr) :=
    [(0x60000042, 0x0C000000, .vadd { z with d := 1, a := 2, b := 3 }),
     (0x61000042, 0x0C000000, .vsub { z with d := 1, a := 2, b := 3 }),
     (0x62000042, 0x0C000000, .vmul { z with d := 1, a := 2, b := 3 }),
     (0x63000042, 0x0C000000, .vfma { z with d := 1, a := 2, b := 3 }),
     (0x64000042, 0x0C000000, .vmin { z with d := 1, a := 2, b := 3 }),
     (0x65000042, 0x0C000000, .vmax { z with d := 1, a := 2, b := 3 }), (0x66000042, 0x00000000, .vun { z with d := 1, a := 2 }),
     (0x67000042, 0x0C000000, .vcmp { z with d := 1, a := 2, b := 3 }),
     (0x68000042, 0x0C000000, .vsel { z with d := 1, a := 2, b := 3 }),
     (0x69000042, 0x0C000000, .vlog { z with d := 1, a := 2, b := 3 }), (0x6A000042, 0x0C000000, .vsh { z with d := 1, a := 2, b := 3 }),
     (0x6B000042, 0x00000000, .vcvt { z with d := 1, a := 2 }), (0x6C000042, 0x00000000, .vred { z with d := 1, a := 2 }),
     (0x6D000042, 0x00000000, .vscan { z with d := 1, a := 2 }), (0x6E000042, 0x0C000000, .vperm { z with d := 1, a := 2, b := 3 }),
     (0x6F000042, 0x00000000, .vbcast { z with d := 1, a := 2 })]

theorem test_decode_wordsVectorA :
    ∀ e ∈ wordsVectorA, decodeParcels (BitVec.ofNat 32 e.1) (BitVec.ofNat 32 e.2.1) = .ok e.2.2 := by decide +kernel

/-- R93, R94: one word of every instruction with an OP from 0x70 to 0x7F, written out by the table. -/
def wordsVectorB : List (Nat × Nat × Instr) :=
    [(0x70000042, 0x0C100000, .vext { z with d := 1, a := 2, b := 3, f := 1 }),
     (0x71000042, 0x0C100000, .vins { z with d := 1, a := 2, b := 3, f := 1 }), (0x72000042, 0x00000000, .vld { z with d := 1, a := 2 }),
     (0x73000042, 0x00000000, .vst { z with d := 1, a := 2 }), (0x74000042, 0x0C300000, .vldg { z with d := 1, a := 2, b := 3, f := 3 }),
     (0x75000042, 0x0C300000, .vsts { z with d := 1, a := 2, b := 3, f := 3 }),
     (0x76000042, 0x00000000, .vldf { z with d := 1, a := 2 }), (0x77000042, 0x00000000, .vste { z with d := 1, a := 2 }),
     (0x78000042, 0x000A4310, .vqnt { z with d := 1, a := 2, imm := 0xA4310 }),
     (0x79000042, 0x000A4310, .vdqnt { z with d := 1, a := 2, imm := 0xA4310 }),
     (0x7A000042, 0x00080000, .vlogc { z with d := 1, a := 2, imm := 0x80000 }),
     (0x7B000042, 0x0C020000, .vdot { z with d := 1, a := 2, b := 3, imm := 0x20000 }),
     (0x7C000042, 0x0C300000, .vpm { z with d := 1, a := 2, b := 3, f := 3 }),
     (0x7D000042, 0x00000000, .viota { z with d := 1, a := 2 }),
     (0x7E000042, 0x0C010004, .vtopk { z with d := 1, a := 2, b := 3, imm := 0x10004 }),
     (0x7F000042, 0x0C000000, .vrand { z with d := 1, a := 2, b := 3 })]

theorem test_decode_wordsVectorB :
    ∀ e ∈ wordsVectorB, decodeParcels (BitVec.ofNat 32 e.1) (BitVec.ofNat 32 e.2.1) = .ok e.2.2 := by decide +kernel

/-- R108, R109: one word of every Lanem-B instruction. -/
def wordsBank : List (Nat × Instr) :=
    [(0x00000000, .bankNop ⟨0, 0, 0, 0⟩), (0x08400008, .bankLdr ⟨1, 0, 0, 8⟩), (0x10040008, .bankStr ⟨0, 2, 0, 8⟩),
     (0x18801008, .bankLdi ⟨2, 0, 1, 8⟩), (0x20440000, .bankMov ⟨1, 2, 0, 0⟩), (0x28443000, .bankAdd ⟨1, 2, 3, 0⟩),
     (0x30443000, .bankSub ⟨1, 2, 3, 0⟩), (0x38443000, .bankMul ⟨1, 2, 3, 0⟩), (0x40443000, .bankMin ⟨1, 2, 3, 0⟩),
     (0x48443000, .bankMax ⟨1, 2, 3, 0⟩), (0x50443008, .bankCmp ⟨1, 2, 3, 8⟩), (0x58443008, .bankSel ⟨1, 2, 3, 8⟩),
     (0x60440008, .bankShl ⟨1, 2, 0, 8⟩), (0x68440008, .bankShr ⟨1, 2, 0, 8⟩), (0x70443000, .bankLogb ⟨1, 2, 3, 0⟩),
     (0x78443000, .bankQmac ⟨1, 2, 3, 0⟩), (0x80443000, .bankLmac ⟨1, 2, 3, 0⟩), (0x88400000, .bankKclr ⟨1, 0, 0, 0⟩),
     (0x90440000, .bankKmov ⟨1, 2, 0, 0⟩), (0x98040000, .bankRidge ⟨0, 2, 0, 0⟩), (0xA0440008, .bankLoop ⟨1, 2, 0, 8⟩),
     (0xA8000000, .bankSafe ⟨0, 0, 0, 0⟩), (0xB0000000, .bankExit ⟨0, 0, 0, 0⟩)]

theorem test_decode_wordsBank : ∀ e ∈ wordsBank, decodeBank (BitVec.ofNat 32 e.1) = some e.2 := by decide +kernel

/-! Ill-formed terms, one for each check of R111 and of the entries. -/

theorem test_ill_formed_unused_fields :
    ∀ i ∈ [Instr.add { z with imm := 1 }, .add { z with f := 3 }, .mul { z with f := 1 }, .div { z with f := 2 }, .min { z with f := 2 },
      .clz { z with b := 1 }, .popc { z with b := 1 }, .bfx { z with f := 2 }, .sel { z with f := 16 }, .addi { z with b := 1 },
      .andi { z with f := 1 }, .shli { z with imm := 64 }, .movi { z with a := 1 }, .lui { z with a := 1 }, .lui { z with f := 2 },
      .cmp { z with imm := 1 }, .cmp { z with f := 24 }, .cmp { z with f := 7 }, .cmpi { z with b := 1 }, .pmov { z with b := 1 },
      .pmov { z with f := 11 }, .pmov { z with a := 1, f := 6 }, .lea { z with f := 8 }, .b { z with d := 1 }, .bi { z with f := 2 },
      .call { z with a := 1 }, .ret { z with imm := 1 }, .loopn z, .pref { z with d := 1 }, .pref { z with f := 2 }, .fence { z with f := 6 },
      .flagadd { z with f := 4 }, .flagset { z with f := 16 }, .seal { z with f := 1 }, .unseal { z with b := 1 }, .ballot { z with b := 1 },
      .canchk { z with d := 1 }, .canchk { z with f := 2 }, .phbegin { z with d := 1 }, .phcommit { z with a := 1 }, .rdtime { z with f := 2 },
      .sleept { z with a := 1, f := 2 }, .hzn { z with f := 7 }, .rte { z with d := 1 }, .kill { z with f := 2 }, .cfgr { z with a := 1 },
      .cfgr { z with imm := 0x4000 }, .cfgw { z with d := 1 }, .view { z with imm := 1 }, .tset { z with imm := 7 }, .tset z,
      .tload { z with imm := 5 }, .tsave { z with imm := 0x200 }, .mlease { z with d := 1 }, .mrel { z with b := 1 }, .mstat { z with a := 1 },
      .refld { z with f := 2 }, .refst { z with f := 1 }, .hld { z with f := 7 }, .hst { z with f := 4 }, .refpin { z with imm := 1 },
      .refunpin { z with d := 1 }, .kvag { z with imm := 1 }, .kvaddr { z with f := 1 }, .endIter { z with a := 1 }, .yield { z with a := 1 },
      .spawn { z with b := 1 }, .trap { z with d := 1 }], i.wellFormed = false := by decide +kernel

theorem test_ill_formed_registers :
    ∀ i ∈ [Instr.cmp { z with d := 16 }, .cmpi { z with d := 16 }, .pmov { z with d := 16 }, .pmov { z with b := 16, f := 1 },
      .feq { z with d := 16, f := 3 }, .canchk { z with d := 16, f := 1 }, .ldp { z with b := 8, f := 32 }, .aswap { z with d := 4 },
      .view { z with d := 16 }, .refld { z with d := 16 }, .refst { z with a := 16 }, .hld { z with a := 16 }, .hst { z with a := 16 },
      .refpin { z with a := 16 }, .refunpin { z with a := 16 }, .kvag { z with d := 8 }, .kvaddr { z with b := 8 }, .vcmp { z with d := 16 },
      .vpm { z with a := 16 }, .vpm { z with d := 16, f := 1 }, .vtopk { z with d := 63, imm := 1 }], i.wellFormed = false := by decide +kernel

theorem test_ill_formed_memory_forms :
    ∀ i ∈ [Instr.ld { z with f := 40 }, .ld { z with f := 7 }, .st { z with f := 4 }, .lds { z with f := 32 }, .lds { z with b := 3 },
      .sts { z with f := 32 }, .sts { z with b := 3 }, .ldf { z with f := 2 }, .ldf { z with b := 2, f := 3 }, .ste { z with f := 27 },
      .stf { z with b := 1, f := 3 }, .feclr { z with d := 1, f := 3 }, .ldp { z with f := 0 }, .amo { z with f := 1 }, .amo { z with b := 11, f := 3 },
      .amo { z with b := 10, f := 3 }, .amo { z with d := 1, b := 9, f := 3 }, .amo { z with b := 32, f := 3 }, .amosc { z with b := 16, f := 3 },
      .amosc { z with d := 1, b := 9, f := 3 }, .red { z with b := 0, f := 3 }, .red { z with b := 9, f := 3 }, .vld { z with b := 1 },
      .vld { z with f := 40 }, .vst { z with f := 1 }, .vldg { z with f := 0 }, .vsts { z with f := 40 }, .vldf { z with f := 24 },
      .vste { z with f := 1 }], i.wellFormed = false := by decide +kernel

theorem test_ill_formed_lanes :
    ∀ i ∈ [Instr.vadd { z with imm := 0xC0000 }, .vadd { z with imm := 0xB0000 }, .vadd { z with imm := 1 }, .vadd { z with f := 2 }, .vadd { z with f := 8 },
      .vsub { z with f := 40, imm := 0xA0000 }, .vmul { z with f := 3 }, .vfma { z with f := 3 }, .vmin { z with f := 1 }, .vmax { z with f := 8 },
      .vun { z with b := 1 }, .vun { z with f := 2 }, .vcmp { z with f := 6 }, .vsel { z with f := 1 }, .vlog { z with f := 7 }, .vlog { z with f := 5, imm := 0xA0000 },
      .vsh { z with imm := 0xA0000 }, .vsh { z with f := 4, imm := 8 }, .vcvt { z with imm := 0x00021 }, .vcvt { z with f := 2 }, .vred { z with f := 6 },
      .vscan { z with imm := 2 }, .vperm { z with f := 6 }, .vbcast { z with imm := 1 }, .vbcast { z with f := 2 }, .vext { z with imm := 0x30080 },
      .vins { z with imm := 0x30100 }, .vqnt { z with imm := 0xA4318 }, .vqnt { z with imm := 0xA0005 }, .vqnt { z with imm := 0x00000 },
      .vdqnt { z with imm := 0xA0006 }, .vlogc { z with imm := 0x800FF }, .vdot z, .vdot { z with f := 5, imm := 0x20000 }, .vpm { z with f := 5 },
      .viota { z with imm := 0xA0000 }, .vtopk { z with imm := 0x10000 }, .vtopk { z with imm := 0x10041 }, .vrand { z with f := 3 },
      .vrand { z with imm := 0xA0000 }], i.wellFormed = false := by decide +kernel

theorem test_ill_formed_control_fields :
    ∀ i ∈ [Instr.add { z with gp := 1 }, .add { z with gs := true }, .ld { z with gp := 1 }, .mlease { z with gp := 1 }, .vadd { z with gs := true },
      .tkpop z, .tkpush z, .tkq z, .tkq { z with imm := 8 }], i.wellFormed = false := by decide +kernel

theorem test_well_formed_non_blocking :
    (Instr.tkpop { z with pop := 1, gs := true, gp := 1 }).wellFormed = true ∧ (Instr.mlease { z with gs := true, gp := 1 }).wellFormed = true := by
  decide +kernel

theorem test_ill_formed_patch_words :
    ∀ p ∈ [({ eng := 5, tix := 0, fsel := 0, go := true, val := 0 } : PatchWord), { eng := 0, tix := 0, fsel := 11, go := true, val := 0 },
      { eng := 0, tix := 0, fsel := 0, go := true, val := 1 }, { eng := 0, tix := 0, fsel := 1, go := false, val := 128 }],
      (Instr.patchWord p).wellFormed = false := by decide +kernel

theorem test_ill_formed_bank_words :
    ∀ i ∈ [Instr.bankNop ⟨0, 0, 0, 1⟩, .bankLdr ⟨24, 0, 0, 0⟩, .bankLdr ⟨0, 0, 0, 2048⟩, .bankStr ⟨1, 0, 0, 0⟩, .bankLdi ⟨0, 0, 3, 0⟩,
      .bankMov ⟨0, 24, 0, 0⟩, .bankAdd ⟨0, 0, 24, 0⟩, .bankAdd ⟨0, 0, 0, 3⟩, .bankSub ⟨0, 0, 0, 8⟩, .bankMul ⟨24, 0, 0, 0⟩, .bankMin ⟨0, 0, 0, 3⟩,
      .bankMax ⟨0, 0, 0, 8⟩, .bankCmp ⟨4, 0, 0, 0⟩, .bankCmp ⟨0, 0, 0, 48⟩, .bankSel ⟨0, 0, 0, 4⟩, .bankShl ⟨0, 0, 0, 4⟩, .bankShr ⟨0, 0, 1, 0⟩,
      .bankLogb ⟨0, 0, 0, 5⟩, .bankLogb ⟨0, 0, 1, 4⟩, .bankQmac ⟨4, 0, 0, 0⟩, .bankQmac ⟨0, 0, 23, 1⟩, .bankLmac ⟨0, 22, 0, 0⟩, .bankKclr ⟨0, 0, 1, 0⟩,
      .bankKmov ⟨0, 0, 0, 1⟩, .bankRidge ⟨0, 4, 0, 0⟩, .bankLoop ⟨0, 0, 0, 1⟩, .bankLoop ⟨1, 0, 0, 0⟩, .bankSafe ⟨0, 0, 0, 1⟩, .bankExit ⟨1, 0, 0, 0⟩],
      i.wellFormed = false := by decide +kernel

/-! R90, R94, R100, R109, R111: encodings that are no instruction. -/

theorem test_reserved_opcodes :
    (∀ op ∈ [0x27, 0x33, 0x52, 0x53], decodeParcels (BitVec.ofNat 32 (op * 2 ^ 24)) 0 = .illOp)
    ∧ (∀ e ∈ [5, 6, 7], decodePatch (BitVec.ofNat 32 (2 ^ 31 + e * 2 ^ 28)) = .illOp)
    ∧ (∀ op ∈ List.range' 0x17 9, decodeBank (BitVec.ofNat 32 (op * 2 ^ 27)) = none)
    ∧ decodeBank 0 = some (.bankNop ⟨0, 0, 0, 0⟩) := by decide +kernel

/-- The worked encodings of the spec. -/
theorem test_worked_encodings :
    decodeParcels 0x140002CB 0x00000008 = .ok (.addi { z with d := 11, a := 11, imm := 8 })
    ∧ decodeParcels 0x609CD141 0x080A0000
      = .ok (.vadd { z with en := true, gp := 3, gs := true, pop := 1, push := 5, d := 5, a := 1, b := 2, imm := 0xA0000 })
    ∧ decodeParcels 0x34000314 0x44300008 = .ok (.amo { z with d := 12, a := 20, b := 17, f := 3, imm := 8 })
    ∧ decodeParcels 0x78000202 0x000A4310 = .ok (.vqnt { z with d := 8, a := 2, imm := 0xA4310 })
    ∧ decodeParcels 0x540000C1 0x30100010 = .ok (.refld { z with d := 3, a := 1, b := 12, f := 1, imm := 16 }) := by decide +kernel

theorem test_worked_patch_words :
    decodePatch 0x81480005 = .ok (.patchWord { eng := 0, tix := 5, fsel := 4, go := false, val := 5 })
    ∧ decodePatch 0x814B0007 = .ok (.patchWord { eng := 0, tix := 5, fsel := 5, go := true, val := 7 })
    ∧ decodePatch 0xA0C10000 = .ok (.patchWord { eng := 2, tix := 3, fsel := 0, go := true, val := 0 })
    ∧ decodePatch 0x90410000 = .ok (.patchWord { eng := 1, tix := 1, fsel := 0, go := true, val := 0 }) := by decide +kernel

theorem test_worked_bank_words :
    decodeBank 0x08400001 = some (.bankLdr ⟨1, 0, 0, 1⟩) ∧ decodeBank 0xA0801020 = some (.bankLoop ⟨2, 0, 1, 32⟩)
    ∧ decodeBank 0x08800400 = some (.bankLdr ⟨2, 0, 0, 0x400⟩) ∧ decodeBank 0x78041000 = some (.bankQmac ⟨0, 2, 1, 0⟩)
    ∧ decodeBank 0x98000000 = some (.bankRidge ⟨0, 0, 0, 0⟩) ∧ decodeBank 0xB0000000 = some (.bankExit ⟨0, 0, 0, 0⟩) := by decide +kernel

/-! One step each, with the result the spec gives. -/

/-- The state after an instruction of core 0 on a state. -/
def after (i : Instr) (s : State) : State := match exec i s with | .next t => t | _ => s

/-- Scalar register 3 after an instruction whose sources s1 and s2 hold a and b. -/
def scalar (i : Fields → Instr) (f : BitVec 6) (imm : BitVec 20) (a b : Word) : Word :=
  ((after (i { z with d := 3, a := 1, b := 2, f := f, imm := imm }) (at0 (fun k => (k.ws 1 a).ws 2 b))).core 0).rs 3

/-- R113. -/
theorem test_scalar_corners :
    scalar .add 0 0 (2 ^ 64 - 1) 1 = 0 ∧ scalar .add 1 0 (2 ^ 63 - 1) 1 = 2 ^ 63 - 1 ∧ scalar .add 2 0 (2 ^ 64 - 1) 1 = 2 ^ 64 - 1
    ∧ scalar .sub 2 0 1 2 = 0 ∧ scalar .sub 1 0 (2 ^ 63) 1 = 2 ^ 63 ∧ scalar .mulh 0 0 (2 ^ 64 - 1) 1 = 2 ^ 64 - 1
    ∧ scalar .mulh 1 0 (2 ^ 64 - 1) 2 = 1 ∧ scalar .mulh 2 0 (2 ^ 64 - 1) (2 ^ 64 - 1) = 2 ^ 64 - 1
    ∧ scalar .div 0 0 7 0 = 2 ^ 64 - 1 ∧ scalar .div 0 0 (2 ^ 63) (2 ^ 64 - 1) = 2 ^ 63 ∧ scalar .rem 0 0 7 0 = 7
    ∧ scalar .rem 0 0 (2 ^ 63) (2 ^ 64 - 1) = 0 ∧ scalar .rem 0 0 (0 - 7) 2 = 0 - 1 := by decide +kernel

theorem test_scalar_bits :
    scalar .andn 0 0 0xFF 0x0F = 0xF0 ∧ scalar .shl 0 0 1 65 = 2 ∧ scalar .sra 0 0 (2 ^ 63) 63 = 2 ^ 64 - 1 ∧ scalar .shr 0 0 (2 ^ 63) 63 = 1
    ∧ scalar .min 0 0 (0 - 1) 1 = 0 - 1 ∧ scalar .min 1 0 (0 - 1) 1 = 1 ∧ scalar .bfx 0 0 (0xF * 2 ^ 60) 0x073C = 0xF
    ∧ scalar .bfx 1 0 0x80 0x0304 = 0 - 8 ∧ scalar .bfi 0 0 0xF 0x033E = 0xC * 2 ^ 60
    ∧ scalar (fun w => .clz { w with b := 0 }) 0 0 0 0 = 64 ∧ scalar (fun w => .popc { w with b := 0 }) 0 0 (2 ^ 64 - 1) 0 = 64
    ∧ scalar .sel 0 0 5 6 = 6 := by decide +kernel

/-- R114: the three instructions that build 0x0123_4567_89AB_CDEF. -/
theorem test_constant_building :
    scalar (fun w => .lui { w with a := 0, b := 0 }) 0 0x6789A 0 0 = 0x6789A00000 ∧ scalar (fun w => .ori { w with b := 0 }) 0 0xBCDEF 0x6789A00000 0 = 0x6789ABCDEF
    ∧ scalar (fun w => .lui { w with b := 0 }) 1 0x12345 0x6789ABCDEF 0 = 0x123456789ABCDEF := by decide +kernel

/-- R115: a comparison sets every bit, and a combining one keeps the others. -/
theorem test_compare :
    ((after (.cmp { z with d := 1, a := 1, b := 2, f := 2 }) (at0 (fun k => k.ws 1 (0 - 1)))).core 0).rp 1 = BitVec.allOnes 256
    ∧ ((after (.cmp { z with d := 1, a := 1, b := 2, f := 4 }) (at0 (fun k => k.ws 1 (0 - 1)))).core 0).rp 1 = 0 := by decide +kernel

/-- R118: LOOPN 24 bytes after its target. -/
theorem test_loop :
    let s (v : Word) : State := at0 (fun k => { k.ws 12 v with pc := 24 })
    ((after (.loopn { z with d := 12, imm := 0xFFFFA }) (s 2)).core 0).pc = 0 ∧ ((after (.loopn { z with d := 12, imm := 0xFFFFA }) (s 1)).core 0).pc = 32
    ∧ ((after (.loopn { z with d := 12, imm := 0xFFFFA }) (s 1)).core 0).rs 12 = 0 := by decide +kernel

theorem test_call_and_branch :
    ((after (.call { z with imm := 4 }) (at0 id)).core 0).pc = 16 ∧ ((after (.call { z with imm := 4 }) (at0 id)).core 0).rs 63 = 8
    ∧ ((after (.bi { z with a := 1 }) (tasking (·.ws 1 0x102))).core 0).pc = 0x4000
    ∧ ((after (.bi { z with a := 1 }) (tasking (·.ws 1 0x102))).core 0).tcause = 4 := by decide +kernel

/-- R151, R35: a trap enters handler mode at TVEC and saves its PC; RTE goes back. -/
theorem test_trap_and_return :
    let t := (after (.trap { z with imm := 0x77 }) (tasking (fun k => { k with pc := 0x100 }))).core 0
    t.handler = true ∧ t.pc = 0x4000 ∧ t.tepc = 0x100 ∧ t.tcause = 0x20 ∧ t.tval = 0x77
    ∧ ((after (.rte z) (at0 (fun k => { k with handler := true, tepc := 0x108 }))).core 0).pc = 0x108
    ∧ ((after (.rte z) (at0 (fun k => { k with handler := true, tepc := 0x108 }))).core 0).handler = false
    ∧ ((after (.rte z) (tasking id)).core 0).tcause = 9 := by decide +kernel

/-- R9: NaN and −0.0 compare false with +0.0; the guarded square writes 4.0 and 9.0 beside +0.0. -/
theorem test_vector_compare_and_square :
    let s := (at0 id).putLanes 0 1 4 (fun _ => true) [0xBFC00000, 0x40000000, 0x7FC00000, 0x40400000]
    let t := after (.vcmp { z with d := 1, a := 1, b := 2, f := 4, imm := 0xA0000 }) s
    ((t.core 0).rp 1).toNat % 2 ^ 16 = 0xF0F0
    ∧ (vLanes (after (.vmul { z with en := true, gp := 1, d := 3, a := 1, b := 1, imm := 0xA0000 }) t) 0 3 4).take 4
      = [0, 0x40800000, 0, 0x41100000] := by decide +kernel

/-- R57, R58: the logarithm of 1.5 and its L16 code. -/
theorem test_log_of : logOf (.fin false 3 (-1)) = 38336 := by decide +kernel

theorem test_vector_adds :
    let s := (at0 id).putLanes 0 1 1 (fun _ => true) [0xFF, 0x7F]
    let s := s.putLanes 0 2 1 (fun _ => true) [0x01, 0x01]
    (vLanes (after (.vadd { z with d := 3, a := 1, b := 2 }) s) 0 3 1).take 2 = [0x00, 0x80]
    ∧ (vLanes (after (.vadd { z with d := 3, a := 1, b := 2, f := 1 }) s) 0 3 1).take 2 = [0x00, 0x7F] := by decide +kernel

/-- R23: the two example tile views. -/
theorem test_view_words :
    (after (.cfgwView { z with a := 1, imm := 0x030 }) (at0 (·.ws 1 0x201FFE400000))).core 0 ≠ (at0 id).core 0
    ∧ ((after (.cfgwView { z with a := 1, imm := 0x030 }) (at0 (·.ws 1 0x201FFE400000))).core 0).handler = false
    ∧ ((after (.cfgwView { z with a := 1, imm := 0x031 }) (at0 (·.ws 1 0x403F3E402000))).core 0).handler = false := by decide +kernel

/-- R90, R114: the step after ADDI s11, s11, 8 was placed runs it. -/
theorem test_step_runs_the_placed_word :
    (match step (State.reset.withFetchWord 64 0x00000008140002CB) with
     | .next t => (t.core 0).rs 11 == 8 && (t.core 0).pc == 8
     | _ => false) = true
    ∧ decodeTableWord 64 0x00000008140002CB = some (.addi { z with d := 11, a := 11, imm := 8 })
    ∧ decodeTableWord 32 0x814B0007 = some (.patchWord { eng := 0, tix := 5, fsel := 5, go := true, val := 7 })
    ∧ decodeTableWord 32 0x08400001 = some (.bankLdr ⟨1, 0, 0, 1⟩) := by decide +kernel

/-- R16: a push by S to a queue that S produces adds a token, and a pop takes one. -/
theorem test_tokens :
    let s (n : Nat) : State := at0 (fun k => { k with tqcfg := 0x2E0D804A402, tok := k.tok.set 7 n })
    ((s 3).core 0).queuesOk .s 0 7 = true ∧ ((after (.tkpush { z with push := 7 }) (s 3)).core 0).tokens 7 = 4
    ∧ ((after (.tkpop { z with pop := 7 }) (s 3)).core 0).tokens 7 = 2 := by decide +kernel

/-- R234: the reference that KVADDR gives for position 66 of segment base 0x1120, DW 2, half V. -/
theorem test_kvaddr :
    let g : Word := BitVec.ofNat 64 (2 ^ 63 + 2 ^ 62 + 3 * 2 ^ 50 + 2 * 2 ^ 45 + 0x1120)
    ((after (.kvaddr { z with d := 20, a := 12, b := 2 }) (at0 (fun k => { k.ws 12 66 with kvgen := k.kvgen.set 2 g }))).core 0).rs 20
      = 0x8000000112100100 := by decide +kernel

/-! What each statement assumes is met by a concrete state and concrete operands, clause by clause. -/

theorem witness_IntegerResults :
    Executes (at0 (·.ws 1 5)) { z with d := 63, a := 1, b := 2, f := 2 } ∧ (Instr.add { z with f := 2 }).wellFormed = true
    ∧ (Instr.bfx { z with f := 1 }).wellFormed = true ∧ (Instr.sel { z with f := 15 }).wellFormed = true
    ∧ (Instr.clz z).wellFormed = true ∧ (Instr.popc z).wellFormed = true := by decide +kernel

theorem witness_ImmediateResults :
    Executes (at0 (·.ws 1 5)) { z with d := 63, a := 1, imm := 0xFFFFF } ∧ (Instr.addi { z with imm := 0xFFFFF }).wellFormed = true
    ∧ (Instr.srai { z with imm := 63 }).wellFormed = true ∧ (Instr.movi { z with imm := 0x80000 }).wellFormed = true
    ∧ (Instr.lui { z with a := 5, f := 1 }).wellFormed = true ∧ (Instr.lui { z with a := 0, f := 0 }).wellFormed = true := by
  decide +kernel

theorem witness_PredicateResults :
    (∀ f : Nat, f < 64 → Executes State.reset { z with d := 15, a := 15, b := 15, f := BitVec.ofNat 6 f })
    ∧ (Instr.cmp { z with d := 15, f := 22 }).wellFormed = true ∧ (Instr.cmpi { z with d := 15, f := 6 }).wellFormed = true
    ∧ (Instr.pmov { z with d := 15, a := 15, b := 15, f := 4 }).wellFormed = true
    ∧ (Instr.pmov { z with d := 15, a := 15, f := 5 }).wellFormed = true ∧ (Instr.pmov { z with d := 15, f := 7 }).wellFormed = true
    ∧ (Instr.pmov { z with d := 63, a := 15, f := 9 }).wellFormed = true
    ∧ (Instr.pmov { z with d := 15, a := 63, f := 10 }).wellFormed = true := by decide +kernel

theorem witness_AddressArithmetic :
    Executes (at0 (·.ws 1 5)) { z with d := 63, a := 1, b := 63, f := 7, imm := 0x80000 } ∧ (Instr.lea { z with f := 7 }).wellFormed = true
    ∧ (Instr.lea2 { z with f := 7 }).wellFormed = true := by decide +kernel

theorem witness_ControlResults :
    Executes (at0 (·.ws 1 0xFFFFFFFFFFFFFFFC)) { z with a := 1, imm := 0xFFFFF }
    ∧ ((at0 (·.ws 1 0xFFFFFFFFFFFFFFFC)).core 0).rs 1 % 4 = 0 ∧ Executes (at0 (·.ws 1 3)) { z with a := 1 }
    ∧ ((at0 (·.ws 1 3)).core 0).rs 1 % 4 ≠ 0 := by decide +kernel

theorem witness_WeakLoadsAndStores :
    Executes (ranged (·.ws 1 393208)) { z with d := 63, a := 1, b := 0, f := 19 }
    ∧ Reaches (ranged id) 2 393208 8 .w (.spad 0 393208) 1 0 ∧ Reaches (ranged id) 2 393207 8 .r (.spad 0 393207) 1 0
    ∧ Reaches (ranged id) 0 0xFFFFF8 8 .w (.ia 0xFFFFF8) 0 0 ∧ Reaches (ranged id) 0 0x1000001 4 .r (.ia 0x1000001) 1 0
    ∧ Reaches (ranged id) 1 393208 8 .w (.spad 0 393208) 1 0 ∧ Unsealed (ranged id) (.spad 0 393208) 8
    ∧ ((ranged id).core 0).stamps.length < 64 ∧ ((ranged id).core 0).sidelog.length < 32 := by decide +kernel

/-- A window of 100 bytes at VA 0: bytes within it, and a read that goes beyond its last byte. -/
theorem witness_WindowReads :
    let s := ranged (fun k => { k with win := k.win.set 7 (0, 0x8000000000000064) })
    (match windowPlan s 0 7 92 8 (List.range 8) with | .ok _ p _ x => p.length == 1 && !x | _ => false) = true
    ∧ (match windowPlan s 0 7 93 8 (List.range 8) with | .ok _ p _ x => p.length == 1 && x | _ => false) = true
    ∧ Executes s { z with b := 7, f := 3 } ∧ Executes s { z with f := 35 } ∧ (7 * 2 ^ 20 + 92 : Nat) < 2 ^ 23 := by
  decide +kernel

theorem witness_StrongLoadsAndStores :
    let s := ranged (·.ws 1 0xFFFFF8)
    Executes s { z with d := 63, a := 1, b := 0, f := 3 } ∧ Executes s { z with d := 63, a := 1, b := 1, f := 3 }
    ∧ Executes s { z with d := 63, a := 1, b := 5, f := 3 } ∧ Reaches s 0 0xFFFFF8 8 .r (.ia 0xFFFFF8) 0 0
    ∧ Reaches s 0 0xFFFFF8 8 .w (.ia 0xFFFFF8) 0 0 ∧ Unsealed s (.ia 0xFFFFF8) 8 ∧ fenceReady s 0 2 (s.core 0).seq = true
    ∧ fenceReady s 0 3 (s.core 0).seq = true ∧ (0xFFFFF9 : Nat) % 8 ≠ 0
    ∧ (s.core 0).stamps.length < 64 ∧ (s.core 0).sidelog.length < 32 := by decide +kernel

theorem witness_FullEmptyIssue :
    let s := ranged (fun k => (k.ws 1 393208).ws 2 16)
    isSpad (.spad 0 393208) = true ∧ Executes s { z with d := 15, a := 1, f := 19 } ∧ Reaches s 2 393208 8 .r (.spad 0 393208) 1 0
    ∧ Reaches s 2 393208 8 .w (.spad 0 393208) 1 0 ∧ (s.core 0).stamps.length < 64 ∧ (s.core 0).sidelog.length < 32
    ∧ Executes s { z with a := 1, b := 2, f := 16, imm := 0xFFFF8 } ∧ Executes s { z with a := 1, b := 3, f := 16 }
    ∧ byteAt s (s.core 0) 2 393200 0 .w false = .ok (.spad 0 393200) 1 0
    ∧ byteAt s (s.core 0) 2 393200 15 .w false = .ok (.spad 0 393215) 1 0 := by decide +kernel

theorem witness_UpdatesIssue :
    let s := ranged (·.ws 1 0xFFFFF8)
    Executes s { z with d := 12, a := 1, b := 10, f := 2 } ∧ Executes s { z with d := 12, a := 1, b := 0x11, f := 3 }
    ∧ Executes s { z with d := 12, a := 1, b := 0x31, f := 3 } ∧ Reaches s 0 0xFFFFF8 8 .rw (.ia 0xFFFFF8) 0 0
    ∧ Reaches s 0 0xFFFFF8 4 .rw (.ia 0xFFFFF8) 0 0 ∧ Unsealed s (.ia 0xFFFFF8) 8 ∧ (13 : Nat) ∉ (s.core 0).busyS
    ∧ fenceReady s 0 2 (s.core 0).seq = true ∧ fenceReady s 0 3 (s.core 0).seq = true
    ∧ Reaches s 2 393208 8 .rw (.spad 0 393208) 1 0 ∧ Unsealed s (.spad 0 393208) 8
    ∧ Reaches s 0 0x1FFFFFF 1 .r (.ia 0x1FFFFFF) 1 0 ∧ (s.core 0).stamps.length < 64 ∧ (s.core 0).sidelog.length < 32 := by
  decide +kernel

/-- An address that no range holds: PREF there asks for nothing. -/
theorem witness_PrefetchOfNothing : byteAt State.reset (State.reset.core 0) 0 0 0 .r false = .bad .rangeFault := by
  decide +kernel

theorem witness_SequentiallyConsistentIssue :
    let s := ranged (·.ws 1 0xFFFFF8)
    Executes s { z with d := 62, a := 1, b := 2, f := 3 } ∧ fenceReady s 0 3 (s.core 0).seq = true
    ∧ Reaches s 0 0xFFFFF8 8 .r (.ia 0xFFFFF8) 0 0 ∧ Reaches s 0 0xFFFFF8 8 .w (.ia 0xFFFFF8) 0 0
    ∧ Reaches s 0 0xFFFFF8 8 .rw (.ia 0xFFFFF8) 0 0 ∧ Unsealed s (.ia 0xFFFFF8) 8 ∧ (63 : Nat) ∉ (s.core 0).busyS
    ∧ (s.core 0).stamps.length < 64 ∧ (s.core 0).sidelog.length < 32 := by
  decide +kernel

/-- A core with a load under way: its fences do not retire. -/
def loading : State :=
  (ranged id).issueAccess 0 {} 0 (.sreg 5 3) 0 (List.replicate 8 0) [(⟨0, .ia 64, 8, 0, 0⟩, .load)]

/-- A device whose slice 31 has a staging part of one grain, and a sealed buffer there that an operation reads. -/
def staged (count : Nat) (f : Core → Core) : State :=
  { ranged f with stgb := State.reset.stgb.set 31 1, seals := [⟨31, 512, 512, coreCtx (State.reset.core 0), count, false, false⟩] }

theorem witness_FencesFlagsAndSeals :
    Executes loading { z with f := 0 } ∧ fenceReady loading 0 0 (loading.core 0).seq = false
    ∧ Executes (ranged id) { z with f := 3 } ∧ fenceReady (ranged id) 0 3 0 = true ∧ fenceReady (ranged id) 0 1 0 = true
    ∧ Executes (ranged (·.ws 1 393208)) { z with a := 1, f := 1 } ∧ Reaches (ranged id) 2 393208 8 .w (.spad 0 393208) 1 0
    ∧ Unsealed (ranged id) (.spad 0 393208) 8
    ∧ Executes (ranged (·.ws 1 0x8000000000000001)) { z with a := 1, f := 9, imm := 393208 }
    ∧ (let s := ranged (·.ws 1 0x8000000000000001)
       ∀ l, l < 64 → ((s.core 0).rs 1).getLsbD l = true →
        (s.core (s.byLid l)).fenced = false ∧ 393208 + 8 ≤ (s.core (s.byLid l)).pbsp.toNat * 16384) := by decide +kernel

theorem witness_Seals :
    let s := staged 0 (fun k => (k.ws 1 0x1F03FE00).ws 2 512)
    Executes s { z with a := 1, b := 2 } ∧ ((s.core 0).rs 1).toNat = 31 * 2 ^ 24 + 0x3FE00 ∧ 0x3FE00 + 512 ≤ stgSize s 31
    ∧ fenceReady s 0 2 (s.core 0).seq = true ∧ sealFree s 31 = true ∧ (∀ d ∈ s.seals, d.slice = 31 → d.off + d.len ≤ 0x3FE00)
    ∧ (∀ d ∈ s.seals, ¬ (d.slice = 31 ∧ d.off = 0x3FE00 ∧ d.ctx = coreCtx (s.core 0) ∧ d.staging = false))
    ∧ stgSize s 31 < 0x3FE00 + 1024 ∧ (∀ n : Nat, n < 2 → (((staged n id).seals.find? (fun d =>
      d.slice == 31 && d.off == 512 && d.ctx == coreCtx (s.core 0) && !d.staging)).map (·.count)) = some n) := by decide +kernel

theorem witness_TokensAndTime :
    let s := { at0 (·.ws 1 6) with gtc := 5 }
    let m := { at0 (fun k => { k with lastCopy := some (0, 5), cq := [blankOp] }) with gtc := 5 }
    Executes s { z with a := 1, imm := 7 } ∧ s.gtc.toNat < ((s.core 0).rs 1).toNat ∧ Executes s { z with a := 2 }
    ∧ ((s.core 0).rs 2).toNat ≤ s.gtc.toNat ∧ Executes m { z with f := 1 }
    ∧ (m.core 0).cq.any (fun o => o.id == 0) = true ∧ (m.core 0).lastCopy = some (0, 5) := by decide +kernel

theorem witness_SleepEnds :
    let s (t : Word) (f : BitVec 6) : State := { at0 (fun k => { k with
      wait := some (.sleep t { z with f := f }), lastCopy := some (0, 5), cq := [blankOp] }) with gtc := 5 }
    ((s 6 0).core 0).wait = some (.sleep 6 z) ∧ (s 6 0).gtc.toNat < 6 ∧ ((s 5 0).core 0).wait = some (.sleep 5 z)
    ∧ ((s 5 1).core 0).wait = some (.sleep 5 { z with f := 1 }) ∧ ((s 5 1).core 0).cq.any (fun o => o.id == 0) = true := by
  decide +kernel

theorem witness_HorizonReads : ∀ f : Nat, f ≤ 6 → Executes State.reset { z with d := 63, f := BitVec.ofNat 6 f } := by
  decide +kernel

theorem witness_ConfigurationWrites :
    (∀ n ∈ [0x060, 0x061, 0x020, 0x030, 0x03F, 0x040, 0x043, 0x050, 0x0A0, 0x0B0, 0x001, 0x002, 0x070],
      Executes (at0 (·.ws 1 255)) { z with a := 1, imm := BitVec.ofNat 20 n })
    ∧ (180224 : Nat) % 256 = 0 ∧ 180224 + 16384 ≤ (State.reset.core 0).pbreg.toNat * 16384 ∧ (180224 : Nat) < 2 ^ 19
    ∧ tviewOk (State.reset.core 0) 0 = true ∧ tviewOk (State.reset.core 0) 1 = false ∧ aviewOk (State.reset.core 0) 131072 = true
    ∧ tqcfgOk 0x2E0D804A402 = true ∧ (∀ q : BitVec 3, (State.reset.core 0).tokens q = 0) ∧ drained (State.reset.core 0) = true
    ∧ (let s := at0 (fun k => { k.ws 1 0x2E0D804A402 with cq := [blankOp] })
       Executes s { z with a := 1, imm := 0x050 } ∧ drained (s.core 0) = false ∧ ∀ q : BitVec 3, (s.core 0).tokens q = 0) := by
  decide +kernel

theorem witness_ConfigurationWritesOfHandlers :
    (∀ n ∈ [0x000, 0x090, 0x091, 0x092, 0x093, 0x0C0, 0x080, 0x087, 0x1087, 0x110, 0x117, 0x100, 0x1107, 0x2107, 0x3107, 0x010, 0x011, 0x012],
      Executes (handling 12) { z with a := 1, imm := BitVec.ofNat 20 n }) ∧ ((handling 12).core 0).handler = true
    ∧ (0xFFFFFFFFFFFF#64).toNat < 2 ^ 48 ∧ (511 : Nat) < 512 ∧ (0xF8000000FFFFFFFF#64).toNat / 2 ^ 40 % 2 ^ 19 = 0
    ∧ (0x80000000001FFFFF#64).toNat / 2 ^ 21 % 2 ^ 42 = 0 ∧ (0xFFFFE0FFFFFFFFFF#64).toNat / 2 ^ 40 % 32 = 0
    ∧ rangeWordOk 0 0xFFFFFFFFFF0000 = true ∧ rangeWordOk 1 0x10000 = true ∧ rangeWordOk 2 0xFFFFFFFFF0000 = true
    ∧ rangeWordOk 3 0xA0F = true ∧ drained ((handling 12).core 0) = true ∧ ((handling 12).core 0).landing = []
    ∧ ((handling 12).core 0).groups = [] ∧ poolOk 32 8 40 = true ∧ poolOk 8 1 64 = true ∧ poolOk 33 24 23 = false
    ∧ poolOk 12 24 45 = false := by decide +kernel

theorem witness_ConfigurationRefused :
    (∀ n ∈ [0x000, 0x090, 0x093, 0x080, 0x087, 0x100, 0x107, 0x110, 0x117, 0x010, 0x012], Executes State.reset { z with imm := BitVec.ofNat 20 n })
    ∧ (State.reset.core 0).handler = false ∧ (State.reset.core 0).rs 0 = 0 := by decide +kernel

theorem witness_PoolRecut : memWf (State.reset.writeMem (regionKey 0 5) [7]).mem = true := by decide +kernel

theorem witness_ConfigurationReads :
    ∀ n ∈ [0x000, 0x001, 0x002, 0x010, 0x012, 0x03F, 0x043, 0x087, 0x1087, 0x107, 0x3107, 0x117, 0x0C0, 0x003, 0xFFF],
      Executes State.reset { z with d := 63, imm := BitVec.ofNat 20 n } := by decide +kernel

theorem witness_Templates :
    let s := ranged (·.ws 1 0xFFFFE0)
    Executes s { z with a := 1, f := 0, imm := 0x3FF } ∧ fieldAt 0 1 = some (0, 7) ∧ fieldAt 4 17 = some (101, 1) ∧ fieldAt 4 18 = none
    ∧ fieldAt 5 1 = none ∧ (127 : Nat) < 2 ^ 7 ∧ 2 ^ 7 ≤ ((s.core 0).rs 1).toNat ∧ ((s.core 0).rs 1).toNat % 32 = 0
    ∧ Executes (ranged (·.ws 1 0x1F)) { z with a := 1 } ∧ (0x1F : Nat) % 32 ≠ 0
    ∧ Executes (ranged (·.ws 1 0x7F)) { z with a := 1, imm := 0x200 } ∧ Reaches s 0 0xFFFFE0 32 .r (.ia 0xFFFFE0) 0 0
    ∧ Reaches s 0 0xFFFFE0 32 .w (.ia 0xFFFFE0) 0 0 ∧ Unsealed s (.ia 0xFFFFE0) 32
    ∧ (let t := ranged (fun k => { k.ws 1 0x700020 with win := k.win.set 7 (0, 0x8000000000000064) })
       Executes t { z with a := 1, f := 32 } ∧ (match windowPlan t 0 7 32 32 (List.range 32) with
         | .ok _ p _ x => p.length != 0 && !x | _ => false) = true) := by decide +kernel

/-- Core 0 in cluster 0 with the matrix array leased to a position. -/
def leased (pos : BitVec 2) (a : Cluster) (f : Core → Core) : State := (at0 f).setCluster 0 { a with holder := some pos }

theorem witness_MatrixLease :
    let nb : Fields := { z with gs := true, gp := 15 }
    let mine := leased 0 Cluster.reset id
    let other := leased 3 Cluster.reset id
    Executes mine z ∧ isNb z = false ∧ (mine.cluster 0).holder = some (BitVec.ofNat 2 (positionOf 0)) ∧ clusterOf 0 = 0
    ∧ Executes other z ∧ (other.cluster 0).holder ≠ some (BitVec.ofNat 2 (positionOf 0)) ∧ Executes mine nb ∧ isNb nb = true
    ∧ Executes other nb ∧ (other.cluster 0).holder.isSome = true ∧ Executes State.reset { z with d := 3 }
    ∧ (State.reset.core 0).mq = [] ∧ granulePending (State.reset.core 0) 0 16384 = false
    ∧ granulePending ((at0 (fun k => { k with groups := [⟨0, 0, .region 0 [true], [], 0, 1, 0, false, false⟩] })).core 0) 0 16384 = true
    ∧ nextHolder State.reset 0 (some 0) = some (positionOf 0) ∧ isNb nb = true
    ∧ (let t := (State.reset.modCore (coreAt 0 1) (fun k => { k with wait := some .lease })).setCluster 0 { Cluster.reset with last := 0 }
       (t.cluster 0).holder = none ∧ nextHolder t 0 (some 0) ≠ some (positionOf 0)) := by decide +kernel

/-- Position 1 of cluster 0 waits for the array. -/
theorem witness_MatrixArbitration :
    let s := State.reset.modCore (coreAt 0 1) (fun k => { k with wait := some .lease })
    (s.cluster 0).holder = none ∧ requests s (coreAt 0 (((s.cluster 0).last.toNat + 1 + 1) % 4)) = true
    ∧ requests s (coreAt 0 (((s.cluster 0).last.toNat + 1 + 0) % 4)) = false ∧ 0 < s.clusters.size ∧ arrayBusy s 0 = false
    ∧ ((leased 3 Cluster.reset id).cluster 0).holder.isSome = true
    ∧ 64 ≤ ((leased 3 { Cluster.reset with cmds := 64 } id).cluster 0).cmds
    ∧ (let t := { leased 3 { Cluster.reset with idle := some 0 } id with gtc := 32 }
       (t.cluster 0).idle = some 0 ∧ 32 ≤ t.gtc.toNat - 0 ∧ t.gtc.toNat - (t.cluster 0).grantTick.toNat < 2048 ∧ (t.cluster 0).cmds < 64)
    ∧ 2048 ≤ ({ leased 3 Cluster.reset id with gtc := 2048 }).gtc.toNat - 0
    ∧ (let t := { leased 3 { Cluster.reset with cmds := 63, idle := some 0 } id with gtc := 31 }
       (t.cluster 0).cmds < 64 ∧ t.gtc.toNat - (t.cluster 0).grantTick.toNat < 2048 ∧ (t.cluster 0).idle = some 0 ∧ t.gtc.toNat - 0 < 32) := by
  decide +kernel

theorem witness_ArrayStatus : Executes (leased 0 Cluster.reset id) { z with d := 63 } := by decide +kernel

theorem witness_TrapEntry :
    ((tasking id).core 0).handler = false ∧ ((tasking id).core 0).tvec ≠ 0 ∧ Executes (tasking id) { z with imm := 0xFFFFF }
    ∧ Executes (handling 0) z ∧ ((handling 0).core 0).handler = true
    ∧ (let s := tasking (fun k => { k with deferred := [⟨.missedPromise, 5, false⟩] })
       (s.core 0).deferred = [⟨.missedPromise, 5, false⟩] ∧ (s.core 0).iter.isSome = true ∧ (s.core 0).handler = false
       ∧ (s.core 0).wait = none ∧ (s.core 0).vq = [] ∧ (s.core 0).tvec ≠ 0)
    ∧ Cause.illOp ≠ .phaseExhausted ∧ (State.reset.core 0).tvec = 0 := by decide +kernel

/-- Core 0 in a phase-protected iteration with a PHSTATE. -/
def phased (p : Word) (f : Core → Core) : State := tasking (fun k => f { k with phstate := p })

theorem witness_PhasesAndCancellation :
    Executes (tasking id) { z with d := 15, f := 1 } ∧ Executes (tasking id) z ∧ isCancelled ((tasking id).core 0) = false
    ∧ isCancelled ((at0 (fun k => { k with iter := some { iter0 none with cancelled := true } })).core 0) = true
    ∧ Executes (at0 (fun k => { k with iter := some { iter0 none with cancelled := true } })) z := by decide +kernel

/-- The two halves end at the end of the scratchpad. -/
theorem witness_PhaseBegins :
    let s := tasking (fun k => (k.ws 1 392704).ws 2 256)
    Executes s { z with a := 1, b := 2 }
    ∧ drained ((tasking (fun k => { (k.ws 1 392704).ws 2 256 with cq := [blankOp] })).core 0) = false ∧ (s.core 0).iter = some (iter0 none) ∧ (s.core 0).phstate.getLsbD 63 = false
    ∧ 392704 + 2 * 256 ≤ spadSize (s.core 0) ∧ (392704 : Nat) % 256 = 0 ∧ drained (s.core 0) = true
    ∧ spadSize (s.core 0) < 392704 + 2 * 512 := by decide +kernel

theorem witness_PhaseCommits :
    Executes (phased 0 id) z ∧ ((phased 0 id).core 0).wait = none
    ∧ (∀ p ∈ [0x8000000000000000, 0xD000000000000000, 0xB000000000000000],
        let s := phased (BitVec.ofNat 64 p) id
        Executes s z ∧ (s.core 0).phstate.getLsbD 63 = true ∧ drained (s.core 0) = true)
    ∧ (0x8000000000000000#64).getLsbD 60 = false ∧ (0xD000000000000000#64).getLsbD 60 = true
    ∧ (0xD000000000000000#64).toNat / 2 ^ 61 % 4 = 2 ∧ (0xB000000000000000#64).toNat / 2 ^ 61 % 4 = 1
    ∧ (((phased 0xB000000000000000 id).core 0).phsnap[0]?).getD none = none
    ∧ (((phased 0xB000000000000000 (fun k => { k with phsnap := #v[some blankOp, none] })).core 0).phsnap[0]?).getD none = some blankOp
    ∧ Executes (phased 0xB000000000000000 (fun k => { k with phsnap := #v[some blankOp, none] })) z := by decide +kernel

/-- A node resident with a counter, and a task that names it. -/
def spawning (counter : Nat) (v : Word) : State :=
  (tasking (·.ws 1 v)).setNode 4095 (some { node0 with counter := counter })

theorem witness_TaskRequests :
    (∀ n : Nat, n < 3 → Executes (spawning n 4095) { z with d := 63, a := 1 } ∧ isCancelled ((spawning n 4095).core 0) = false
      ∧ fenceReady (spawning n 4095) 0 2 ((spawning n 4095).core 0).seq = true
      ∧ (spawning n 4095).node 4095 = some { node0 with counter := n })
    ∧ node0.ctx = coreCtx ((spawning 0 0).core 0) ∧ (spawning 1 0).node 0 = none ∧ 4096 ≤ (0x1000#64).toNat
    ∧ Executes (spawning 1 4096) { z with a := 1 }
    ∧ (let s := (tasking (·.ws 1 9)).setNode 7 (some { node0 with ctx := 15 })
       s.node 7 = some { node0 with ctx := 15 } ∧ node0.ctx ≠ 15 ∧ Executes s { z with a := 2 })
    ∧ settled ((tasking id).core 0) = true ∧ ((tasking id).core 0).migReq = false ∧ ((tasking id).core 0).preReq = none := by
  decide +kernel

theorem witness_KillAndBallot :
    (let s := { (tasking (·.ws 1 9)).setNode 9 (some node0) with ctxs := State.reset.ctxs.set 0 { Ctx.reset with first := 9, count := 1 } }
     Executes s { z with a := 1 } ∧ ((s.ctxs[0]?.getD Ctx.reset).first ≤ 9 ∧ 9 < (s.ctxs[0]?.getD Ctx.reset).first + (s.ctxs[0]?.getD Ctx.reset).count)
     ∧ (s.node 9).isSome = true ∧ (s.node 8).isSome = false ∧ (s.ctxs[0]?.getD Ctx.reset).first > 8)
    ∧ (let s := { tasking (·.ws 1 9) with ctxs := State.reset.ctxs.set 0 { Ctx.reset with first := 9, count := 1 } }
       s.node 9 = none ∧ Executes s { z with a := 1 })
    ∧ Executes (tasking (·.ws 1 63)) { z with a := 1, f := 1 } ∧ (tasking (·.ws 1 63)).ballot 63 = none
    ∧ (let s (posted quorum : Nat) (shut : Bool) : State :=
         (at0 (fun k => { k.ws 1 7 with iter := some (iter0 (some (63, 0))) })).setBallot 63 (some { ballot0 posted quorum with closed := shut })
       (∀ p : Nat, p < 3 → Executes (s p 2 false) { z with d := 63, a := 1 } ∧ fenceReady (s p 2 false) 0 2 ((s p 2 false).core 0).seq = true)
       ∧ (s 0 2 false).ballot 63 = some (ballot0 0 2) ∧ ((s 0 2 false).core 0).iter.bind (·.sib) = some (63, 0)
       ∧ (ballot0 1 2).posted.testBit 0 = true ∧ (ballot0 2 2).posted.testBit 0 = false
       ∧ 2 ≤ Ballot.count { ballot0 2 2 with posted := 3 } 7 ∧ Ballot.count { ballot0 0 2 with posted := 1 } 7 < 2
       ∧ (1 : Nat) % 2 ^ 2 ≠ 2 ^ 2 - 1 ∧ Ballot.count { ballot0 2 3 with posted := 3 } 7 < 3 ∧ (3 : Nat) % 2 ^ 2 = 2 ^ 2 - 1
       ∧ (s 1 2 true).ballot 63 = some { ballot0 1 2 with closed := true }) := by decide +kernel

theorem witness_EndRetires :
    Executes (tasking id) z ∧ isCancelled ((tasking id).core 0) = false ∧ settled ((tasking id).core 0) = true
    ∧ trapWaits ((tasking id).core 0) = false ∧ fenceReady (tasking id) 0 4 ((tasking id).core 0).seq = true
    ∧ ((tasking id).core 0).phstate.getLsbD 63 = false
    ∧ (let s := phased 0x8000000000000000 id; Executes s z ∧ (s.core 0).phstate.getLsbD 63 = true)
    ∧ ((tasking id).core 0).iter.isSome = true := by decide +kernel

/-- A task of context 0 whose table has 16 objects, with object 15 and the null forwarder 1 as given, and h1 a reference. -/
def heaped (h : Word) (o : Obj) : State :=
  { tasking (fun k => (k.wh 1 h).ws 2 0) with
    ctxs := State.reset.ctxs.set 0 { Ctx.reset with otlimit := 16 }, heap := { objs := [(1, o), (15, o)], slots := [] } }

/-- An object of one 512-byte unit at IA 0x200. -/
def obj0 (arena : Bool) : Obj :=
  { st := .present, size := 1, base := 1, busy := false, prog := 0, newBase := 0, owner := 0, arena := arena, target := 0, rc := 1,
    pin := 0 }

theorem witness_HeapAccesses :
    let s := heaped 0x8000000000F00000 (obj0 false)
    Executes s { z with d := 1, a := 1, f := 3, imm := 504 } ∧ ((s.core 0).rh 1).toNat / 2 ^ 60 = 8
    ∧ 15 < otLimit s (coreCtx (s.core 0)) ∧ (s.obj (objKey 0 15)).st = .present ∧ (s.obj (objKey 0 15)).arena = false
    ∧ 504 + 8 ≤ 512 * (s.obj (objKey 0 15)).size ∧ (504 : Nat) % 8 = 0 ∧ (s.core 0).wait = none
    ∧ Executes s { z with d := 1, a := 1, f := 3, imm := 505 } ∧ 512 * (s.obj (objKey 0 15)).size < 505 + 8
    ∧ Executes (heaped 0 (obj0 false)) { z with d := 1, a := 1, f := 3 } ∧ ((heaped 0 (obj0 false)).core 0).rh 1 = 0
    ∧ Executes (heaped 0xA000000000000000 (obj0 false)) { z with a := 1 }
    ∧ (let t := heaped 0x8000000000F00000 (obj0 true)
       (t.obj (objKey 0 15)).arena = true ∧ (t.slot (t.obj (objKey 0 15)).owner).st ≠ .prompt
       ∧ Executes t { z with d := 1, a := 1, f := 3 }) := by decide +kernel

theorem witness_ReferenceLoaded :
    (let s (v : Word) (o : Obj) : State := (heaped 0 o).modCore 0 (fun k => { k with wait := some (.refDone v (.ia 512)) })
     let t := s 0x8000000000F00000 (obj0 false)
     let u := s 0x8000000000F00000 { obj0 false with st := .forwarded, target := 1 }
     (t.core 0).wait = some (.refDone 0x8000000000F00000 (.ia 512))
     ∧ (0x8000000000F00000#64).toNat / 2 ^ 60 = 8 ∧ (0x8000000000F00000#64).toNat / 2 ^ 20 % 2 ^ 40 < otLimit t (coreCtx (t.core 0))
     ∧ (t.obj (objKey (coreCtx (t.core 0)) 15)).st ≠ .forwarded ∧ (u.obj (objKey (coreCtx (u.core 0)) 15)).st = .forwarded
     ∧ (u.core 0).stamps.length < 64 ∧ (u.core 0).sidelog.length < 32
     ∧ ((s 0x9000000000F00000 (obj0 false)).core 0).wait = some (.refDone 0x9000000000F00000 (.ia 512))
     ∧ (0x9000000000F00000#64).toNat / 2 ^ 60 = 9 ∧ ((s 0 (obj0 false)).core 0).wait = some (.refDone 0 (.ia 512))) := by decide +kernel

/-- A reference access to a chunk that is being copied. -/
theorem witness_ReferenceWaits :
    let s := heaped 0x8000000000F00000 { obj0 false with st := .relocating, busy := true }
    let w : Fields := { z with d := 1, a := 1, f := 3 }
    Executes s w [w.d, w.b] ∧ barrier s (coreCtx (s.core 0)) ((s.core 0).rh 1) (heapOfs (s.core 0) w ((s.core 0).rh 1)) 8 1 false = .ok (objKey 0 15)
    ∧ heapBytes s (objKey 0 15) (heapOfs (s.core 0) w ((s.core 0).rh 1)) 8 = none := by decide +kernel

theorem witness_ReferencePins :
    (∀ n ∈ [65534, 65535], let s := heaped 0x8000000000F001FF { obj0 false with pin := n }
      Executes s { z with d := 5, a := 1 } ∧ 15 < otLimit s (coreCtx (s.core 0)) ∧ (s.obj (objKey (coreCtx (s.core 0)) 15)).pin = n
      ∧ 0x1FF < 512 * (s.obj (objKey (coreCtx (s.core 0)) 15)).size)
    ∧ (∀ n : Nat, n < 3 → let s := heaped 0x9000000000F001FF { obj0 true with pin := n, rc := 0 }
      Executes s { z with d := 5, a := 1 } ∧ (s.obj (objKey (coreCtx (s.core 0)) 15)).pin = n
      ∧ (s.obj (objKey (coreCtx (s.core 0)) 15)).arena = true ∧ (s.obj (objKey (coreCtx (s.core 0)) 15)).rc = 0
      ∧ (s.obj (objKey (coreCtx (s.core 0)) 15)).st ≠ .forwarded)
    ∧ (0x9000000000F001FF#64).toNat / 2 ^ 60 = 9 ∧ (0x8000000000F001FF#64).toNat / 2 ^ 60 ≠ 9 := by decide +kernel

/-- A slot of context 0 in GEN with two layers and two head groups of the given bucket. -/
def slot0 (bkt : Nat) : SlotDesc :=
  { st := .gen, bkt := bkt, dw := 4, ctx := 0, nlm1 := 1, nhgm1 := 1, idbase := 16, hlen := 0, len := 0, appends := [], awaited := [],
    floor := 0 }

/-- A task with two scalars, where slot 1023 is open. -/
def slotted (a b : Word) : State :=
  { tasking (fun k => (k.ws 1 a).ws 2 b) with heap := { objs := [], slots := [(1023, slot0 3)] } }

theorem witness_Generators :
    (let s := slotted 1023 0x100101
     Executes s { z with d := 7, a := 1, b := 2 } ∧ (s.slot 1023).st ≠ .free ∧ (s.slot 1023).ctx = coreCtx (s.core 0)
     ∧ (0x100101 : Nat) / 2 ^ 8 % 4096 ≤ (s.slot 1023).nlm1 ∧ (0x100101 : Nat) / 2 ^ 20 % 256 ≤ (s.slot 1023).nhgm1
     ∧ (0x100101 : Nat) / 2 % 128 = 0 ∧ (s.slot 1022).st = .free)
    ∧ Executes (slotted 1024 0) { z with a := 1, b := 2 } ∧ Executes (slotted 1022 0) { z with a := 1, b := 2 }
    ∧ (let s := (slotted 1048575 0).modCore 0 (fun k => { k with kvgen := k.kvgen.set 7 0xB000000000000000 })
       Executes s { z with d := 5, a := 1, b := 7 } ∧ (s.core 0).kvgen[7].getLsbD 63 = true
       ∧ 1048575 < 64 * (32 * 8 ^ ((s.core 0).kvgen[7].toNat / 2 ^ 60 % 4)) ∧ (s.core 0).kvgen[0].getLsbD 63 = false)
    ∧ ¬ 1048576 < 64 * (32 * 8 ^ 3) := by decide +kernel

/-- An integer type, a float type and a record of fields that start in V. -/
theorem witness_LaneResults :
    (let w : Fields := { z with en := true, gp := 15, d := 63, a := 62, b := 61, imm := 0xA0000 }
     ∀ i ∈ [Instr.vadd w, .vsub w, .vmul w, .vfma w, .vmin w, .vmax w, .vun w, .vlog w, .vsh w, .vsel w, .vbcast w, .viota w, .vrand w],
      VStarts State.reset i w)
    ∧ VStarts State.reset (.vsh { z with d := 63, a := 1, b := 2, imm := 0x3001F, f := 4 })
        { z with d := 63, a := 1, b := 2, imm := 0x3001F, f := 4 } := by decide +kernel

theorem witness_LaneMoves :
    (let w : Fields := { z with d := 5, a := 6, imm := 0x0001F, f := 0 }
     VStarts State.reset (.vcmp w) w ∧ VStarts State.reset (.vext w) w ∧ VStarts State.reset (.vins w) w)
    ∧ laneOn (State.reset.core 0) { z with imm := 31 } 1 31 = true
    ∧ laneOn (State.reset.core 0) { z with en := true, gs := false, imm := 31 } 1 31 = false
    ∧ VStarts State.reset (.vext { z with en := true, gs := false, imm := 31 }) { z with en := true, gs := false, imm := 31 }
    ∧ (∀ n ∈ [255, 256], let s := tasking (fun k => k.ws 2 (BitVec.ofNat 64 n))
       VStarts s (.vext { z with b := 2, f := 1 }) { z with b := 2, f := 1 } ∧ VStarts s (.vins { z with b := 2, f := 1 }) { z with b := 2, f := 1 }
       ∧ ((s.core 0).rs 2).toNat = n ∧ (s.core 0).handler = false ∧ (s.core 0).tvec ≠ 0)
    ∧ lanes 0 = 256 := by decide +kernel

theorem witness_CrossLaneResults :
    (∀ f ∈ List.range 6, ∀ b ∈ [0, 1], let w : Fields := { z with d := 63, a := 62, b := 61, f := BitVec.ofNat 6 f, imm := BitVec.ofNat 20 (0x90000 + b) }
      VStarts State.reset (.vcvt w) w ∧ VStarts State.reset (.vred w) w ∧ VStarts State.reset (.vscan w) w ∧ VStarts State.reset (.vperm w) w)
    ∧ (∀ f ∈ List.range 5, let w : Fields := { z with d := 15, a := 15, b := 15, f := BitVec.ofNat 6 f, imm := 0x30000 }
      VStarts State.reset (.vpm w) w) := by decide +kernel

theorem witness_RecordsAndDotProducts :
    (let w : Fields := { z with en := true, imm := 0xA0000 }
     VStarts State.reset (.vqnt w) w ∧ VStarts State.reset (.vdqnt w) w) ∧ ((State.reset.core 0).rp 0).getLsbD 0 = false
    ∧ (let w : Fields := { z with d := 8, a := 2, imm := 0xA4310 }; VStarts State.reset (.vqnt w) w ∧ VStarts State.reset (.vdqnt w) w)
    ∧ (∀ fmt : Nat, fmt < 6 → fmt = 5 ∨ recBad fmt (List.replicate 66 0) = false)
    ∧ recBad 5 ([0, 0xFF, 0xFF, 0, 0] ++ List.replicate 12 0) = false
    ∧ (∀ f ∈ List.range 5, let w : Fields := { z with d := 8, a := 2, f := BitVec.ofNat 6 f, imm := 0xA0040 }
       VStarts State.reset (.vlogc w) w ∧ VStarts State.reset (.vdot w) w ∧ VStarts State.reset (.vtopk w) w) := by decide +kernel

theorem witness_VectorMemory :
    let s := ranged (·.ws 1 0xFFFF00)
    let w : Fields := { z with d := 63, a := 1 }
    VStarts s (.vld w) w ∧ VStarts s (.vst w) w
    ∧ (∀ i ∈ List.range 256, byteAt s (s.core 0) 0 0xFFFF00 i .r false = .ok (.ia (0xFFFF00 + i)) 0 0)
    ∧ (∀ i ∈ List.range 256, byteAt s (s.core 0) 0 0xFFFF00 i .w false = .ok (.ia (0xFFFF00 + i)) 0 0
        ∧ sealedByte s (.ia (0xFFFF00 + i)) = false)
    ∧ (s.core 0).stamps.length < 64 ∧ (s.core 0).sidelog.length < 32
    ∧ Reaches s 0 0xFFFF00 8 .r (.ia 0xFFFF00) 0 0 ∧ Reaches s 0 0xFFFF00 8 .w (.ia 0xFFFF00) 0 0 ∧ Unsealed s (.ia 0xFFFF00) 8
    ∧ (List.range (256 / 8)).all (fun j => (vLanes s 0 5 8).getD j 0 == 0) = true
    ∧ (let g : Fields := { z with d := 63, a := 1, b := 5, f := 3 }; VStarts s (.vldg g) g ∧ VStarts s (.vsts g) g) := by decide +kernel

theorem witness_VectorWindow :
    let s := ranged (fun k => { k.ws 1 0x700000 with win := k.win.set 7 (0, 0x8000000000000064) })
    let w : Fields := { z with d := 63, a := 1, f := 32 }
    VStarts s (.vld w) w ∧ (0x700000 : Nat) < 2 ^ 23 ∧ fHi w = 4
    ∧ (match windowPlan s 0 7 0 256 (List.range 256) with | .ok .. => true | _ => false) = true := by decide +kernel

/-- The last 256 bytes of the scratchpad, every word of it selected, and none. -/
theorem witness_FullEmptyVectors :
    let s := ranged (·.ws 1 392960)
    (let w : Fields := { z with d := 63, a := 1, f := 16 }
     VStarts s (.vldf w) w ∧ VStarts s (.vste w) w ∧ wordMask (s.core 0) w ≠ 0
     ∧ checkAccess s 0 (fHi w) 392960 (List.range 256) .r ≠ .bad .rangeFault
     ∧ Reaches s 2 392960 256 .r (.spad 0 392960) 1 0 ∧ Reaches s 2 392960 256 .w (.spad 0 392960) 1 0)
    ∧ (let w : Fields := { z with en := true, d := 63, a := 1, f := 16, gp := 3 }
       VStarts s (.vldf w) w ∧ VStarts s (.vste w) w ∧ wordMask (s.core 0) w = 0) := by decide +kernel

theorem witness_Landing :
    let l : Land := { off := 256, data := [1, 2], mask := [true, false], w := 0, more := false, vec := true, push := 1, op := 0 }
    let s := at0 (fun k => { k with landing := List.replicate 8 l })
    (s.core 0).landing[7]? = some l ∧ memWf s.mem = true ∧ l.push ≠ 0 := by decide +kernel

theorem witness_IntegerLanes : (7 : Nat) < 8 ∧ 2 ^ 64 - 1 < 2 ^ (8 * etWidth 7) ∧ 8 * etWidth 7 ≤ 64 ∧ 63 < 8 * etWidth 7 := by decide +kernel

theorem witness_VectorWrite :
    memWf State.reset.mem = true ∧ 8 ∈ [1, 2, 4, 8] ∧ (∀ x ∈ [2 ^ 64 - 1], x < 2 ^ (8 * 8)) := by decide +kernel

theorem witness_PatchWords :
    let s := State.reset
    (s.core 0).vq = [] ∧ (s.core 0).busyS = [] ∧ patchOk { eng := 4, tix := 63, fsel := 31, go := false, val := 0 } = false
    ∧ patchOk { eng := 4, tix := 63, fsel := 17, go := true, val := 1 } = true ∧ opkOk 4 (opk (amend 0 4 1 5)) = false
    ∧ opkOk 4 (opk (amend 0 4 1 4)) = true ∧ headerOk (amend 0 4 1 4) = true ∧ queueRoom (s.core 0) 4 = true
    ∧ patchOk { eng := 4, tix := 63, fsel := 1, go := true, val := 4 } = true
    ∧ (let t := s.modCore 0 (fun k => { k with tmpl := [(256, BitVec.ofNat 256 (2 ^ 31 + 4))] })
       opkOk 4 (opk ((tabGet (t.core 0).tmpl 256).getD 0)) = true ∧ headerOk ((tabGet (t.core 0).tmpl 256).getD 0) = false) := by
  decide +kernel

theorem witness_MatrixProducts :
    let o := { opOf 1 1 [(8, 0)] [] with views := [0, 0xFC0000000, 0] }
    Running (withM o id) 0 .m 1 o ∧ memWf (withM o id).mem = true ∧ o.mN ≤ 64 ∧ o.prog < o.mG
    ∧ (let q := { o with prog := 1 }
       Running (withM q id) 0 .m 1 q ∧ q.mG ≤ q.prog ∧ bankAt (withM q id) 0 q q.lanternAt.1 q.lanternAt.2 = q.cap.getD 0 0)
    ∧ (let q := { o with prog := 1, cap := [1] }
       Running (withM q id) 0 .m 1 q ∧ bankAt (withM q id) 0 q q.lanternAt.1 q.lanternAt.2 ≠ q.cap.getD 0 0 ∧ q.lseed.getLsbD 16 = false) := by
  decide +kernel

theorem witness_MatrixChecks :
    (∀ kind ∈ [2, 3, 4], let o := { opOf 1 kind [] [] with views := [0, 0, 0x100000] }
      Running (withM o id) 0 .m kind o ∧ memWf (withM o id).mem = true)
    ∧ (opOf 1 4 [(17, 1)] []).fld .m 17 = 1 ∧ (opOf 1 4 [] []).fld .m 17 ≠ 1 := by decide +kernel

theorem witness_BulkCopySteps :
    (∀ x ∈ [(1, [(9, 1)]), (8, [(9, 65535)]), (9, [(9, 64)])], let o := opOf 2 x.1 x.2 []
      Running (withC o id) 0 .c x.1 o ∧ o.fld .c 14 = 0 ∧ o.buf.length < o.len .c ∧ o.fm .c ≠ 2)
    ∧ (let o := opOf 4 1 [(9, 1)] []; Running (withX o id) 0 .x 1 o ∧ o.buf.length < o.len .x)
    ∧ (let o := { opOf 2 1 [(9, 1)] [] with buf := [7] }; Running (withC o id) 0 .c 1 o ∧ o.len .c ≤ o.buf.length ∧ o.prog < o.len .c)
    ∧ (let o := { opOf 2 1 [(9, 1)] [] with buf := [7], prog := 1 }; Running (withC o id) 0 .c 1 o ∧ o.len .c ≤ o.prog)
    ∧ (let o := { opOf 2 1 [(8, 1), (9, 8), (11, 2)] [(6, 393208)] with buf := List.replicate 8 0, prog := 8, stamps := ⟨0, 0, 5, 5⟩ }
       let s (n : Nat) : State := { withC o id with gtc := BitVec.ofNat 64 n }
       Running (s 4) 0 .c 1 o ∧ Running (s 5) 0 .c 1 o ∧ o.fm .c = 2 ∧ o.owed = 0 ∧ (s 4).gtc.toNat < o.stamps.device.toNat
       ∧ o.stamps.device.toNat ≤ (s 5).gtc.toNat ∧ ((s 5).core 0).landing = [] ∧ isMoving (s 5) (.spad 0 393208) = false
       ∧ engAt (s 5) ((s 5).core 0) (o.dsp .c) (w64 (sentinelAddr .c o)) 0 .w = .mem (.spad 0 393208) 1 0)
    ∧ (let o := { opOf 2 1 [(9, 8), (11, 2)] [] with buf := List.replicate 8 0, prog := 8, owed := 1 }
       Running (withC o id) 0 .c 1 o ∧ o.fm .c = 2 ∧ o.owed ≠ 0) := by
  decide +kernel

/-- The last 32 bytes of the register region, to its first. -/
theorem witness_CopyInRegion :
    let o := opOf 2 1 [(7, 5), (8, 5), (9, 32)] [(5, 196576), (6, 0)]
    let s := withC o id
    Running s 0 .c 1 o ∧ o.fld .c 14 = 0 ∧ o.fld .c 7 = 5 ∧ o.fld .c 8 = 5 ∧ o.fm .c = 0 ∧ o.buf = [] ∧ (s.core 0).landing = []
    ∧ (s.core 0).iter.bind (·.sib) = none ∧ (s.core 0).cq = [o] ∧ 0 < o.len .c ∧ (o.reg 5).toNat % 32 + o.len .c ≤ 32
    ∧ (o.reg 5).toNat + o.len .c ≤ regionSize (s.core 0) ∧ (o.reg 6).toNat + o.len .c ≤ regionSize (s.core 0)
    ∧ regionSize (s.core 0) ≤ 2 ^ 19 := by decide +kernel

theorem witness_ElementCopySteps :
    (∀ x ∈ [(1, [(9, 4), (14, 1)]), (2, []), (3, [(9, 1), (13, 4)]), (4, [(9, 1), (13, 4)]), (6, [(16, 1), (17, 1), (20, 2)])],
      let o := { opOf 2 x.1 x.2 [] with cap := [1, 1, 1, 1] }
      Running (withC o id) 0 .c x.1 o ∧ o.prog < elemCount .c o)
    ∧ (opOf 2 1 [(14, 1)] []).fld .c 14 ≠ 0 ∧ (opOf 2 6 [] []).fld .c 21 ≠ 2
    ∧ (let o := opOf 4 3 [(9, 1), (13, 4)] []
       Running (withX o id) 0 .x 3 o ∧ o.prog < elemCount .x o ∧ o.buf.length < (elemAt .x o o.prog).ss)
    ∧ (let o := { opOf 4 3 [(9, 1), (13, 4)] [] with buf := List.replicate 4 0 }
       Running (withX o id) 0 .x 3 o ∧ (elemAt .x o o.prog).ss ≤ o.buf.length)
    ∧ (let o := opOf 4 3 [] []; Running (withX o id) 0 .x 3 o ∧ elemCount .x o ≤ o.prog ∧ o.fm .x ≠ 2) := by decide +kernel

theorem witness_FillAndMulticast :
    (let o := opOf 2 5 [(9, 1)] []; Running (withC o id) 0 .c 5 o ∧ o.prog < o.len .c ∧ o.fm .c ≠ 2)
    ∧ (let o := opOf 2 5 [] []; Running (withC o id) 0 .c 5 o ∧ o.len .c ≤ o.prog)
    ∧ (let o := opOf 2 7 [(9, 8)] [(12, 0x8000000000000000), (6, 393208)]
       Running (withC o id) 0 .c 7 o ∧ o.buf.length < o.len .c)
    ∧ (let o := { opOf 2 7 [(9, 8)] [(12, 0x8000000000000000), (6, 393208)] with buf := List.replicate 8 0 }
       Running (withC o id) 0 .c 7 o ∧ o.len .c ≤ o.buf.length ∧ (maskCores (o.reg 12)).find? (fun l => !o.aux.testBit l) = some 63
       ∧ o.prog < o.len .c ∧ mcFails (withC o id) 63 393208 8 = none ∧ mcFails (withC o id) 63 393209 8 = some 8)
    ∧ (let o := { opOf 2 7 [(9, 8)] [(12, 0x8000000000000000), (6, 393208)] with buf := List.replicate 8 0, prog := 8 }
       Running (withC o id) 0 .c 7 o ∧ o.len .c ≤ o.prog ∧ 0 < o.prog)
    ∧ (let o := { opOf 2 7 [(9, 8)] [(12, 0x8000000000000000), (6, 393208)] with buf := List.replicate 8 0, aux := 2 ^ 63 }
       Running (withC o id) 0 .c 7 o ∧ (∀ l : Nat, l < 64 → (o.reg 12).getLsbD l = true → o.aux.testBit l = true) ∧ o.fm .c ≠ 2) := by
  decide +kernel

theorem witness_ChainsAndSignals :
    (let o := { opOf 2 10 [] [] with chain := some (0, 1, 0) }
     let s := withC o id
     let t := { s with mem := memWrite [] (spadKey s 0 0) [5] }
     (s.core 0).headOp .c = some o ∧ o.started = true ∧ o.kind = 10 ∧ descEntry o (s.readMem (spadKey s 0 0) 64) = none
     ∧ (descEntry o (t.readMem (spadKey t 0 0) 64)).isSome = true)
    ∧ (let o := opOf 4 2 [(9, 8), (15, 1)] []
       Running (withX o id) 0 .x 2 o ∧ o.prog < elemCount .x o ∧ o.buf.length < xredSize (o.fld .x 15))
    ∧ (let o := { opOf 4 2 [(9, 8), (15, 1), (8, 5)] [] with buf := List.replicate 8 0 }
       Running (withX o id) 0 .x 2 o ∧ xredSize (o.fld .x 15) ≤ o.buf.length
       ∧ engAt (withX o id) ((withX o id).core 0) (o.dsp .x) (elemAt .x o o.prog).dst 0 .rw = .region 0)
    ∧ (let o := opOf 4 2 [(15, 1)] []; Running (withX o id) 0 .x 2 o ∧ elemCount .x o ≤ o.prog)
    ∧ (let o := opOf 4 4 [(8, 1)] [(6, 393208)]
       let s := withX o id
       Running s 0 .x 4 o ∧ (s.core 0).xfloor.toNat ≤ s.gtc.toNat ∧ o.fld .x 17 = 0
       ∧ engAt s (s.core 0) (o.dsp .x) (o.reg 6) 0 .w = .mem (.spad 0 393208) 1 0 ∧ (spadPlace s 0 393208 8).isSome = true
       ∧ soWaits s 0 o 1 = false ∧ homeBusy s (.spad 0 393208) 8 = false
       ∧ (match writeAt (s.owe 0 .x o.id 1) { whoOp s 0 .x o with strong := true } (.spad 0 393208) 1 0 s.gtc
            (leBytes 8 (o.reg 5).toNat) with | .done .. => true | _ => false) = true
       ∧ (let t := withX o (fun k => { k with xfloor := 5 }); Running t 0 .x 4 o ∧ t.gtc.toNat < (t.core 0).xfloor.toNat)) := by decide +kernel

theorem witness_GenerationLoads :
    (let o := opOf 3 1 [(8, 96)] [(5, 0xFFFE80)]
     let s := (withG o id).modCore 0 (fun k => { k with range := k.range.set 0 (rng 0 0) })
     Running s 0 .g 1 o ∧ 0 < o.fld .g 8 ∧ o.buf.length < 4 * o.fld .g 8 ∧ readCause s 0 0 (o.reg 5) 0 32 = none
     ∧ (sealsOf s ((List.range 32).map (fun j => engAt s (s.core 0) 0 (o.reg 5) j .r))).isSome = true)
    ∧ (let o := { opOf 3 1 [(8, 1)] [] with buf := [0, 0, 0, 0xB8] }
       Running (withG o id) 0 .g 1 o ∧ 4 * o.fld .g 8 ≤ o.buf.length ∧ progCheck (words32 1 o.buf) = none)
    ∧ (let o := { opOf 3 1 [(8, 1)] [] with buf := [0, 0, 0, 0xB0], no := some 0 }
       Running (withG o id) 0 .g 1 o ∧ 4 * o.fld .g 8 ≤ o.buf.length ∧ (progCheck (words32 1 o.buf)).isSome = true
       ∧ (withG o id).turnOf 0 (BPlace.nums (placesOf (withG o id) o.pages)) = true)
    ∧ (let o := opOf 3 2 [(10, 63)] []; Running (withG o id) 0 .g 2 o ∧ o.buf.length < 66 * (o.fld .g 10 + 1))
    ∧ (let o := { opOf 3 2 [] [] with buf := List.replicate 66 0, no := some 0 }
       Running (withG o id) 0 .g 2 o ∧ 66 * (o.fld .g 10 + 1) ≤ o.buf.length ∧ (actRecs 1 o.buf).any (recBad 1) = false
       ∧ (o.reg 5).toNat % 2 = 0 ∧ (withG o id).turnOf 0 (BPlace.nums (placesOf (withG o id) o.pages)) = true) := by decide +kernel

/-- A core whose program and activations stand in the page of the walk. -/
def loaded (o : EOp) : State :=
  let g : GStore := { GStore.reset with
    prog := some ⟨[0xB0000000], 0, 0, [none, none, none, none], 0⟩, progSet := some o.pages, actSet := some o.pages,
    act := List.replicate 66 0, lastOk := true, lastSet := some o.pages, dels := 1 }
  { withG o (fun k => { k with gs := g }) with xlat := paged }

theorem witness_GenerationCommands :
    (let o := opOf 3 3 [] [(6, 0x80000000)]
     Running (loaded o) 0 .g 3 o ∧ o.prog = 0
     ∧ bexecCause ((loaded o).modGs 0 GStore.clearLast) (((loaded o).modGs 0 GStore.clearLast).core 0).gs o = none
     ∧ (placesOf (loaded o) o.pages).length = 4)
    ∧ (let o := opOf 3 3 [] []
       Running (withG o id) 0 .g 3 o ∧ (bexecCause (withG o id) ((withG o id).core 0).gs o).isSome = true)
    ∧ (let o := { opOf 3 3 [] [(6, 0x80000000)] with prog := 1 }
       Running (loaded o) 0 .g 3 o ∧ (loaded o).banks.jobs = [] ∧ ((loaded o).core 0).gs.resume = none ∧ o.no = none)
    ∧ (let o := { opOf 3 3 [] [(6, 0x80000000)] with prog := 1, no := some 0 }
       Running (loaded o) 0 .g 3 o ∧ (loaded o).turnOf 0 (BPlace.nums (placesOf (loaded o) o.pages)) = true)
    ∧ (let o := opOf 3 4 [] [(6, 0x80000000)]
       Running (loaded o) 0 .g 4 o ∧ breadCause (loaded o) 0 o = none ∧ o.fld .g 21 = 0
       ∧ ((loaded o).core 0).iter.bind (·.sib) = none ∧ ((loaded o).core 0).gs.rows = []
       ∧ ∀ b < 32, (landedLane ((loaded o).core 0).gs [] (32 * o.fld .g 20 + b)).2 = false)
    ∧ (let o := opOf 3 5 [] []; Running (withG o id) 0 .g 5 o)
    ∧ (let o := opOf 3 6 [(17, 3)] [(17, 393184)]
       Running (withG o id) 0 .g 6 o ∧ (o.reg 17).toNat % 8 = 0 ∧ (o.reg 17).toNat + 32 ≤ spadSize ((withG o id).core 0) ∧ o.prog < 32)
    ∧ (let o := { opOf 3 6 [(17, 3)] [(17, 393184)] with prog := 32 }; Running (withG o id) 0 .g 6 o ∧ 32 ≤ o.prog) := by decide +kernel

/-- A generator of slot 1023, bucket 0, one 64-dim segment width. -/
theorem witness_KeyValueCommands :
    (let o := { opOf 3 7 [] [] with kvgen := 0x8FFC200000000010 }
     Running (withG o id) 0 .g 7 o ∧ o.buf.length < o.kvD * o.kvEsz)
    ∧ (let o := { opOf 3 7 [] [] with kvgen := 0x8FFC200000000010, buf := List.replicate 256 0 }
       Running (withG o id) 0 .g 7 o ∧ o.kvD * o.kvEsz ≤ o.buf.length ∧ o.aux = 0 ∧ o.kvRot = false)
    ∧ (let o := { opOf 3 7 [] [] with kvgen := 0x8FFC200000000010, buf := List.replicate 256 0, aux := 1, prog := 65 }
       let s := { withG o id with heap := { objs := [(16, { obj0 true with size := 16 })], slots := [] } }
       Running s 0 .g 7 o ∧ o.prog < o.kvD + 2 * gDw o.kvgen ∧ (s.obj (o.kvKey (coreCtx (s.core 0)))).st = .present
       ∧ kvOffset o.kvgen o.kvP o.prog < 512 * (s.obj (o.kvKey (coreCtx (s.core 0)))).size
       ∧ (heapByte s (o.kvKey (coreCtx (s.core 0))) (kvOffset o.kvgen o.kvP o.prog)).isSome = true)
    ∧ (let o := { opOf 3 7 [] [] with kvgen := 0x8FFC200000000010, buf := List.replicate 256 0, aux := 1, prog := 66 }
       let s := { withG o id with heap := { objs := [], slots := [(1023, slot0 0)] } }
       Running s 0 .g 7 o ∧ o.kvD + 2 * gDw o.kvgen ≤ o.prog ∧ (s.slot (gSlot o.kvgen)).st ≠ .free)
    ∧ (let o := opOf 3 8 [] [(5, 1023)]
       let s (st : SlotSt) : State := { withG o id with heap := { objs := [], slots := [(1023, { slot0 0 with st := st })] } }
       Running (s .prompt) 0 .g 8 o ∧ o.prog = 0 ∧ ((s .prompt).slot 1023).st = .prompt ∧ ((s .prompt).slot 1023).ctx = coreCtx ((s .prompt).core 0)
       ∧ ((s .gen).slot 1023).st ≠ .prompt ∧ ((s .handing).slot 1023).st = .handing
       ∧ ((s .handing).slot 1023).awaited.any (appendLive (s .handing)) = false
       ∧ ((s .handing).slot 1023).floor.toNat ≤ (s .handing).gtc.toNat) := by decide +kernel

theorem witness_BankWords :
    ((unitOn run0).unit 3).ready = some run0 ∧ (unitOn run0).curUnit.toNat = 3 := by decide +kernel

theorem witness_BankEffects :
    (let s := unitOn run0
     (s.unit 3).ready = some run0 ∧ run0.isHead = true ∧ s.jobOf run0.job = none
     ∧ (∀ x ∈ (List.range 64).map (fun i => qmacLane (s.unit 3) run0 ⟨0, 0, 0, 0⟩ i (((s.unit 3).rk 0).lanes.getD i ⟨0, false, false⟩)), x.2 = false)
     ∧ (∀ x ∈ (List.range 64).map (fun i => lmacLane (s.unit 3) run0 ⟨0, 0, 0, 0⟩ i (((s.unit 3).rk 0).lanes.getD i ⟨0, false, false⟩)), x.2 = false)
     ∧ tabGet s.banks.openRows (Machine.bankOf (run0.key 0)) ≠ some (run0.key 0 / 2 ^ 11))
    ∧ (let s := unitOn run0
       let t := { s with banks := { s.banks with openRows := [(Machine.bankOf (run0.key 0), run0.key 0 / 2 ^ 11)] } }
       let u := { t with banks := { t.banks with jobs := [job0] } }
       let v := { t with bridge := { t.bridge with swaits := [⟨{ core := 0, eng := .s, seq := 5 }, sectorsOf (run0.wordIa 0) 0 64, ⟨0, 0, 0, 0⟩, 0, [], false, []⟩] } }
       (∀ x ∈ [t, u, v], (x.unit 3).ready = some run0 ∧ tabGet x.banks.openRows (Machine.bankOf (run0.key 0)) = some (run0.key 0 / 2 ^ 11)
          ∧ isPoison x (run0.key 0) = false ∧ dirIn x (run0.wordIa 0) 64 = [])
       ∧ stampsPending t (run0.wordIa 0) 64 = false ∧ stampsPending u (run0.wordIa 0) 64 = false ∧ stampsPending v (run0.wordIa 0) 64 = true
       ∧ t.jobOf run0.job = none ∧ u.jobOf run0.job = some job0)
    ∧ ((unitOn { run0 with isHead := false }).unit 3).ready = some { run0 with isHead := false }
    ∧ (let s := unitOn run0
       let t := { s with banks := { s.banks with jobs := [{ job0 with stop := some (1, 0) }] } }
       (t.jobOf 0).isSome = true ∧ (t.unit 3).ready = some run0) := by decide +kernel

theorem witness_BankUnits :
    ((unitOn { run0 with exited := true }).unit 3).ready = none ∧ ((unitOn run0).unit 3).ready = some run0
    ∧ ((unitOn { run0 with rowWait := some (0, 7) }).unit 3).run = some { run0 with rowWait := some (0, 7) }
    ∧ ((unitOn { run0 with ridge := some 3, incoming := [[]] }).unit 3).run = some { run0 with ridge := some 3, incoming := [[]] }
    ∧ (let s := { unitOn run0 with wtq := [(0x100000040, 5)] }
       s.wtq[0]? = some (0x100000040, 5) ∧ chanOf 0x100000040 = 1 ∧ isHeld s 0x100000040 = false)
    ∧ (let r := { run0 with reach := [some 512, none, none, none] }
       let s := { unitOn r with wtq := [(quarterKey 0 0 3 0, 5)] }
       chanOf (quarterKey 0 0 3 0) = 0 ∧ isHeld s (quarterKey 0 0 3 0) = true) := by decide +kernel

theorem witness_Jobs :
    (let o := opOf 3 3 [] [(6, 0x80000000)]
     let j := { job0 with started := false, units := BPlace.nums (placesOf (loaded o) o.pages) }
     let s := { loaded o with banks := { State.reset.banks with jobs := [j] } }
     Running s 0 .g 3 o ∧ (s.core 0).gs.resume = none ∧ (s.core 0).gs.prog.isSome = true ∧ s.banks.jobs = [j] ∧ j.core = 0
     ∧ j.started = false ∧ j.op = o.id ∧ j.units.length = 4 ∧ j.units = BPlace.nums (placesOf s o.pages))
    ∧ (let o := opOf 3 3 [] []
       let s := bexecOn o { run0 with exited := true } job0
       Running s 0 .g 3 o ∧ s.banks.jobs = [job0] ∧ o.owed = 0 ∧ (jobRuns s job0).all (·.exited) = true ∧ (jobRuns s job0).length = 1)
    ∧ (let o := opOf 3 3 [] []
       let j := { job0 with stop := some (1, 0) }
       let s := bexecOn o { run0 with stopped := true } j
       Running s 0 .g 3 o ∧ j.keep = false ∧ j.stop.isSome = true ∧ (jobRuns s j).all (fun r => r.exited || r.stopped) = true
       ∧ (jobRuns s j).all (·.exited) = false)
    ∧ (let o := opOf 3 3 [] []
       let j := { job0 with stop := some (1, 0) }
       let s := { bexecOn o run0 j with gtc := 52500 }
       Running s 0 .g 3 o ∧ 0 + 1050 * s.base.bwdog.toNat ≤ s.gtc.toNat ∧ (jobRuns s j).any (fun r => !r.exited && !r.stopped) = true) := by
  decide +kernel

/-- A read of the first 64 bytes of the view. -/
theorem witness_ViewReads :
    let a := acc0 (.ia 0x80200000) 8 .load
    let s := { State.reset with xlat := paged, homeQ := [a] }
    s.homeQ[0]? = some a ∧ mayServe s 0 = true ∧ homeAt s 0x80200000 = .own ∧ isViewLoad s a = true ∧ s.now a.loc = .ia 0x80200000
    ∧ s.bridge.dir = [] ∧ s.bridge.swaits = [] ∧ a.planeP = false
    ∧ (match pageKeys s 0x80200000 8 false with
       | .view l n cl =>
         (planeNeeds l).length != 0 && (planeNeeds l).all (fun x => !behindWrite s x)
          && (match nextPlane s (whoOf a) l n cl { bytes := [], w := 0, poison := false } with | .more .. => true | _ => false)
          && ((planeNeeds l).filter (fun o => (tabGet ((planeNeeds l).foldl (fun t o => tabSet t o (0 : Byte)) []) o).isNone)).isEmpty
       | _ => false) = true := by decide +kernel

theorem witness_AccessSteps :
    (let a := acc0 (.ia 64) 8 .load
     let e := { acc0 (.ia 64) 8 (.store (List.replicate 8 1)) with seq := 4 }
     let f := { acc0 (.ia 64) 8 (.rmw 0 8 0 0 true) with seq := 4 }
     let s (l : List Acc) (m : List (Nat × Copy)) : State := at0 (fun k => { k with pend := l ++ [a], copies := m })
     ((s [] []).core 0).pend[0]? = some a ∧ a.cls ≠ 0 ∧ 0 < a.len ∧ olderThan (s [] []) a = [] ∧ (forwardsOf (s [] []) a).length ≠ a.len
     ∧ ((s [e] []).core 0).pend[1]? = some a ∧ (forwardsOf (s [e] []) a).length = a.len ∧ olderThan (s [e] []) a = [e]
     ∧ (knownByte e 0).isSome = true ∧ a.strong = false ∧ e.op.writes = true
     ∧ (copyRead (s [] [(2, ⟨List.replicate 32 7, 0, 1, false⟩)]) ((s [] [(2, ⟨List.replicate 32 7, 0, 1, false⟩)]).core 0) 64 8).isSome = true
     ∧ olderThan (s [f] []) a = [f] ∧ overlaps (s [f] []) f a = true ∧ (knownByte f 0).isSome = false) := by decide +kernel

theorem witness_StoresSent :
    let a := acc0 (.ia 64) 8 (.store (List.replicate 8 1))
    let e := { acc0 (.ia 72) 8 .load with seq := 4 }
    let s := { at0 (fun k => { k with pend := [e, a] }) with homeQ := [{ a with seq := 3 }] }
    (s.core 0).pend[1]? = some a ∧ a.cls ≠ 0 ∧ (s.core 0).stamps.length < 64 ∧ e.seq < a.seq ∧ overlaps s e a = false
    ∧ overlaps s { a with seq := 3 } a = true ∧ a.core = 0 ∧ isAhead s a = false ∧ a.op.writes = true := by decide +kernel

/-- The last word of the scratchpad. -/
theorem witness_AccessesServed :
    let s (op : AccOp) : State := { State.reset with homeQ := [acc0 (.spad 0 393208) 8 op] }
    let w (op : AccOp) (full : Bool) : State :=
      { State.reset with homeQ := [{ acc0 (.spad 0 393208) 8 op with waiting := some 0 }], full := if full then [spadKey State.reset 0 393208 / 8] else [] }
    mayServe (s .load) 0 = true ∧ mayServe (s (.store (List.replicate 8 1))) 0 = true ∧ mayServe (s (.rmw 10 8 1 1 true)) 0 = true
    ∧ mayServe (s (.rmw 0 8 1 1 false)) 0 = true ∧ behindLog (s (.rmw 0 8 1 1 false)) (acc0 (.spad 0 393208) 8 (.rmw 0 8 1 1 false)) = false ∧ (spadPlace (s .load) 0 393208 8).isSome = true
    ∧ (∀ b : Bool, isMoving (w (.ldf b) b) (.spad 0 393208) = false
        ∧ mayServe (w (.ldf b) b) 0 = true
        ∧ isFull (w (.ldf b) b) (spadKey State.reset 0 393208) = b
        ∧ mayServe (w (.ste 5) b) 0 = true
        ∧ isFull (w (.ste 5) b) (spadKey State.reset 0 393208) = b) := by decide +kernel

theorem witness_StampAndLeaseSteps :
    let s := { at0 (fun k => { k with
      stamps := [⟨0, 3, 2, false, some ⟨1, 2, 3, 4⟩⟩, ⟨0, 4, 0, true, some ⟨1, 2, 3, 4⟩⟩, ⟨0, 5, 1, false, none⟩],
      copies := [(1, ⟨[], 0, 5, false⟩), (2, ⟨[], 0, 6, false⟩)], wait := some (.fence 4 0 z) }) with
      gtc := 5, leases := [(0, ⟨5, 1, 0, false⟩), (1, ⟨6, 1, 0, false⟩)] }
    (s.core 0).stamps[0]? = some ⟨0, 3, 2, false, some ⟨1, 2, 3, 4⟩⟩ ∧ (s.core 0).stamps[1]? = some ⟨0, 4, 0, true, some ⟨1, 2, 3, 4⟩⟩
    ∧ (s.core 0).stamps[2]? = some ⟨0, 5, 1, false, none⟩ ∧ ((s.core 0).copies[0]?).map (·.2.expiry) = some 5
    ∧ ((s.core 0).copies[1]?).map (·.2.expiry) = some 6 ∧ (tabGet s.leases 0).map (·.e) = some 5 ∧ (tabGet s.leases 1).map (·.e) = some 6
    ∧ s.gtc = 5 ∧ (s.core 0).wait = some (.fence 4 0 z) ∧ fenceReady s 0 4 0 = false
    ∧ (let t := at0 (fun k => { k with wait := some (.fence 3 0 z) }); (t.core 0).wait = some (.fence 3 0 z) ∧ fenceReady t 0 3 0 = true) := by
  decide +kernel

theorem witness_SlotsAndSideLog :
    let a := acc0 (.spad 0 64) 8 (.store (List.replicate 8 1))
    let g : Group := ⟨5, 0, .none, [], 0, 1, 0, false, false⟩
    (∀ n ∈ [4, 5, 6], let s := { at0 (fun k => { k with wait := some (.slot 5 a g z) }) with gtc := BitVec.ofNat 64 n }
      (s.core 0).wait = some (.slot 5 a g z) ∧ s.gtc.toNat = n ∧ mayPerform s a = true ∧ (s.core 0).stamps.length < 64)
    ∧ (∀ n ∈ [4, 5], let s := { at0 (fun k => { k with wait := some (.scDone 5 z) }) with gtc := BitVec.ofNat 64 n }
      (s.core 0).wait = some (.scDone 5 z) ∧ (s.gtc.toNat < 5 ∨ 5 ≤ s.gtc.toNat))
    ∧ (State.reset.core 0).sidelog = []
    ∧ (let s := at0 (fun k => { k with sidelog := [a] })
       (s.core 0).sidelog = [a] ∧ a.core = 0 ∧ stampsPending s (s.keyNow a.loc) a.len = false ∧ s.homeQ = [] ∧ a.eng = .s
       ∧ heldElsewhere s 0 a.seq = false
       ∧ (match writeAt (s.setCore 0 { s.core 0 with
            sidelog := [], stamps := [{ core := 0, seq := a.seq, cls := a.cls, sc := a.sc, stamps := none }] }) (whoOf a) a.loc a.cls a.gr s.gtc
            (List.replicate 8 1) with | .done _ _ _ _ => true | _ => false) = true) := by decide +kernel

theorem witness_EngineSteps :
    (let o := { opOf 2 1 [(3, 1)] [] with started := false }
     let s := withC o id
     (s.core 0).headOp .c = some o ∧ o.started = false ∧ (s.core 0).queuesOk .c (hPop o.bits) (hPush o.bits) = false)
    ∧ (let o := { opOf 2 1 [(3, 2)] [] with started := false }
       let s := withC o id
       let t := withC o (fun k => { k with tok := k.tok.set 2 1 })
       (s.core 0).headOp .c = some o ∧ (s.core 0).queuesOk .c (hPop o.bits) (hPush o.bits) = true ∧ (s.core 0).popReady (hPop o.bits) = false
       ∧ o.tokStart = none ∧ (t.core 0).popReady (hPop o.bits) = true ∧ (t.core 0).queuesOk .c (hPop o.bits) (hPush o.bits) = true
       ∧ unperformed t 0 = [])
    ∧ (let o := { opOf 1 1 [] [] with started := false, live := false }
       let s := { withM o id with clusters := (leased 0 Cluster.reset id).clusters }
       (s.core 0).headOp .m = some o ∧ (s.core 0).queuesOk .m (hPop o.bits) (hPush o.bits) = true ∧ holdsLease s 0 = true ∧ arrayOver s (s.cluster 0) = false ∧ o.live = false)
    ∧ (∀ n ∈ [1048575, 1048576], let o := { opOf 2 1 [(3, 2)] [] with started := false, tokStart := some 0 }
       let s := { withC o (fun k => { k with tok := k.tok.set 2 1 }) with gtc := BitVec.ofNat 64 n }
       (s.core 0).headOp .c = some o ∧ o.fin = false ∧ o.tokStart = some 0 ∧ (s.core 0).popReady (hPop o.bits) = true
       ∧ (0 + 2 ^ 20 ≤ s.gtc.toNat ∨ s.gtc.toNat < 0 + 2 ^ 20)) := by decide +kernel

theorem witness_EngineCompletions :
    (let o := { opOf 2 1 [(4, 1)] [] with fin := true }
     (∀ n ∈ [0, 15], let s := withC o (fun k => { k with tok := k.tok.set 1 n })
       (s.core 0).headOp .c = some o ∧ opOver s 0 o = true ∧ o.status = 0 ∧ o.gstatus = 0 ∧ o.clamp = false ∧ o.noTok = false
       ∧ o.tokStart = none)
     ∧ ((withC o id).core 0).pushReady (hPush o.bits) = true
     ∧ (let t := withC o (fun k => { k with tok := k.tok.set 1 16 }); (t.core 0).pushReady (hPush o.bits) = false ∧ opOver t 0 o = true))
    ∧ (∀ n ∈ [1048575, 1048576], let s := { at0 (fun k => { k with wait := some (.token 0 1 false), tok := k.tok.set 1 1 }) with gtc := BitVec.ofNat 64 n }
       (s.core 0).wait = some (.token 0 1 false) ∧ (s.core 0).popReady 1 = true ∧ (0 + 2 ^ 20 ≤ s.gtc.toNat ∨ s.gtc.toNat < 0 + 2 ^ 20))
    ∧ ((at0 (fun k => { k with wait := some (.token 0 1 false) })).core 0).popReady 1 = false
    ∧ (let a := { acc0 (.spad 0 0) 8 (.ste 1) with waiting := some 0 }
       let s := { at0 (fun k => { k with wait := some (.home 5 z) }) with homeQ := [a] }
       (s.core 0).wait = some (.home 5 z) ∧ (∀ b ∈ s.homeQ, b.core = 0 → b.seq = 5 → b = a) ∧ a ∈ s.homeQ ∧ a.seq = 5 ∧ a.waiting = some 0)
    ∧ (let a := { acc0 (.spad 0 0) 256 (.vldf 1 true) with waiting := some 0 }
       let x : VEntry := ventry0 (.vldf z) (some 5)
       let s := { at0 (fun k => { k with vq := [x] }) with homeQ := [a] }
       (s.core 0).wait = none ∧ (s.core 0).vq = [x] ∧ x.fe = some 5 ∧ (∀ b ∈ s.homeQ, b.core = 0 → b.seq = 5 → b = a) ∧ a ∈ s.homeQ) := by
  decide +kernel

theorem witness_SchedulerSteps :
    (let x := { node0 with ready := some 0, n := [2], nextOrd := 1 }
     let s := { State.reset.setNode 9 (some x) with gtc := 65536 }
     nextPick s = some (.fresh 9 1) ∧ s.node 9 = some x ∧ isWaiting s 9 x = true ∧ x.ready.isSome = true ∧ x.ep < 3
     ∧ x.clock.toNat + 65536 ≤ s.gtc.toNat)
    ∧ (let x := { node0 with ready := some 0, ep := 2, clock := 1 }
       let s := { State.reset.setNode 9 (some x) with gtc := 65536 }
       s.node 9 = some x ∧ isWaiting s 9 x = true ∧ x.ep < 3 ∧ s.gtc.toNat < x.clock.toNat + 65536) := by decide +kernel

/-- A saved iteration of node 2 whose core is free. -/
theorem witness_Resume :
    let v : Saved := { it := iter0 none, lid := 0, frame := 0, core := Core.reset 0 }
    let s := State.reset.setNode 2 (some { node0 with ready := some 0, nextOrd := 1 })
    let t := { s with sched := { s.sched with saved := [v] } }
    (match nextPick t with | some (.saved w 0) => w.frame == 0 && w.it.node == 2 | _ => false) = true := by decide +kernel

theorem witness_Preemption :
    (let s := tasking (fun k => { k with preReq := some 0 })
     let t := { s with ctxs := State.reset.ctxs.set 0 { Ctx.reset with frameCount := 1 }, xlat := { page0 with
       pages := (List.range 64).map (fun i => (i, (⟨BitVec.ofNat 64 (0xC000000000000000 + i * 65536), 0⟩ : Leaf))) } }
     let busy := t.issueAccess 0 {} 0 (.sreg 5 3) 0 (List.replicate 8 0) [(⟨0, .ia 64, 8, 0, 0⟩, .load)]
     (s.core 0).preReq = some 0 ∧ (s.core 0).iter = some (iter0 none) ∧ (iter0 none).persist = false ∧ hasFrame s 0 = false
     ∧ (t.core 0).preReq = some 0 ∧ (t.core 0).iter = some (iter0 none) ∧ hasFrame t 0 = true
     ∧ t.banks.jobs.any (fun j => j.core == 0) = false ∧ t.bridge.reqs.any (fun e => feAsked t 0 e.2) = false
     ∧ atBoundary (t.abandonFe 0) 0 = true ∧ freeFrame (t.abandonFe 0) 0 = some 0
     ∧ hasFrame busy 0 = true ∧ atBoundary (busy.abandonFe 0) 0 = false
     ∧ ({ t with banks := { t.banks with jobs := [job0] } }).banks.jobs.any (fun j => j.core == 0) = true)
    ∧ (let s := at0 (fun k => { k with preReq := some 0, iter := some { iter0 none with persist := true } })
       (s.core 0).iter = some { iter0 none with persist := true } ∧ (s.core 0).preReq = some 0) := by decide +kernel

theorem witness_MigrationAndRelease :
    (let s := { tasking id with sched := { State.reset.sched with moves := [⟨0, 63⟩] } }
     s.sched.moves.find? (fun m => m.src == 0) = some ⟨0, 63⟩ ∧ memWf s.mem = true)
    ∧ (let b := { ballot0 0 2 with slots := [1023, 1022], cancelled := 1 }
       let s := { State.reset.setBallot 63 (some b) with heap := { objs := [], slots := [(1023, slot0 3)] } }
       s.ballot 63 = some b ∧ b.cancelled.testBit 0 = true ∧ b.released.testBit 0 = false ∧ sibGone s (63, 0) = true
       ∧ (s.slot 1023).st ≠ .handing ∧ (s.slot 1023).st ≠ .free ∧ (s.slot 1023).ctx = b.ctx ∧ b.cancelled.testBit 1 = false
       ∧ s.sched.owed = [] ∧ (0 : CoreId) ≠ 63)
    ∧ (let s := { State.reset with heap := { objs := [], slots := [(1023, slot0 3)] }, sched := { State.reset.sched with owed := [⟨63, 0, 0, 1023⟩] } }
       s.sched.owed = [⟨63, 0, 0, 1023⟩] ∧ sibGone s (63, 0) = true ∧ (s.slot 1023).st ≠ .handing) := by
  decide +kernel

/-- An object of one chunk under relocation from the first to the last frame of page 0. -/
def moving (busy : Bool) (prog : Nat) : State :=
  { State.reset with
    base := { State.reset.base with reloc := some (0, 15, 7), cq := ⟨0, 2, 0, 0⟩ }, xlat := page0
    heap := { objs := [(15, { obj0 false with st := .relocating, base := 0, newBase := 127, busy := busy, prog := prog })], slots := [] } }

theorem witness_Relocations :
    ((moving false 0).obj (objKey 0 15)).st = .relocating ∧ ((moving false 0).obj (objKey 0 15)).busy = false
    ∧ ((moving false 0).obj (objKey 0 15)).prog < ((moving false 0).obj (objKey 0 15)).size ∧ (moving false 0).base.reloc = some (0, 15, 7)
    ∧ ((moving true 0).obj (objKey 0 15)).busy = true ∧ accessTo (moving true 0) 0 512 = false
    ∧ accessTo { moving true 0 with homeQ := [acc0 (.ia 511) 1 .load] } 0 512 = true
    ∧ (match copyPieces (moving true 0) 0 65024 16 with | .done _ _ _ _ => true | _ => false) = true
    ∧ ((moving false 1).obj (objKey 0 15)).prog = ((moving false 1).obj (objKey 0 15)).size ∧ ringFull (moving false 1).base.cq = false := by
  decide +kernel

theorem witness_PageSteps :
    (∀ n ∈ [1049999, 1050000], let a := { acc0 (.ia 64) 8 .load with waiting := some 0 }
      let s := { State.reset with homeQ := [a], gtc := BitVec.ofNat 64 n }
      s.homeQ[0]? = some a ∧ a.waiting = some 0 ∧ stillFaults s a.loc = true ∧ (s.gtc.toNat < 0 + 1050000 ∨ 0 + 1050000 ≤ s.gtc.toNat))
    ∧ State.reset.gtc.toNat < State.reset.xlat.nextEpoch.toNat ∧ State.reset.base.migcfg.getLsbD 63 = false
    ∧ State.reset.xlat.nextEpoch.toNat ≤ ({ State.reset with gtc := State.reset.xlat.nextEpoch }).gtc.toNat
    ∧ (∀ b : Bool, let m : Migration := ⟨0, false, [7], b, 0⟩
       let s := { State.reset with xlat := { page0 with migs := [m] }, bridge := { State.reset.bridge with dir := [(0, dir0 .hS true false false false none)] } }
       s.xlat.migs.find? (fun m => m.page == 0) = some m ∧ tabGet s.xlat.pages 0 = some ⟨0xC000000000000000, 0⟩
       ∧ (∀ e ∈ pageDir s 0 ⟨0xC000000000000000, 0⟩, e.2.st ≠ .hE ∧ e.2.st ≠ .hA ∧ isTransient e.2.st = false)) := by decide +kernel

theorem witness_HomeDirectory :
    State.reset.bridge.up = false ∧ (linked id).bridge.up = true ∧ dirAt (linked id) 128 = none ∧ Quiet { linked id with gtc := 5 } ∧ dirIn (linked id) 128 128 = []
    ∧ (match pageKeys { linked id with xlat := page0 } 65408 128 true with | .keys l b => l.length == 128 && !b | _ => false) = true
    ∧ (match pageKeys { linked id with xlat := paged } 0x80000000 128 true with | .keys l b => l.length == 128 && b | _ => false) = true := by
  decide +kernel

theorem witness_HomeAnswers :
    (∀ st ∈ [DirSt.hS, .hE, .hO, .hA, .tFS, .tFX, .tBS, .tInv],
      ∀ p : Bool, dirAt (linked (fun b => { b with dir := [(128, dir0 st true p true p none)] })) 255 = some (128, dir0 st true p true p none)
        ∧ dirAt (linked (fun b => { b with dir := [(128, dir0 st true p false p none)] })) 128 = some (128, dir0 st true p false p none))
    ∧ isTransient .tInv = true
    ∧ reservedAway (linked (fun b => { b with dir := [(128, dir0 .hS true false false false none)], resv := [(128, ⟨1, 5, false, 0⟩)] })) flit0 128 128 = true
    ∧ (∀ n ∈ [8191, 8192], let s := { linked (fun b => { b with resv := [(128, ⟨1, 5, false, 0⟩)], waiters := [⟨6, false, 128, 1, 7, 0⟩] }) with gtc := BitVec.ofNat 64 n }
        tabGet s.bridge.resv 128 = some ⟨1, 5, false, 0⟩ ∧ (∀ w ∈ s.bridge.waiters, w.grain = 128 → w.tag ≠ 5 → w.count < 8)
        ∧ (∀ w ∈ s.bridge.waiters, w.grain = 128 → w.tag = 5 → w.port = false) ∧ (s.gtc.toNat < 0 + 8192 ∨ 0 + 8192 ≤ s.gtc.toNat)) := by
  decide +kernel

theorem witness_Recalls :
    let x (l dirs : List Nat) : StampWait := ⟨{ core := 0, eng := .s, seq := 5 }, [4], ⟨0, 0, 0, 0⟩, 0, dirs, true, l⟩
    (∀ l ∈ [[0], [0, 1], [1]], ∀ d ∈ [[], [128]], (linked (fun b => { b with swaits := [x l d] })).bridge.swaits[0]? = some (x l d))
    ∧ clusterOf 0 ∈ [0] ∧ clusterOf 0 ∉ [1] ∧ [0, 1].filter (· != clusterOf 0) ≠ [] ∧ [0].filter (· != clusterOf 0) = [] := by
  decide +kernel

/-- A request of this device under way, with its access at the home queue. -/
def asked (op : AccOp) (retry : Option Word) : State :=
  { linked (fun b => { b with reqs := [(7, { flit := { flit0 with tag := 7, ia := 2 ^ 48 }, core := 0, eng := .s, seq := 5, pos := 0, cls := 1, arr := 0, k := 0, retry := retry })] }) with
    homeQ := [{ acc0 (.ia (2 ^ 48)) 8 op with asked := true }] }

theorem witness_RemoteDataCache :
    linkReqOf (linked id) flit0 = none ∧ (linkReqOf (asked .load none) { flit0 with tag := 7 }).isSome = true
    ∧ (match linkReqOf (asked .load none) { flit0 with tag := 7 } with
       | some r => (entryOf { (asked .load none) with bridge := { (asked .load none).bridge with reqs := [] } } r).isSome && !isBlock r.flit | none => false) = true
    ∧ (match linkReqOf (asked (.rmw 0 8 0 0 true) none) { flit0 with tag := 7 } with
       | some r => (entryOf (asked (.rmw 0 8 0 0 true) none) r).isSome | none => false) = true
    ∧ (∀ n ∈ [4, 5], let s := { asked .load (some 5) with gtc := BitVec.ofNat 64 n }
       (tabGet s.bridge.reqs 7).map (·.retry) = some (some 5) ∧ (s.gtc.toNat < 5 ∨ 5 ≤ s.gtc.toNat)) := by decide +kernel

theorem witness_SnoopsOfTheCache :
    let g (st : RdcSt) : RdcGrain := ⟨1, st, List.replicate 128 0, 0, 0, false, none⟩
    (∀ st ∈ [RdcSt.m, .o, .e, .s, .sM, .xI], ∀ n ∈ [4, 5],
      let s := { linked (fun b => { b with rdc := [(2 ^ 48, g st)] }) with gtc := BitVec.ofNat 64 n, leases := [] }
      rdcAt s (2 ^ 48 + 127) = some (2 ^ 48, g st) ∧ rdcAt s (2 ^ 48 + 128) = none)
    ∧ leasesOver (linked id) (2 ^ 48) 1 = true
    ∧ leasesOver { linked id with leases := [(2 ^ 43, ⟨5, 1, 0, false⟩)] } (2 ^ 48) 1 = false
    ∧ (let x : RdcGrain := { g .m with want := some (0, .s, 5) }
       isWanted { State.reset with homeQ := [acc0 (.ia (2 ^ 48)) 8 (.store [1])] } x = true ∧ isWanted State.reset x = false)
    ∧ (let s := { linked id with leases := [(2 ^ 43, ⟨5, 1, 0, false⟩)] }
       tabGet s.leases (2 ^ 43) = some ⟨5, 1, 0, false⟩ ∧ s.gtc.toNat < 5 ∧ 2 ^ 43 ∈ sectorsOf (2 ^ 48) 1) := by decide +kernel

theorem witness_PeerAccesses :
    let s := { linked id with gtc := 5 }
    (linked id).bridge.up = true ∧ Quiet s ∧ s.bridge.up = true ∧ lineBusy s { flit0 with msg := 0x04, mask := 1 } = false
    ∧ lineBusy s { flit0 with msg := 0x05 } = false
    ∧ lineBusy (linked (fun b => { b with dir := [(0, dir0 .tInv true false true false none)] })) { flit0 with msg := 0x04 } = true
    ∧ (∀ n ∈ [15, 10, 24, 11, 25], (BitVec.ofNat 16 (n + 192)).toNat % 32 = n ∧ (BitVec.ofNat 16 (n + 192)).toNat / 2 ^ 12 = 0
        ∧ (BitVec.ofNat 16 (n + 192)).toNat / 64 % 8 ≠ 7)
    ∧ locOfIa s (4 * 2 ^ 48 + 393208) 0 = some (.spad 0 393208) ∧ (spadPlace s 0 393208 8).isSome = true
    ∧ locOfIa s (4 * 2 ^ 48 + 393152) 0 = some (.spad 0 393152) ∧ (spadPlace s 0 393152 64).isSome = true
    ∧ isMoving s (.spad 0 393208) = false ∧ viewAt s (Loc.spad 0 393208).key 8 = none := by
  decide +kernel

theorem witness_LinkSteps :
    State.reset.bridge.up = false ∧ flitOf false (List.replicate 64 0) 0 = none
    ∧ (flitOf true ([0x01, 0] ++ List.replicate 62 0) 0).isSome = true
    ∧ (State.reset.devnum = false ∧ (true : Bool) ≠ State.reset.devnum)
    ∧ (let s := { State.reset with devnum := true, ctxs := State.reset.ctxs.set 0 { Ctx.reset with isOpen := true } }
       s.devnum = true ∧ s.ctxs.any (·.isOpen) = true ∧ s.bridge.up = false)
    ∧ (∀ n ∈ [4, 5], let s := { linked (fun b => { b with wheelNext := some (128, 5) }) with gtc := BitVec.ofNat 64 n }
       s.bridge.wheelNext = some (128, 5) ∧ (s.gtc.toNat < 5 ∨ 5 ≤ s.gtc.toNat))
    ∧ (linked id).bridge.port0 = true ∧ (linked id).bridge.port1 = true
    ∧ (linked (fun b => { b with port0 := false })).bridge.port0 = false := by decide +kernel

/-- A device at stage 3 with page 0 mapped. -/
def hosted (f : State → State) : State := f { State.reset with base := { State.reset.base with stg := 3 }, xlat := page0 }

theorem witness_HostPort :
    let h (ia : Nat) (mv : MetaValue) : HostMsg := ⟨ia, mv, 7, List.replicate 64 1⟩
    hdmHas (hosted id) (2 ^ 39) = false ∧ hdmHas (hosted id) (2 ^ 39 - 1) = true ∧ hdmHas State.reset 0 = false
    ∧ Quiet (hosted (fun s => { s with gtc := 5 })) ∧ dirIn (hosted id) 65472 64 = []
    ∧ (match pageKeys (hosted id) 65472 64 false with | .keys l b => l.length == 64 && !b | _ => false) = true
    ∧ pageKeys (hosted id) 65536 64 false = .fault ∧ pageKeys (hosted id) 65536 1 true = .fault
    ∧ (match pageKeys (hosted id) 65472 1 true with | .keys _ _ => true | _ => false) = true
    ∧ (match leafOf (hosted id) 65472 with | some (_, l) => !lView l | none => false) = true
    ∧ (∀ m ∈ [MetaValue.inv, .shared], let q := h 65472 m; let s := hosted (fun s => { s with gtc := 5 })
       let a := s.arrive 4
       (match writeIa { a.2.2 with bridge := { a.2.2.bridge with hostWait := [{ req := .memWr q, since := none, arr := a.1, cyc := a.2.1 }] } }
          (whoHost (.memWr q) a.2.1) 65472 1 0 a.1 q.data with | .done .. => true | _ => false) = true)
    ∧ (match pageKeys { hosted id with xlat := paged } 0x80000000 64 false with | .keys l b => l.length == 64 && b | _ => false) = true := by
  decide +kernel

theorem witness_HostAnswers :
    let t (st : DirSt) (p : Bool) : State := linked (fun b => { b with dir := [(128, dir0 st p true p true none)] })
    (∀ p : Bool, dirAt (t .tInv p) 255 = some (128, dir0 .tInv p true p true none) ∧ dirAt (t .tBS p) 128 = some (128, dir0 .tBS p true p true none))
    ∧ dirAt (t .tInv true) 256 = none ∧ isHostIa (8 * 2 ^ 48 + 64) = true ∧ isHostIa 64 = false
    ∧ (let g (st : RdcSt) : RdcGrain := ⟨0, st, List.replicate 32 0, 0, 0, false, none⟩
       (∀ st ∈ [RdcSt.m, .e, .s, .iS, .iM], rdcAt (linked (fun b => { b with rdc := [(8 * 2 ^ 48 + 64, g st)] })) (8 * 2 ^ 48 + 95) = some (8 * 2 ^ 48 + 64, g st))
       ∧ isTransientRdc .iS = true ∧ isTransientRdc .iM = true ∧ grSize 0 = 32)
    ∧ rdcAt (linked id) (8 * 2 ^ 48 + 64) = none ∧ leasesOver (linked id) (8 * 2 ^ 48 + 64) 0 = true
    ∧ leasesOver { linked id with leases := [((8 * 2 ^ 48 + 64) / 32, ⟨5, 1, 0, false⟩)] } (8 * 2 ^ 48 + 64) 0 = false := by decide +kernel

theorem witness_CommandCompletions :
    (∀ opc ∈ [0x00, 0x10, 0x32], Queued (cmding opc (cmd0 0 0) id) opc (cmd0 0 0) ∧ ¬ Queued State.reset opc (cmd0 0 0)
      ∧ (cmding opc (cmd0 0 0) id).base.ready = true
      ∧ (let s := cmding opc (cmd0 0 0) (fun s => { s with base := { s.base with ready := false } })
         Queued s opc (cmd0 0 0) ∧ s.base.ready = false)
      ∧ (let s := cmding opc { cmd0 0 0 with reserved := true } id
         Queued s opc { cmd0 0 0 with reserved := true })
      ∧ (let s := cmding opc { cmd0 0 0 with ctx := 15 } id
         Queued s opc { cmd0 0 0 with ctx := 15 } ∧ (s.ctx 15).isOpen = false))
    ∧ CommandOf (cmd0 0 0) 0x32 (.tdestroy (cmd0 0 0)) := by
  refine ⟨by decide +kernel, ?_⟩
  simp [CommandOf]

theorem witness_RingSteps :
    (let s := cmding 0 (cmd0 0 0) id
     memWf s.mem = true ∧ s.base.cq.size ≠ 0 ∧ 3 ≤ s.base.stg ∧ s.base.cr.size ≠ 0
     ∧ leNat (hostRead s s.base.crtail.toNat 8) % s.base.cr.size.toNat = s.base.cr.head.toNat)
    ∧ State.reset.base.stg < 3
    ∧ (let s := cmding 0 (cmd0 0 0) (fun s => s.hostWrite 0 [1])
       1 < s.base.cr.size.toNat ∧ ringFull s.base.cq = false ∧ s.base.cr.head.toNat < s.base.cr.size.toNat
       ∧ (cmdUnit (recordAt s s.base.cr.head.toNat).1).isSome = true
       ∧ leNat (hostRead s s.base.crtail.toNat 8) % s.base.cr.size.toNat = (s.base.cr.head.toNat + 1) % s.base.cr.size.toNat) := by
  decide +kernel

theorem witness_ContextCommands :
    (∀ b : Bool, let q := cmd0 (if b then 1 else 2) 0
      Queued (cmding 0 q id) 0 q ∧ q.reserved = false
      ∧ Queued (cmding 0 q (fun s => { s with base := { s.base with ready := false } })) 0 q)
    ∧ (let q := { cmd0 0x1000 0x0010FF0 with ctx := 1 }
       let s := cmding 1 q id
       Accepted s 1 q ∧ q.a1.toNat / 2 ^ 12 % 16 = 0 ∧ q.a1.toNat < 2 ^ 28 ∧ (s.ctx 1).isOpen = false
       ∧ s.ctxs.any (fun y => y.isOpen && rangesMeet (q.a1.toNat % 2 ^ 12) (q.a1.toNat / 2 ^ 16 % 2 ^ 12) y.first y.count) = false)
    ∧ (let q := cmd0 0 0; Accepted (cmding 1 q id) 1 q ∧ ((cmding 1 q id).ctx 0).isOpen = true)
    ∧ (let q := cmd0 0 0
       Accepted (cmding 2 q id) 2 q ∧ canClose (cmding 2 q id) 0 = true ∧ (cmding 2 q id).base.reloc = none ∧ 0 < (cmding 2 q id).ctxs.size
       ∧ canClose (cmding 2 q (fun s => s.setNode 9 (some node0))) 0 = false
       ∧ Accepted (cmding 2 q (fun s => s.setNode 9 (some node0))) 2 q)
    ∧ (let q := cmd0 0x10000 1
       Accepted (cmding 8 q id) 8 q ∧ (cmding 8 q id).xlat.tpool = none ∧ Accepted (cmding 9 q id) 9 q
       ∧ Accepted (cmding 8 q (fun s => { s with xlat := { s.xlat with tpool := some (0, 1) } })) 8 q) := by decide +kernel

theorem witness_TranslationCommands_map :
    (let q := { cmd0 0xFFFFFFFF0000 0xC000000000010000 with a3 := 1 }
     let s := cmding 0x10 q (fun s => { s with base := { s.base with chanok0 := 1 }, xlat := { s.xlat with tpool := some (0x40000000, 1) } })
     Accepted s 0x10 q ∧ s.xlat.tpool.isSome = true ∧ anyMig s q.a0.toNat (pageSize q.a1) 1 = false
     ∧ mapOk s 0 q.a0.toNat q.a1 q.a2 q.a3.toNat = true)
    ∧ (let q := { cmd0 1 0xC000000000010000 with a3 := 1 }
       Accepted (cmding 0x10 q id) 0x10 q ∧ (cmding 0x10 q id).xlat.tpool = none ∧ mapOk (cmding 0x10 q id) 0 q.a0.toNat q.a1 q.a2 q.a3.toNat = false) := by decide +kernel

theorem witness_TranslationCommands_unmap :
    (let q := cmd0 0 1
     let s := cmding 0x11 q (fun s => { s with xlat := page0 })
     Accepted s 0x11 q ∧ homeAt s 0 = .own ∧ rising none (s.xlat.pages.map (·.1)) = true ∧ (leavesFrom s 0 1).length = 1
     ∧ (leavesFrom s 0 1).all (fun e => !lPin e.2 && !lMig e.2 && (pageDir s e.1 e.2).isEmpty && !pageDraining s e.2) = true)
    ∧ (let q := cmd0 0x80000000 1
       let s := cmding 0x11 q (fun s => { s with xlat := paged })
       Accepted s 0x11 q ∧ (leavesFrom s 0x80000000 1).any (fun e => lPin e.2) = true) := by decide +kernel

theorem witness_TranslationCommands_page :
    (∀ opc ∈ [0x12, 0x13, 0x14, 0x15], let q := cmd0 0xFFFF 0x2000
     let s := cmding opc q (fun s => { s with xlat := page0 })
     Accepted s opc q ∧ ownLeaf s 0xFFFF = some (0, ⟨0xC000000000000000, 0⟩) ∧ s.xlat.migs = []
     ∧ Accepted (cmding opc q id) opc q ∧ ownLeaf (cmding opc q id) 0xFFFF = none)
    ∧ (let s := cmding 0x13 (cmd0 0x80000000 0) (fun s => { s with xlat := paged })
       Accepted s 0x13 (cmd0 0x80000000 0) ∧ (ownLeaf s 0x80000000).map (fun e => lCc e.2) = some true) := by decide +kernel

/-- The state of the heap tests: object 15 of context 0. -/
def objected (s : State) : State := { s with heap := { objs := [(15, obj0 false)], slots := [] } }

/-- `objected` with a heap page mapped and a pool of one frame range. -/
def pooled (s : State) : State :=
  let c : Ctx := { Ctx.reset with isOpen := true, otlimit := 64, heapPool := [1024] }
  { objected s with xlat := paged, ctxs := State.reset.ctxs.set 0 c }

theorem witness_HeapCommands_pool :
    (let q := cmd0 0 64
     Accepted (cmding 0x20 q id) 0x20 q ∧ hasObjects (cmding 0x20 q id) 0 = false
     ∧ Accepted (cmding 0x20 q objected) 0x20 q ∧ hasObjects (cmding 0x20 q objected) 0 = true)
    ∧ (let q := cmd0 0x80000000 1
       let s := cmding 0x21 q (fun s => { s with xlat := paged })
       Accepted s 0x21 q ∧ (ownLeaf s 0x80000000).map (fun e => lCc e.2) = some true ∧ q.a0.toNat % 2 ^ 21 = 0)
    ∧ (let q := cmd0 1 1; Accepted (cmding 0x21 q id) 0x21 q ∧ q.a0.toNat % 2 ^ 21 ≠ 0) := by decide +kernel

theorem witness_HeapCommands_object :
    (∀ n ∈ [2048, 2049], let q := cmd0 63 (BitVec.ofNat 64 n)
     let s := cmding 0x22 q id
     Accepted s 0x22 q ∧ 63 < otLimit s 0 ∧ (s.obj (objKey 0 63)).st = .absent)
    ∧ (let q := cmd0 15 0x80000000
       let s := cmding 0x23 q pooled
       Accepted s 0x23 q ∧ s.base.reloc = none ∧ relocOk s 0 15 0x80000000 = true ∧ (s.recallEntries [objKey 0 15]).isNone = true ∧ relocOk s 0 14 0x80000000 = false) := by decide +kernel

/-- Slot 1023 of context 0 in a given stage. -/
def slotAt (st : SlotSt) (s : State) : State := { s with heap := { objs := [], slots := [(1023, { slot0 0 with st := st })] } }

/-- Slots 1022 and 1023 as SHARE asks for them. -/
def sharing (s : State) : State :=
  let a : SlotDesc := { slot0 0 with st := .prompt }
  let b : SlotDesc := { slot0 0 with len := 64 }
  { s with heap := { objs := [], slots := [(1022, a), (1023, b)] } }

/-- Context 0 open with room for the largest object identifiers. -/
def roomy (s : State) : State :=
  let c : Ctx := { Ctx.reset with isOpen := true, otlimit := 2 ^ 41 }
  { s with ctxs := State.reset.ctxs.set 0 c }

theorem witness_SlotCommands_share :
    let q := { cmd0 1022 1023 with a2 := 64 }
    let s := cmding 0x24 q sharing
    Accepted s 0x24 q ∧ shareOk q (s.slot 1022) (s.slot 1023) = true ∧ q.a2.toNat % 64 = 0
    ∧ shareOk q (s.slot 1023) (s.slot 1022) = false := by decide +kernel

theorem witness_SlotCommands_open :
    let q := { cmd0 1023 (BitVec.ofNat 64 (16 * 2 ^ 55)) with a2 := 2 ^ 40 - 1 }
    let s := cmding 0x28 q roomy
    Accepted s 0x28 q ∧ (s.slot 1023).st = .free ∧ q.a1.toNat % 2 ^ 31 = 0 ∧ (openDesc q).ctx = 0 ∧ (openDesc q).dw = 16
    ∧ idsClear s (openDesc q) = true ∧ (openDesc q).idbase + (openDesc q).segs - 1 < otLimit s 0 := by decide +kernel

theorem witness_SlotCommands_close :
    (let q := cmd0 1023 0
     let s (st : SlotSt) : State := cmding 0x29 q (slotAt st)
     Accepted (s .gen) 0x29 q ∧ ((s .gen).slot 1023).st = .gen ∧ ((s .gen).slot 1023).ctx = 0 ∧ ((s .handing).slot 1023).st = .handing
     ∧ Accepted (s .handing) 0x29 q ∧ ((s .gen).slot 1022).st = .free)
    ∧ Accepted (cmding 0x29 (cmd0 1024 0) id) 0x29 (cmd0 1024 0) := by decide +kernel

theorem witness_SlotCommands_ballot :
    (let q := cmd0 63 (BitVec.ofNat 64 (16 * 2 ^ 51 + 16 * 2 ^ 46))
     let s := cmding 0x2C q id
     Accepted s 0x2C q ∧ q.a1.toNat / 2 ^ 56 = 0 ∧ q.a1.toNat % 2 ^ 46 = 0 ∧ q.a1.toNat / 2 ^ 51 % 32 = 16 ∧ q.a1.toNat / 2 ^ 46 % 32 = 16
     ∧ slotWordsOk q = true ∧ s.ballot 63 = none)
    ∧ (∀ opc ∈ [0x2D, 0x2E], let q := cmd0 63 0x2000
       let s := cmding opc q (fun s => s.setBallot 63 (some (ballot0 0 2)))
       Accepted s opc q ∧ s.ballot 63 = some (ballot0 0 2) ∧ (ballot0 0 2).ctx = 0 ∧ groupLive s 63 = false
       ∧ Accepted (cmding opc q id) opc q ∧ (cmding opc q id).ballot 63 = none) := by decide +kernel

theorem witness_TensorCommands_create :
    let q := cmd0 1 0x100000
    let s := cmding 0x31 q (imaged tensor0 [])
    let d : TDesc := (List.range 16).map (wordAt (hostRead s 0x100000 128))
    Accepted s 0x31 q ∧ hasEntry s 0 1 = true ∧ tabGet (s.ctx 0).tens 1 = none ∧ formatOk d = true ∧ tKind d ≠ 3
    ∧ createResult s 0 false d [] = 0 ∧ (match writeEntry s 0 1 (some d) with | .done .. => true | _ => false) = true := by decide +kernel

theorem witness_TensorCommands_check :
    (let q := cmd0 1 0x100000
     let used := cmding 0x31 q (imaged tensor0 tensor0)
     let bad := cmding 0x31 q (imaged (tensor0.set 1 0) [])
     let small := cmding 0x31 q (imaged (tensor0.set 8 0) [])
     let img (s : State) : TDesc := (List.range 16).map (wordAt (hostRead s 0x100000 128))
     (∀ s ∈ [used, bad, small], Accepted s 0x31 q ∧ hasEntry s 0 1 = true)
     ∧ (tabGet (used.ctx 0).tens 1).isSome = true ∧ (tabGet (bad.ctx 0).tens 1).isSome = false ∧ formatOk (img bad) = false
     ∧ formatOk (img small) = true ∧ tKind (img small) ≠ 3 ∧ createResult small 0 false (img small) [] = 4)
    ∧ Accepted (cmding 0x31 (cmd0 1024 0) id) 0x31 (cmd0 1024 0) ∧ hasEntry (cmding 0x31 (cmd0 1024 0) id) 0 1024 = false
    ∧ Accepted (cmding 0x30 (cmd0 0x2000 0) id) 0x30 (cmd0 0x2000 0) := by decide +kernel

theorem witness_TensorCommands_destroy :
    (let q := cmd0 1 0
     let s := cmding 0x32 q (imaged [] tensor0)
     Accepted s 0x32 q ∧ hasEntry s 0 1 = true ∧ homeAt s (entryIa s 0 1) = .own ∧ (entryPage s (entryIa s 0 1)).isNone = true
     ∧ (entryPage s (entryIa s 0 1 + 127)).isNone = true ∧ dirIn s (entryIa s 0 1) 128 = []
     ∧ (match writeEntry s 0 1 none with | .done .. => true | _ => false) = true)
    ∧ Accepted (cmding 0x32 (cmd0 1024 0) id) 0x32 (cmd0 1024 0) ∧ hasEntry (cmding 0x32 (cmd0 1024 0) id) 0 1024 = false := by decide +kernel

/-- An image of one byte: version 2, security version 1. -/
def image0 : List Byte :=
  wordsOf [0x574630303437584F, BitVec.ofNat 64 (2 + 2 ^ 32), 1] ++ List.replicate 1001 0

/-- Flash holds image0 in both slots, and slot 0 runs. -/
def flashed (s : State) : State := { s with fleet := { s.fleet with flash0 := image0, flash1 := image0, running := 0 } }

theorem witness_BasecampCommands_firmware :
    (∀ n ∈ [0, 1, 65536, 65537], let q := { cmd0 0x100000 0 with a2 := BitVec.ofNat 64 n }
     Accepted (cmding 0x03 q flashed) 0x03 q)
    ∧ (let q := cmd0 0 0
       Accepted (cmding 0x04 q flashed) 0x04 q ∧ otherSlot (cmding 0x04 q flashed) = 1
       ∧ (cmding 0x04 q flashed).fleet.fused ≤ imgSvn (flashOf (cmding 0x04 q flashed) 1)
       ∧ (let s := cmding 0x04 q (fun s => { flashed s with fleet := { (flashed s).fleet with fused := 2 } })
          Accepted s 0x04 q ∧ imgSvn (flashOf s (otherSlot s)) < s.fleet.fused))
    ∧ (let q := cmd0 0 0
       Accepted (cmding 0x05 q id) 0x05 q ∧ (cmding 0x05 q id).fleet.fused = (cmding 0x05 q id).base.fwver.toNat % 2 ^ 32
       ∧ (let s := cmding 0x05 q (fun s => { s with base := { s.base with fwver := 3 } })
          Accepted s 0x05 q ∧ s.fleet.fused ≠ s.base.fwver.toNat % 2 ^ 32)) := by decide +kernel

theorem witness_BasecampCommands_signed : imageOk image0 = Config.imageSigned image0 := by
  have h : (imgNum image0 0 8 == 0x574630303437584F && 1024 + imgNum image0 16 8 ≤ image0.length
    && ((image0.drop 88).take 424).all (· == 0)) = true := by decide +kernel
  unfold imageOk
  rw [h, Bool.true_and]

theorem witness_BasecampCommands :
    (∀ a ∈ [0x5000, 0x5FFF], Accepted (cmding 0x06 (cmd0 (BitVec.ofNat 64 a) 0) id) 0x06 (cmd0 (BitVec.ofNat 64 a) 0))
    ∧ (∀ a ∈ [0x555080 - 0x550000, 0x4F + 0x7000, 0x50 + 0x5500, 0x6E + 0x7000, 0x6F + 0x7000, 0x50 + 0x5400],
        let q := cmd0 (BitVec.ofNat 64 a) 0; Accepted (cmding 0x07 q id) 0x07 q ∧ q.a0.toNat < 2 ^ 16)
    ∧ (∀ a ∈ [0x0000, 0x0501, 0xFF01], let q := cmd0 (BitVec.ofNat 64 a) 0
       Accepted (cmding 0x0A q id) 0x0A q ∧ q.a0.toNat < 2 ^ 16 ∧ q.a0.toNat % 256 < 2)
    ∧ (∀ a ∈ [0, 63, 64], let q := cmd0 (BitVec.ofNat 64 a) 0
       Accepted (cmding 0x0B q id) 0x0B q ∧ ((cmding 0x0B q id).fleetCore (q.a0.truncate 6)).test ≠ .passed
       ∧ (let s := cmding 0x0B q (fun s => s.setFleetCore 63 { FleetCore.reset with test := .passed })
          Accepted s 0x0B q ∧ (a = 63 → (s.fleetCore (q.a0.truncate 6)).test = .passed)))
    ∧ (∀ a ∈ [279, 280, 450, 451], let q := cmd0 (BitVec.ofNat 64 a) 0; Accepted (cmding 0x0C q id) 0x0C q ∧ q.a0.toNat < 2 ^ 16) := by
  decide +kernel

theorem witness_Launch :
    (let s := launchable (record0 0x1000 0x400) id
     s.base.ready = true ∧ (s.ctx 0).isOpen = true ∧ (s.ctx 0).has 1 = true ∧ s.node 1 = none
     ∧ (match loadNode s 0 1 with | .node _ _ => true | _ => false) = true
     ∧ (s.ctx 1).isOpen = false ∧ (s.ctx 0).has 2 = false ∧ ((launchable [] (fun s => s.setNode 1 (some node0))).node 1).isSome = true)
    ∧ (match loadNode (launchable (record0 0x1002 0x400) id) 0 1 with | .fault _ _ .misaligned => true | _ => false) = true
    ∧ (match loadNode (launchable [] id) 0 1 with | .fault _ _ .illField => true | _ => false) = true
    ∧ (match loadNode (launchable (record0 0x1000 0x10000) id) 0 1 with | .fault _ _ .pageFaultLoad => true | _ => false) = true
    ∧ (match loadNode (launchable (record0 0x1000 0x400)
        (fun s => { s with bridge := { s.bridge with dir := [(128, dir0 .tInv true false true false none)] } })) 0 1 with
       | .wait _ => true | _ => false) = true
    ∧ State.reset.base.ready = false := by decide +kernel

theorem witness_StartUpRegisters :
    (let s := launchable [] id
     s.base.stg = 3 ∧ s.base.cr.head = s.base.cr.tail ∧ State.reset.base.stg ≠ 3
     ∧ (∀ us ∈ [1, 1000], (BitVec.ofNat 64 us).toNat % 1024 = us) ∧ (∀ us ∈ [0, 1001], (BitVec.ofNat 64 us).toNat % 1024 = us)
     ∧ (∀ e ∈ [16, 30], ∀ t ∈ [1, 510], let v := (BitVec.ofNat 64 (e * 2 ^ 58 + t * 2 ^ 49)).toNat
        v / 2 ^ 16 % 2 ^ 17 = 0 ∧ v / 2 ^ 58 % 32 = e ∧ v / 2 ^ 49 % 512 = t)
     ∧ (∀ e ∈ [15, 31], ∀ t ∈ [0, 511], let v := (BitVec.ofNat 64 (e * 2 ^ 58 + t * 2 ^ 49)).toNat
        v / 2 ^ 58 % 32 = e ∧ v / 2 ^ 49 % 512 = t))
    ∧ (let s := launchable [] (fun s => { s with base := { s.base with cr := ⟨0, 4, 1, 2⟩, cq := ⟨0, 4, 0, 0⟩, eq := ⟨0, 4, 0, 0⟩ } })
       s.base.stg = 3 ∧ s.base.ready = true ∧ s.base.cr.head ≠ s.base.cr.tail ∧ 3 < s.base.cq.size.toNat ∧ ¬ 4 < s.base.eq.size.toNat)
    ∧ State.reset.base.stg = 0 := by decide +kernel

theorem witness_StartUpStages :
    (let s (stg : Nat) : State := { State.reset with base := { State.reset.base with stg := stg } }
     let t : State := { s 1 with fleet := { (s 1).fleet with flash0 := [], flash1 := [] } }
     (s 0).base.err = 0 ∧ (s 0).base.stg = 0 ∧ t.base.err = 0 ∧ t.base.stg = 1 ∧ goodSlots t = [] ∧ (s 2).base.stg = 2 ∧ (3 : Nat) ≤ (s 3).base.stg
     ∧ ({ State.reset.base with err := 4 } : Base).err ≠ 0) := by decide +kernel

theorem witness_StartUpStages_boot (h : imageOk image0 = true) :
    let t := flashed { State.reset with base := { State.reset.base with stg := 1 } }
    t.base.err = 0 ∧ t.base.stg = 1 ∧ goodSlots t = [0, 1] ∧ t.fleet.fused ≤ imgSvn (flashOf t 0)
    ∧ (let u : State := { t with fleet := { t.fleet with fused := 2 } }
       goodSlots u = [0, 1] ∧ ∀ n ∈ [0, 1], imgSvn (flashOf u n) < u.fleet.fused) := by
  have g : ∀ s : State, s.fleet.staged = false → goodSlots (flashed s) = [0, 1] := by
    intro s k
    simp [goodSlots, flashed, flashOf, h, k]
  exact ⟨rfl, rfl, g _ rfl, by decide +kernel, by simp [goodSlots, flashed, flashOf, h, State.reset, Fleet.reset], by decide +kernel⟩

/-- The fleet at stage 3, with changes. -/
def fleeted (f : Fleet → Fleet) : State :=
  { State.reset with base := { State.reset.base with stg := 3 }, fleet := f State.reset.fleet }

/-- What a core of the fleet stands at. -/
def testing (t : TestSt) (s : State) : State := s.setFleetCore 9 { FleetCore.reset with test := t }

theorem witness_FleetVotes :
    (fleeted id).base.stg = 3 ∧ State.reset.base.stg ≠ 3 ∧ areNeighbours 9 1 = true ∧ areNeighbours 7 8 = false
    ∧ tabGet (fleeted id).fleet.judged (64 * 9 + 1) = none
    ∧ tabGet (fleeted (fun f => { f with judged := [(577, 0)] })).fleet.judged (64 * 9 + 1) = some 0
    ∧ (∀ m ∈ [1, 2], (tabGet (fleeted (fun f => { f with missed := [(577, m)] })).fleet.missed (64 * 9 + 1)).getD 0 + 1 = m + 1)
    ∧ tabGet (fleeted id).fleet.suspect (64 * 9 + 1) = none
    ∧ (let s := fleeted (fun f => { f with suspect := [(577, 0)], votes := [⟨2, 1, 0, false⟩] })
       tabGet s.fleet.suspect (64 * 9 + 1) = some 0 ∧ (s.core 1).fenced = false ∧ (1 : CoreId) ∉ s.fleet.ordered
       ∧ votesNeeded 1 = 2 ∧ votesNeeded 9 = 3 ∧ liveVotes s 1 false = 1)
    ∧ (let s := fleeted (fun f => { f with ordered := [1] }); (1 : CoreId) ∈ s.fleet.ordered ∧ (s.core 1).fenced = false)
    ∧ (∀ n ∈ [11, 12], let s := { testing (.appealing 0) (fleeted id) with gtc := BitVec.ofNat 64 (1024 * n) }
       (s.fleetCore 9).test = .appealing 0 ∧ s.gtc.toNat / 1024 = n) := by decide +kernel

theorem witness_FleetFenced :
    (let s : State := (fleeted id).modCore 9 (fun k => { k with fenced := true })
     let t : State := { s with homeQ := [acc0 (.spad 9 0) 8 .load] }
     (s.core 9).fenced = true ∧ t.homeQ[0]? = some (acc0 (.spad 9 0) 8 .load) ∧ (t.core (t.byLid 9)).fenced = true
     ∧ (acc0 (.spad 9 0) 8 .load).arr.toNat + 65536 ≤ ({ t with gtc := 65536 } : State).gtc.toNat
     ∧ t.gtc.toNat < (acc0 (.spad 9 0) 8 .load).arr.toNat + 65536)
    ∧ (testing (.running 0) (fleeted id)).fleetCore 9 = { FleetCore.reset with test := .running 0 }
    ∧ (let s := { testing (.refused 0) (fleeted id) with gtc := 67108864 }
       (s.fleetCore 9).test = .refused 0 ∧ 65536 ≤ s.gtc.toNat / 1024)
    ∧ (let s := testing (.refused 0) (fleeted id); (s.fleetCore 9).test = .refused 0 ∧ s.gtc.toNat / 1024 < 65536)
    ∧ ((testing .concurred (fleeted id)).fleetCore 9).test = .concurred
    ∧ (let s := testing .passed (fleeted (fun f => { f with auto := true, perDay := 1 }))
       (s.fleetCore 9).test = .passed ∧ autoConcurs s (s.fleetCore 9) = true)
    ∧ (let s := testing .passed (fleeted id); (s.fleetCore 9).test = .passed ∧ autoConcurs s (s.fleetCore 9) = false)
    ∧ memWf (fleeted id).mem = true := by decide +kernel

theorem witness_FleetHeat :
    (fleeted id).fleet.mig = 95 ∧ (fleeted id).fleet.thr = 105 ∧ ((fleeted id).core 9).migReq = false
    ∧ ((fleeted id).core 9).fenced = false ∧ ((fleeted id).fleetCore 9).throttled = none ∧ ((fleeted id).fleetCore 9).shut = false
    ∧ (∀ x ∈ [1519, 1520, 1680, 1840], max x 0 = x) ∧ (16 * 95 = (1520 : Nat)) ∧ (16 * 115 : Nat) ≤ min 1840 1840 ∧ min 1840 1839 < (16 * 115 : Nat)
    ∧ (let s := (fleeted id).setFleetCore 9 { FleetCore.reset with throttled := some 0 }
       (s.fleetCore 9).throttled = some 0 ∧ max 1599 0 < 16 * (s.fleet.thr - 5) ∧ ¬ max 1600 0 < 16 * (s.fleet.thr - 5))
    ∧ ((testing .waiting (fleeted id)).fleetCore 9).test = .waiting ∧ ((testing .none (fleeted id)).fleetCore 9).test ≠ .waiting
    ∧ isBacked State.reset 0 = false
    ∧ isBacked { State.reset with base := { State.reset.base with chanok0 := 1 } } (64 * 50331647) = true
    ∧ (∀ g ∈ [1050000, 1050001], let s := { fleeted (fun f => { f with trips := [(.clock, 0)] }) with gtc := BitVec.ofNat 64 g }
       s.base.err ≠ 4 ∧ s.fleet.trips = [(Sensor.clock, 0)] ∧ Sensor.clock ≠ Sensor.mesh ∧ s.gtc.toNat = g)
    ∧ ({ State.reset.base with err := 4 } : Base).err = 4 := by decide +kernel

/-- The device with ADDI s11, s11, 8 at VA 0 of core 0 and an ISSUE next. -/
def fetching : State := State.reset.withFetchWord 64 0x00000008140002CB

theorem witness_StepRunsTheDecodedInstruction :
    canIssue (fetching.core 0) = true ∧ canIssue (State.reset.core 0) = false ∧ fetching.agenda = [.issue 0]
    ∧ (match fetchParcel { fetching with cur := 0 } 0 0 with
       | .got t lo => lo.getLsbD 31 == false && lo == 0x140002CB && (match fetchParcel t 0 4 with
          | .got _ hi => hi == 8#32 && (match decode64 (hi ++ lo) with | .ok (.addi _) => true | _ => false)
          | _ => false)
       | _ => false) = true
    ∧ (match exec (.issue 0) { fetching with agenda := [] } with
       | .next t => (match t.fetched with | some (.addi _) => true | _ => false)
       | _ => false) = true
    ∧ (match fetchParcel { State.reset.withFetchWord 32 0x814B0007 with cur := 0 } 0 0 with | .got _ lo => lo.getLsbD 31 | _ => false) = true
    ∧ (∀ p ∈ [0xD0000000, 0x8FFFFFFF, 0x814B0007], (match decodePatch (BitVec.ofNat 32 p) with | .ok _ => p == 0x814B0007 | _ => p != 0x814B0007) = true)
    ∧ decodeParcels 0x27000000 0 = .illOp ∧ decodeParcels 0x14000000 0x04000000 = .illField
    ∧ (let s := at0 (fun _ => { fetching.core 0 with pc := 2 ^ 40 })
       canIssue (s.core 0) = true ∧ (match fetchParcel { s with cur := 0 } 0 (2 ^ 40) with | .bad _ => true | _ => false) = true)
    ∧ (let s := at0 (fun _ => { fetching.core 0 with pc := 2 ^ 40, vq := [ventry0 (.vadd z) none] })
       canIssue (s.core 0) = true ∧ (s.core 0).vq ≠ [])
    ∧ (let s := { fetching with xlat := State.reset.xlat, cur := 0 }
       (match fetchParcel s 0 0 with | .stall _ => true | _ => false) = true)
    ∧ hasEncoding .tick = false ∧ (match exec .tick State.reset with | .next t => t.fetched.isNone | _ => false) = true := by
  decide +kernel

theorem witness_EveryStepKeepsMemoryCanonical :
    memWf fetching.mem = true ∧ (match step fetching with | .next t => memWf t.mem | _ => false) = true := by decide +kernel

theorem witness_BeforeTheEffect :
    let w : Fields := { z with pop := 1, push := 1 }
    let s (f : Core → Core) : State := at0 (fun k => f { k with tqcfg := 0x2DB6DB6DB6D })
    ((s id).core 0).vq = [] ∧ ((s id).core 0).queuesOk .s 1 1 = true ∧ ((s id).core 0).popReady 1 = false ∧ ((s id).core 0).wait = none
    ∧ (let t := s (fun k => { k with tok := k.tok.set 1 15 })
       (t.core 0).popReady w.pop = true ∧ (t.core 0).pushReady w.push = false)
    ∧ (let t := s (fun k => { k with tok := k.tok.set 1 14 })
       (t.core 0).popReady w.pop = true ∧ (t.core 0).pushReady w.push = true ∧ guardOk (t.core 0) { w with en := true } = false
       ∧ guardOk (t.core 0) w = true ∧ isBusy (t.core 0) [w.d, w.a, w.b] = false)
    ∧ (let t := s (fun k => { k with tok := k.tok.set 1 14, busyS := [3, 63] })
       isBusy (t.core 0) [3, w.a, w.b] = true ∧ isBusy (t.core 0) [63] = true)
    ∧ (at0 id).core 0 = State.reset.core 0 ∧ (State.reset.core 0).queuesOk .s 1 1 = false
    ∧ isNb { w with gs := true } = true ∧ isNb w = false := by decide +kernel

/-- S behind a vector instruction that waits for its token. -/
theorem witness_IssueBehindVector :
    let e : VEntry := ventry0 (.vadd { z with d := 1 }) none
    let s (f : Core → Core) : State := behind [e] f
    let w : Fields := { z with d := 5, a := 1 }
    let free (s : State) : Prop := (s.core 0).wait = none ∧ (s.core 0).vq ≠ []
    (free (s id) ∧ isNb w = false ∧ aheadFull ((s id).core 0) = false
      ∧ vecClash ((s id).core 0) w { s := [w.d, w.a, w.b], ahead := true } = false
      ∧ guardOk ((s id).core 0) w = true ∧ isBusy ((s id).core 0) [w.d, w.a, w.b] = false)
    ∧ guardOk ((s id).core 0) { w with en := true, gp := 3 } = false
    ∧ vecClash ((s id).core 0) { w with en := true, gp := 3 } { s := [w.d, w.a, w.b], ahead := true } = false
    ∧ isBusy ((s (fun k => { k with busyS := [5] })).core 0) [w.d, w.a, w.b] = true
    ∧ (let t := behind [{ e with after := 32 }] id; free t ∧ aheadFull (t.core 0) = true) := by decide +kernel

theorem witness_FormsComplete :
    (let s := ranged (fun k => { k.ws 1 393208 with win := k.win.set 7 (0, 0x8000000000000064) })
     Executes s { z with d := 63, a := 1, f := 19 } ∧ Executes s { z with b := 7, f := 3 } ∧ Executes s { z with f := 35, imm := 8 }
     ∧ (s.core 0).stamps.length < 64 ∧ (s.core 0).sidelog.length < 32
     ∧ (∀ p ∈ [Perm.r, .w], (match checkAccess s 0 2 393208 (List.range 8) p with | .ok .. => true | _ => false) = true)
     ∧ (match windowPlan s 0 7 0 8 (List.range 8) with | .ok .. => true | _ => false) = true
     ∧ (match windowPlan s 0 (windowOf 0x700008).1 (windowOf 0x700008).2 8 (List.range 8) with | .ok .. => true | _ => false) = true) := by
  decide +kernel

theorem witness_FormsComplete_tasks :
    (let s := (at0 (fun k => { k.ws 1 7 with iter := some (iter0 (some (63, 0))) })).setBallot 63 (some (ballot0 0 2))
     Executes s { z with d := 63, a := 1 } ∧ (s.core 0).iter.bind (·.sib) = some (63, 0) ∧ fenceReady s 0 2 (s.core 0).seq = true)
    ∧ (let s := tasking (·.ws 1 63)
       Executes s { z with d := 63, a := 1 } ∧ Executes s { z with d := 63, a := 1, f := 1 } ∧ isCancelled (s.core 0) = false
       ∧ fenceReady s 0 2 (s.core 0).seq = true) ∧ (4095#64).toNat < 4096 ∧ (63#64).toNat < 64
    ∧ (let s := tasking id
       Executes s z ∧ settled (s.core 0) = true ∧ isCancelled (s.core 0) = false ∧ (s.core 0).migReq = false ∧ (s.core 0).preReq = none
       ∧ (s.core 0).phstate.getLsbD 63 = false ∧ trapWaits (s.core 0) = false ∧ fenceReady s 0 4 (s.core 0).seq = true) := by decide +kernel

/-- A pre-emption is asked for, and the context has a frame. -/
theorem witness_FormsComplete_yield :
    let s := { tasking (fun k => { k with preReq := some 0 }) with
      ctxs := State.reset.ctxs.set 0 { Ctx.reset with frameCount := 1 }
      xlat := { page0 with pages := (List.range 64).map (fun i => (i, (⟨BitVec.ofNat 64 (0xC000000000000000 + i * 65536), 0⟩ : Leaf))) } }
    Executes s z ∧ settled (s.core 0) = true ∧ isCancelled (s.core 0) = false ∧ (s.core 0).preReq = some 0
    ∧ (s.core 0).iter = some (iter0 none) ∧ freeFrame s 0 = some 0 := by decide +kernel

theorem witness_RegisterFrame :
    Executes (at0 (·.ws 1 5)) { z with d := 63, a := 1, b := 2, f := 2 } ∧ (1 : BitVec 6) ≠ 63
    ∧ ((at0 (·.ws 1 5)).core 0).rs 1 = 5 := by decide +kernel

theorem witness_DecodeReadsEncodings :
    let a : Instr := .addi { z with d := 63, a := 11, pop := 7, push := 7, en := true, gp := 15, gs := true, imm := 0xFFFFF }
    a.wellFormed = true ∧ hasEncoding a = true ∧ (Instr.bankLoop { d := 2, a := 0, b := 1, imm := 32 }).wellFormed = true
    ∧ hasEncoding (.bankLoop { d := 2, a := 0, b := 1, imm := 32 }) = true
    ∧ (Instr.patchWord { eng := 1, tix := 63, fsel := 15, go := true, val := 0xFFFF }).wellFormed = true := by decide +kernel

theorem witness_IssuedAccesses : [((⟨0, .spad 0 0, 8, 1, 0⟩ : Part), AccOp.load)] ≠ [] := by decide

end Sys2Proof.Tests
end

section
/-! PROOFS. The scalar instructions of the sequencer (R113 to R117, R140, R145): each computes one value of its core and
writes it to a register. How such an instruction runs is shown once; what is left for an instruction is its value. -/

namespace Sys2Proof.Machine

open Sys2Proof

/-! ### How an instruction that executes runs -/

section Runs

variable {s : State} {w : Fields}

/-- S that waits for nothing is inside no instruction. -/
theorem Executes.ready {regs : List (BitVec 6)} (h : Executes s w regs) : Ready s w regs := by
  obtain ⟨hwait, hrest⟩ := h
  exact ⟨by simp [hwait, isInside], hrest⟩

/-- An instruction whose body changes the core by f, and goes on to the next one, completes with any g that does the same
to this core. -/
theorem sRun_gives {u : Use} (h : Executes s w u.s) {body : State → CoreId → SRes} {f g : Core → Core}
    (hbody : body s s.cur = .done (s.modCore s.cur f) (s.core s.cur).npc) (hfg : f (s.core s.cur) = g (s.core s.cur)) :
    sRun s w body u = .next (s.doneWith w g) := by
  rw [sRun_ex h.ready, hbody]
  simp [SRes.out, State.doneWith, State.doneTo, State.modCore, Core.npc, hfg]

theorem coreRun_gives {u : Use} (h : Executes s w u.s) {f g : Core → Core} (hfg : f (s.core s.cur) = g (s.core s.cur)) :
    coreRun s w f u = .next (s.doneWith w g) :=
  sRun_gives h rfl hfg

theorem aluRun_gives {u : Use} (h : Executes s w u.s) {f : Core → Word} {v : Word} (hv : f (s.core s.cur) = v) :
    aluRun s w f u = .next (s.doneWith w (·.ws w.d v)) :=
  sRun_gives h rfl (congrArg ((s.core s.cur).ws w.d) hv)

end Runs

/-! ### What the checks of R111 fix in the fields of an instruction -/

section Fields

variable {w : Fields} {n : Nat}

theorem fLo_eq (w : Fields) : fLo w = w.f.toNat % 8 := Nat.and_two_pow_sub_one_eq_mod w.f.toNat 3

theorem fHi_eq (w : Fields) : fHi w = w.f.toNat / 8 := by simp [fHi, Nat.shiftRight_eq_div_pow]

theorem toNat_eq_iff (f : BitVec 6) (hn : n < 64) : f.toNat = n ↔ f = BitVec.ofNat 6 n := by
  rw [← BitVec.toNat_inj, BitVec.toNat_ofNat, Nat.mod_eq_of_lt hn]

theorem f_eq_zero (f : BitVec 6) : f.toNat = 0 ↔ f = 0 := toNat_eq_iff f (by decide)

theorem f_eq_one (f : BitVec 6) : f.toNat = 1 ↔ f = 1 := toNat_eq_iff f (by decide)

theorem le_of_regR (h : regR w n = true) : w.f.toNat ≤ n := by
  simp only [regR, Bool.and_eq_true, decide_eq_true_eq] at h
  obtain ⟨⟨hf, -⟩, -⟩ := h
  exact hf

theorem regR_and_zB (h : (regR w n && zB w) = true) : w.f.toNat ≤ n ∧ w.b = 0 := by
  simp only [zB, Bool.and_eq_true, beq_iff_eq] at h
  obtain ⟨hr, hb⟩ := h
  exact ⟨le_of_regR hr, hb⟩

theorem f_eq_zero_of_immI (h : immI w = true) : w.f = 0 := by
  simp only [immI, zF, Bool.and_eq_true, beq_iff_eq] at h
  obtain ⟨⟨-, hf⟩, -⟩ := h
  exact hf

theorem immI_and_small (h : (immI w && decide (w.imm.toNat < 64)) = true) : w.f = 0 ∧ w.imm.toNat < 64 := by
  simp only [Bool.and_eq_true, decide_eq_true_eq] at h
  obtain ⟨hi, hn⟩ := h
  exact ⟨f_eq_zero_of_immI hi, hn⟩

theorem immI_and_zA (h : (immI w && zA w) = true) : w.f = 0 ∧ w.a = 0 := by
  simp only [zA, Bool.and_eq_true, beq_iff_eq] at h
  obtain ⟨hi, ha⟩ := h
  exact ⟨f_eq_zero_of_immI hi, ha⟩

theorem lui_fields (h : (zB w && ctlOk w false && (w.f == 1#6 || (zF w && zA w))) = true) :
    w.f = 1 ∨ (w.f = 0 ∧ w.a = 0) := by
  simp only [zF, zA, Bool.and_eq_true, Bool.or_eq_true, beq_iff_eq] at h
  obtain ⟨-, hf⟩ := h
  exact hf

/-- CMP and CMPI ask the same of D and F; z is the field that each leaves zero. -/
theorem compare_fields {z : Bool} (h : (r16 w.d && z && decide (fLo w ≤ 6) && decide (fHi w ≤ 2) && ctlOk w false) = true) :
    w.d.toNat < 16 ∧ w.f.toNat % 8 ≠ 7 ∧ w.f.toNat / 8 ≤ 2 := by
  simp only [r16, fLo_eq, fHi_eq, Bool.and_eq_true, decide_eq_true_eq] at h
  obtain ⟨⟨⟨⟨hd, -⟩, hlo⟩, hhi⟩, -⟩ := h
  exact ⟨hd, by omega, hhi⟩

/-- The fields that an F of PMOV leaves zero, and those that name a predicate. -/
theorem pmov_fields (h : pmovOk w = true) :
    w.f.toNat ≤ 10 ∧ (w.f.toNat = 9 ∨ w.d.toNat < 16) ∧ (1 ≤ w.f.toNat ∧ w.f.toNat ≤ 4 ∨ w.b = 0)
      ∧ (w.f.toNat ≤ 4 → w.a.toNat < 16 ∧ w.b.toNat < 16) ∧ (w.f.toNat = 5 ∨ w.f.toNat = 9 → w.a.toNat < 16)
      ∧ (w.f.toNat = 6 ∨ w.f.toNat = 7 → w.a = 0) := by
  simp only [pmovOk, Bool.and_eq_true] at h
  obtain ⟨-, hf⟩ := h
  split at hf <;> simp_all [r16, zA, zB]

theorem lea_fields (h : (fHi w == 0 && ctlOk w false) = true) : w.f.toNat / 8 = 0 := by
  simp only [fHi_eq, Bool.and_eq_true, beq_iff_eq] at h
  obtain ⟨hf, -⟩ := h
  exact hf

end Fields

/-! ### Values of the integer instructions (R113) -/

section IntegerValues

variable (a b d : Word) (f : BitVec 6)

/-- The shift count, and the position of a bit field. -/
theorem wbits_5_0 : wbits b 5 0 = b.toNat % 64 := by simp [wbits, bits]

theorem bfLen_eq : bfLen b = b.toNat / 256 % 64 + 1 := by simp [bfLen, wbits, bits]

theorem satW_signed (x : Int) : satW 1 x = BitVec.ofInt 64 (clampS x) := if_pos rfl

theorem satW_unsigned (x : Int) : satW 2 x = BitVec.ofInt 64 (clampU x) := if_neg (by decide)

/-- ADD and SUB: wrapping, clamped signed, clamped unsigned. -/
theorem addSub_eq (sub : Bool) : addSub sub f.toNat a b = if f = 0 then (if sub then a - b else a + b)
    else if f = 1 then BitVec.ofInt 64 (clampS (if sub then a.toInt - b.toInt else a.toInt + b.toInt))
    else BitVec.ofInt 64 (clampU (if sub then (a.toNat : Int) - b.toNat else a.toNat + b.toNat)) := by
  simp only [← f_eq_zero, ← f_eq_one]
  unfold addSub
  split
  case h_1 h => rw [if_pos h]
  case h_2 h1 =>
    have h0 : f.toNat ≠ 0 := by omega
    rw [if_neg h0, if_pos h1, satW_signed]
  case h_3 h0 h1 => rw [if_neg h0, if_neg h1, satW_unsigned]

theorem mulHigh_eq : mulHigh f.toNat a b = BitVec.ofInt 64
    ((if f = 1 then (a.toNat : Int) else a.toInt) * (if f = 0 then b.toInt else (b.toNat : Int)) / 2 ^ 64) := by
  simp only [mulHigh, f_eq_zero, f_eq_one]

theorem divW_eq : divW f.toNat a b = if b = 0 then BitVec.allOnes 64
    else if f = 0 then BitVec.ofInt 64 (a.toInt.tdiv b.toInt) else BitVec.ofNat 64 (a.toNat / b.toNat) := by
  simp only [divW, f_eq_zero, BitVec.udiv_def]

theorem remW_eq : remW f.toNat a b = if b = 0 then a
    else if f = 0 then BitVec.ofInt 64 (a.toInt.tmod b.toInt) else BitVec.ofNat 64 (a.toNat % b.toNat) := by
  simp only [remW, f_eq_zero, BitVec.umod_def]

/-- The order MIN and MAX compare by. -/
theorem lt_by_f : (if f = 0 then a.slt b else a.ult b) = true ↔ (if f = 0 then a.toInt < b.toInt else a.toNat < b.toNat) := by
  split <;> simp [BitVec.slt, BitVec.ult]

/-- A sign extension from n bits looks at no other bit. -/
theorem toS_mod (n x : Nat) : toS n (x % 2 ^ n) = toS n x := by simp [toS]

theorem bfxW_eq : bfxW f.toNat a b =
    if f = 1 then BitVec.ofInt 64 (toS (b.toNat / 256 % 64 + 1) (a.toNat / 2 ^ (b.toNat % 64)))
    else BitVec.ofNat 64 (a.toNat / 2 ^ (b.toNat % 64) % 2 ^ (b.toNat / 256 % 64 + 1)) := by
  simp only [bfxW, f_eq_one, toS_mod, bfLen_eq, bfPos, wbits_5_0, w64]

theorem shiftLeft_eq_ofNat (n : Nat) : a <<< n = BitVec.ofNat 64 (a.toNat * 2 ^ n) := by
  apply BitVec.eq_of_toNat_eq
  simp [Nat.shiftLeft_eq]

theorem bfiW_eq : bfiW d a b =
    let m := BitVec.ofNat 64 ((2 ^ (b.toNat / 256 % 64 + 1) - 1) * 2 ^ (b.toNat % 64))
    (d &&& ~~~m) ||| (a <<< (b.toNat % 64) &&& m) := by
  rw [bfiW, bfLen_eq, bfPos, wbits_5_0, shiftLeft_eq_ofNat]
  rfl

end IntegerValues

/-- Settles O1: the one value of each instruction is its lemma above. -/
theorem integerResults : Obligations.IntegerResults := by
  intro s w h a b d n len gives
  refine ⟨aluRun_gives h (addSub_eq a b w.f false), aluRun_gives h (addSub_eq a b w.f true), aluRun_gives h rfl,
    aluRun_gives h (mulHigh_eq a b w.f), aluRun_gives h (divW_eq a b w.f), aluRun_gives h (remW_eq a b w.f),
    aluRun_gives h rfl, aluRun_gives h rfl, aluRun_gives h rfl, aluRun_gives h rfl,
    aluRun_gives h (congrArg (a <<< ·) (wbits_5_0 b)), aluRun_gives h (congrArg (a >>> ·) (wbits_5_0 b)),
    aluRun_gives h (congrArg a.sshiftRight (wbits_5_0 b)),
    aluRun_gives h (if_congr (lt_by_f a b w.f) rfl rfl), aluRun_gives h (if_congr (lt_by_f a b w.f) rfl rfl),
    aluRun_gives h rfl, aluRun_gives h rfl, aluRun_gives h (bfxW_eq a b w.f), aluRun_gives h (bfiW_eq a b d),
    aluRun_gives h rfl, ?_, ?_⟩
  · simp only [List.forall_mem_cons, List.not_mem_nil, false_imp_iff, implies_true, and_true]
    exact ⟨le_of_regR, le_of_regR, le_of_regR, le_of_regR, le_of_regR, le_of_regR, le_of_regR, le_of_regR, le_of_regR,
      le_of_regR, le_of_regR, le_of_regR, le_of_regR, le_of_regR, le_of_regR, fun hz => (regR_and_zB hz).1,
      fun hz => (regR_and_zB hz).1, le_of_regR, le_of_regR, le_of_regR⟩
  · rintro (hz | hz) <;> exact (regR_and_zB hz).2

/-- Settles O2: the values are those of the table as they stand. -/
theorem immediateResults : Obligations.ImmediateResults := by
  intro s w h a se ze n gives
  refine ⟨aluRun_gives h rfl, aluRun_gives h rfl, aluRun_gives h rfl, aluRun_gives h rfl, aluRun_gives h rfl,
    aluRun_gives h rfl, aluRun_gives h rfl, aluRun_gives h rfl, aluRun_gives h rfl, ?_, ?_, ?_, ?_⟩
  · simp only [List.forall_mem_cons, List.not_mem_nil, false_imp_iff, implies_true, and_true]
    exact ⟨f_eq_zero_of_immI, f_eq_zero_of_immI, f_eq_zero_of_immI, f_eq_zero_of_immI, fun hz => (immI_and_small hz).1,
      fun hz => (immI_and_small hz).1, fun hz => (immI_and_small hz).1, fun hz => (immI_and_zA hz).1⟩
  · simp only [List.forall_mem_cons, List.not_mem_nil, false_imp_iff, implies_true, and_true]
    exact ⟨fun hz => (immI_and_small hz).2, fun hz => (immI_and_small hz).2, fun hz => (immI_and_small hz).2⟩
  · exact fun hz => (immI_and_zA hz).2
  · exact lui_fields

/-! ### Values of the compares and predicate moves (R115, R116) -/

section PredicateValues

variable (n : Nat) (a b : Word) (old : Pred) (c : Bool)

/-- The relation that F[2:0] of CMP and CMPI selects, as R115 writes it. -/
theorem cmpCond_eq : cmpCond n a b = match n with
    | 0 => decide (a = b) | 1 => decide (a ≠ b) | 2 => decide (a.toInt < b.toInt) | 3 => decide (b.toInt ≤ a.toInt)
    | 4 => decide (a.toNat < b.toNat) | 5 => decide (b.toNat ≤ a.toNat) | _ => decide (a &&& b ≠ 0) := by
  unfold cmpCond
  rw [Bool.eq_iff_iff]
  split <;> simp [BitVec.slt, BitVec.ult]

theorem cmpCombine_eq : cmpCombine n old c = match n with
    | 0 => if c then BitVec.allOnes 256 else 0 | 1 => old &&& (if c then BitVec.allOnes 256 else 0)
    | _ => old ||| (if c then BitVec.allOnes 256 else 0) := rfl

end PredicateValues

/-- PMOV completes with an effect g where its own is g and it names the registers of a list. -/
theorem pmov_gives {s : State} {w : Fields} {regs : List (BitVec 6)} {g : Core → Core} (h : Executes s w regs)
    (hregs : (usePmov w).s = regs) (hg : pmov w (s.core s.cur) = g (s.core s.cur)) :
    execPmov w s = .next (s.doneWith w g) :=
  coreRun_gives (hregs ▸ h) hg

/-- Settles O3: a compare combines its condition with pD, and each F of PMOV names its own registers. -/
theorem predicateResults : Obligations.PredicateResults := by
  intro s w k a cond all old put pa pb toP
  have hcond (x : Word) : cmpCond (fLo w) a x = cond x := by
    rw [fLo_eq]
    exact cmpCond_eq _ a x
  have hput (c : Bool) : cmpCombine (fHi w) old c = put c := by
    rw [fHi_eq]
    exact cmpCombine_eq _ old c
  have hcmp (x : Word) :
      k.wp (r4 w.d) (cmpCombine (fHi w) old (cmpCond (fLo w) a x)) = k.wp (r4 w.d) (put (cond x)) := by
    rw [hcond, hput]
  refine ⟨fun h => coreRun_gives h (hcmp _), fun h => coreRun_gives h (hcmp _), fun h => ?_, fun h => ?_,
    fun h hf => pmov_gives h (by simp [usePmov, hf]) (by simp [pmov, hf, pa, k]), ?_, ?_⟩
  · refine ⟨?_, ?_, ?_, ?_, ?_, ?_, ?_, ?_⟩
    all_goals exact fun hf => pmov_gives h (by simp [usePmov, hf]) (by simp [pmov, hf, predOf, pa, pb, k])
  · refine ⟨?_, ?_⟩
    all_goals exact fun hf => pmov_gives h (by simp [usePmov, hf, useCmp]) (by simp [pmov, hf, predOf, all, a, k])
  · simp only [List.forall_mem_cons, List.not_mem_nil, false_imp_iff, implies_true, and_true]
    exact ⟨compare_fields, compare_fields⟩
  · exact pmov_fields

/-! ### LEA and LEA2 (R117) -/

theorem low32_eq (b : Word) : w64 (wbits b 31 0) = b &&& 0xFFFFFFFF#64 := by
  have h : (b &&& 0xFFFFFFFF#64).toNat = b.toNat % 2 ^ 32 := Nat.and_two_pow_sub_one_eq_mod b.toNat 32
  apply BitVec.eq_of_toNat_eq
  rw [h]
  simp only [w64, wbits, bits, BitVec.toNat_ofNat]
  omega

theorem high32_eq (b : Word) : w64 (wbits b 63 32) = b >>> 32 := by
  apply BitVec.eq_of_toNat_eq
  simp only [w64, wbits, bits, BitVec.toNat_ofNat, BitVec.toNat_ushiftRight, Nat.shiftRight_eq_div_pow]
  omega

/-- Settles O4: the halves of sB are a mask and a shift of it. -/
theorem addressArithmetic : Obligations.AddressArithmetic := by
  intro s w h k a b
  refine ⟨aluRun_gives h ?_, aluRun_gives h ?_, ?_⟩
  · rw [fLo_eq]; rfl
  · rw [fLo_eq, low32_eq, high32_eq]; rfl
  · rintro (hz | hz) <;> exact lea_fields hz

/-! ### HZN (R140) -/

theorem andNot_or (v m : Word) : (v &&& ~~~m) ||| m = v ||| m := by
  ext i hi
  cases h : m[i] <;> simp [h]

/-- Clearing bit 63 and then setting it where something is pending sets it, or clears it. -/
theorem pendingBit_eq (v : Word) (p : Bool) : (v &&& 0x7FFFFFFFFFFFFFFF#64) ||| (if p then w64 (2 ^ 63) else 0) =
    if p then v ||| 0x8000000000000000#64 else v &&& 0x7FFFFFFFFFFFFFFF#64 := by
  cases p
  case false => simp
  case true => exact andNot_or v 0x8000000000000000#64

/-- Settles O13, one F after the other: the value is the register with its bit 63 as `pendingBit_eq` says. -/
theorem horizonReads : Obligations.HorizonReads := by
  intro s w h k c gives pend
  have hgives {v : Word} (hv : hznValue s c w.f.toNat = v) : exec (.hzn w) s = gives v :=
    sRun_gives h rfl (congrArg (k.ws w.d) hv)
  refine ⟨?_, ?_, ?_, ?_, ?_, ?_, ?_⟩
  all_goals
    intro hf
    apply hgives
    simp only [hznValue, hf, pendingBit_eq]
    rfl

/-! ### MSTAT (R145) -/

theorem requests_iff (s : State) (c : CoreId) :
    requests s c = true ↔ (s.core c).mq ≠ [] ∨ (s.core c).wait = some .lease := by
  simp [requests]

theorem holdsLease_iff (s : State) (c : CoreId) :
    holdsLease s c = true ↔ (s.cluster (clusterOf c)).holder = some (BitVec.ofNat 2 (positionOf c)) := by
  simp [holdsLease]

/-- The word of R145 in terms of the lease and the command queue. -/
theorem mstat_eq (s : State) (c : CoreId) : let a := s.cluster (clusterOf c)
    mstat s c = BitVec.ofNat 64 ((if a.holder = some (BitVec.ofNat 2 (positionOf c)) then
        1 + a.cmds * 2 + min 4096 (2 * (s.gtc.toNat - a.grantTick.toNat)) * 256 else 0)
      + (s.core c).mq.length * 2 ^ 21
      + (if (s.core c).mq ≠ [] ∨ (s.core c).wait = some .lease then 2 ^ 26 else 0)) := by
  rw [mstat]
  simp only [holdsLease_iff, requests_iff]
  rfl

/-- Settles O17: `mstat_eq` writes out the word. -/
theorem arrayStatus : Obligations.ArrayStatus := by
  intro s w h k a mine
  exact sRun_gives h rfl (congrArg (k.ws w.d) (mstat_eq s s.cur))

end Sys2Proof.Machine
end
